-- ==== Sys2Proof/Word.lean ====
section
/-! DEFINITION. Word types and their plainest arithmetic. -/

namespace Sys2Proof

/-- A byte. -/
abbrev Byte := BitVec 8

/-- A node ID (R59). -/
abbrev Node := BitVec 16

/-- A tenant tag, laid out as the TENANT field of the region record (R71, R76). -/
abbrev Tag := BitVec 16

/-- A 64-byte command descriptor (R516) or ZE-208 descriptor (R555, R559), byte 0 in bits 7:0. -/
abbrev Desc := BitVec 512

/-- A time stamp in ticks of 0.4 ns (R599). -/
abbrev Time := Nat

end Sys2Proof
end

