-- ==== Sys2Proof/Syntax.lean ====
section
/-! DEFINITION. The commands: one constructor of `Instr` per row of opcode_table.json, and the
operands they carry. -/

namespace Sys2Proof

/-- The two parts of the manual (R1): a command that can act on either names the part. -/
inductive Part
  | zs  -- the ZS-6476 switch
  | ze  -- the ZE-208 end-point block
  deriving DecidableEq, Repr, Inhabited

/-- A Ubkel packet (R181 to R187). `w20` holds bytes 20 to 23: KEY of a request, or STATUS, RFLAGS
and two reserved bytes of a response. `len` holds LEN with SUBOP in bits 15:12. -/
structure Packet where
  opcode  : Byte
  flags   : Byte
  stream  : Byte
  srcInc  : Byte
  dstInc  : Byte
  seq     : BitVec 24
  dst     : Node
  src     : Node
  tenant  : Tag
  len     : BitVec 16
  time    : BitVec 32
  w20     : BitVec 32
  region  : BitVec 16
  offset  : BitVec 48
  payload : List Byte
  tag     : BitVec 32
  crc     : BitVec 32
  deriving DecidableEq, Repr, Inhabited

/-- A packet that arrives at a part on one of its ports: FP0 to FP63 of the switch, EP0 or EP1 of
the ZE-208. -/
structure Arrival where
  part : Part
  port : Fin 64
  pkt  : Packet
  deriving DecidableEq, Repr, Inhabited

/-- A flit (R180) with its LCTL, XOFF, LINK_MGMT and LSEQ_ACK fields taken apart (R473, R474).
`lcrc` is LCRC as it stands in the flit. -/
structure Flit where
  data   : List Byte
  vc     : Fin 8
  first  : Bool
  last   : Bool
  idle   : Bool
  fill   : Byte
  xoff   : Byte
  mtype  : Byte
  mdata  : BitVec 32
  nak    : Bool
  seqd   : Bool
  ack    : BitVec 12
  lseq   : BitVec 12
  lcrc   : BitVec 32
  deriving DecidableEq, Repr, Inhabited

/-- The place of a ring command: host port, command ring and index of the command in its ring
(R514, R518). -/
structure CmdRef where
  port : Fin 2
  ring : Fin 62
  slot : BitVec 32
  deriving DecidableEq, Repr, Inhabited

/-- A DRAM read failure of the environment (R416): how many reads of the line in a row fail, and,
where the third read matched its CRC, the other TENANT that it carried. -/
structure ReadFault where
  line  : Nat
  fails : Nat
  tag   : Option Tag
  deriving DecidableEq, Repr, Inhabited

/-- Choices the manual leaves to the switch when it places something (R67, R75, R101): the index,
the slot of granule 0 and the slot of the first protection granule that it would take. A choice that
is not free is replaced by the lowest that is. -/
structure Pick where
  index : Nat
  slot  : Nat
  prot  : Nat
  faults : List ReadFault
  deriving DecidableEq, Repr, Inhabited

/-- The Meta0-State value of a CXL.mem request (R503). -/
inductive HostMeta
  | any | shared | invalid | noop
  deriving DecidableEq, Repr, Inhabited

/-- The identity an end reports at the far-end exchange (R467). -/
structure FarId where
  serial   : BitVec 64
  part     : BitVec 16
  stepping : Byte
  port     : Byte
  node     : Node
  deriving DecidableEq, Repr, Inhabited

/-- The marker fields that the receiver of a lane has found when every lane holds MARKER_LOCK (R462, R465). -/
structure LaneMark where
  lane  : BitVec 2
  port  : BitVec 6
  block : BitVec 16
  deriving DecidableEq, Repr, Inhabited

/-- The outcome of a bring-up step (R471, R472): passed, the markers of the four lanes at step 4 (R465), or failed
with a FAIL_CAUSE of R490. -/
inductive StepResult
  | pass
  | marks (lanes : List LaneMark)
  | fail (cause : BitVec 4)
  deriving DecidableEq, Repr, Inhabited

/-- Where a flit arrives. -/
structure LinkEnd where
  part : Part
  port : Fin 64
  deriving DecidableEq, Repr, Inhabited

/-- How a message of the time tree or of the fault protocol arrives: on a port, for a node or, with 0, for every node. -/
structure Heard where
  port : Fin 64
  dst  : Node
  deriving DecidableEq, Repr, Inhabited

/-- Consecutive training blocks of a lane in which SYNC was found, or missed (R463). -/
structure SyncRun where
  found  : Bool
  blocks : Nat
  deriving DecidableEq, Repr, Inhabited

/-- D2D modules that are up, and the ports that the accelerator enables (R582). -/
structure EpOn where
  modules : BitVec 2
  ports   : BitVec 2
  deriving DecidableEq, Repr, Inhabited

/-- A BEACON (R608). `frac` is byte 3. -/
structure Beacon where
  flags      : Byte
  depth      : Byte
  frac       : Byte
  term       : Nat
  sender     : Node
  manager    : Node
  candidate  : Node
  standby    : Node
  tDepart    : Time
  echoDepart : Time
  echoArrive : Time
  candCount  : BitVec 32
  stbyCount  : BitVec 32
  deriving DecidableEq, Repr, Inhabited

/-- A REPORT (R610, R784). -/
structure Report where
  kind     : Byte
  cause    : Byte
  reporter : Node
  subject  : Node
  port     : Byte
  id       : Nat
  time     : Time
  deriving DecidableEq, Repr, Inhabited

/-- A VERDICT (R611). -/
structure Verdict where
  kind     : Byte
  subject  : Node
  physical : Node
  newInc   : Byte
  cause    : Byte
  term     : Nat
  id       : Nat
  decided  : Time
  apply    : Time
  manager  : Node
  arg      : Nat
  deriving DecidableEq, Repr, Inhabited

/-- A Crucible thread group: program ID (R348) and group index within the program. -/
structure GroupId where
  prog : BitVec 8
  grp  : Fin 16
  deriving DecidableEq, Repr, Inhabited

/-- The rails of R767. -/
inductive Rail
  | vcore | vdram | vpp | vsdA | vsdT | vio
  deriving DecidableEq, Repr, Inhabited

/-- What a regulator poll reads (R651): the VCORE current in mA, the VCORE voltage in mV and
READ_VIN in 0.1 V, each absent when that command was not sent or not answered. -/
structure RegReading where
  current : Option Nat
  vcore   : Option Nat
  vin     : Option Nat
  deriving DecidableEq, Repr, Inhabited

/-- The streams of a host port that IDE protects (R506). -/
inductive IdeStream
  | link | selective | cachemem
  deriving DecidableEq, Repr, Inhabited

/-- The commands, one constructor per row of opcode_table.json. -/
inductive Instr
  -- Ring commands (R106): `d` is the 64-byte descriptor.
  | regionCreate (r : CmdRef) (d : Desc) (k : Pick)
  | regionDestroy (r : CmdRef) (d : Desc)
  | regionSetRights (r : CmdRef) (d : Desc)
  | keyRotate (r : CmdRef) (d : Desc)
  | keyRevoke (r : CmdRef) (d : Desc)
  | regionQuery (r : CmdRef) (d : Desc)
  | pageIn (r : CmdRef) (d : Desc)
  | pageOut (r : CmdRef) (d : Desc) (k : Pick)
  | pageFaultClear (r : CmdRef) (d : Desc)
  | rangeMap (r : CmdRef) (d : Desc)
  | rangeUnmap (r : CmdRef) (d : Desc)
  | tenantCreate (r : CmdRef) (d : Desc)
  | tenantSetQuota (r : CmdRef) (d : Desc)
  | tenantRelease (r : CmdRef) (d : Desc)
  | tenantQuery (r : CmdRef) (d : Desc)
  -- Memory-model commands (R134, R174).
  | counterAlloc (r : CmdRef) (d : Desc)
  | counterFree (r : CmdRef) (d : Desc)
  | counterSet (r : CmdRef) (d : Desc)
  | counterQuery (r : CmdRef) (d : Desc)
  | castPublish (r : CmdRef) (d : Desc)
  | castCopyDone (region : BitVec 16) (t : Time) (faults : List ReadFault)
  -- Switch-core commands (R269).
  | mcastSet (r : CmdRef) (d : Desc)
  | mcastClear (r : CmdRef) (d : Desc)
  | runnerSet (r : CmdRef) (d : Desc)
  | runnerClear (r : CmdRef) (d : Desc)
  | routeSet (r : CmdRef) (d : Desc)
  | scheduleMode (r : CmdRef) (d : Desc)
  | swcQuery (r : CmdRef) (d : Desc)
  -- Program commands (R372).
  | programLoad (r : CmdRef) (d : Desc)
  | programStart (r : CmdRef) (d : Desc)
  | programPost (r : CmdRef) (d : Desc)
  | programStop (r : CmdRef) (d : Desc)
  | programQuery (r : CmdRef) (d : Desc)
  -- Group commands (R401), partner commands (R435), link commands (R486).
  | groupCreate (r : CmdRef) (d : Desc)
  | groupDestroy (r : CmdRef) (d : Desc)
  | groupRearm (r : CmdRef) (d : Desc)
  | groupQuery (r : CmdRef) (d : Desc)
  | partnerAdopt (r : CmdRef) (d : Desc) (k : Pick)
  | partnerRelease (r : CmdRef) (d : Desc)
  | linkRetrain (r : CmdRef) (d : Desc)
  | linkDisable (r : CmdRef) (d : Desc)
  -- Host-interface commands (R534), end-point commands (R586).
  | nop (r : CmdRef) (d : Desc)
  | ringBind (r : CmdRef) (d : Desc)
  | tenantSetOwner (r : CmdRef) (d : Desc)
  | epRangeCreate (r : CmdRef) (d : Desc)
  | epRangeDestroy (r : CmdRef) (d : Desc)
  | epKeyRotate (r : CmdRef) (d : Desc)
  | epKeyRevoke (r : CmdRef) (d : Desc)
  | epBind (r : CmdRef) (d : Desc)
  | epReduceBind (r : CmdRef) (d : Desc)
  | epQuery (r : CmdRef) (d : Desc)
  -- Fault-protocol and trace commands (R634), power commands (R676).
  | stepMark (r : CmdRef) (d : Desc)
  | modeSet (r : CmdRef) (d : Desc)
  | spareSet (r : CmdRef) (d : Desc)
  | dusk (r : CmdRef) (d : Desc)
  | rejoin (r : CmdRef) (d : Desc)
  | traceCtrl (r : CmdRef) (d : Desc)
  | traceDump (r : CmdRef) (d : Desc)
  | fltQuery (r : CmdRef) (d : Desc)
  | pwrCap (r : CmdRef) (d : Desc)
  | pwrMode (r : CmdRef) (d : Desc)
  | supplyDump (r : CmdRef) (d : Desc)
  | supplyCtrl (r : CmdRef) (d : Desc)
  -- Security, firmware and debug commands (R726), image commands (R756).
  | attestReport (r : CmdRef) (d : Desc)
  | regionMeasure (r : CmdRef) (d : Desc)
  | fwUpdate (r : CmdRef) (d : Desc)
  | debugOpen (r : CmdRef) (d : Desc)
  | debugClose (r : CmdRef) (d : Desc)
  | debugRead (r : CmdRef) (d : Desc)
  | debugWrite (r : CmdRef) (d : Desc)
  | hkControl (r : CmdRef) (d : Desc)
  | secQuery (r : CmdRef) (d : Desc)
  | flashWrite (r : CmdRef) (d : Desc)
  | imagePush (r : CmdRef) (d : Desc)
  -- Activation, rings and host liveness.
  | stagedActivate (t : Time)
  | hifCmdProd (port : Fin 2) (ring : Fin 62) (index : BitVec 32)
  | commandTake (port : Fin 2)
  | hifCplCons (port : Fin 2) (ring : Fin 62) (index : BitVec 32)
  | hifFaultCons (port : Fin 2) (index : BitVec 32)
  | hifEventCons (port : Fin 2) (index : BitVec 32)
  | attach (port : Fin 2)
  | detach (port : Fin 2)
  | heartbeat (port : Fin 2)
  | hostSilent (port : Fin 2) (t : Time)
  | ownershipMove (from_ : Fin 2) (t : Time)
  | noHostLive (port : Fin 2) (t : Time)
  | parkedRetry (port : Fin 2)
  | msiXHoldoff (port : Fin 2) (vector : Fin 64) (t : Time)
  | dmaTimeout (port : Fin 2) (id : Nat) (t : Time)
  -- Register writes.
  | swcQbufLowRestart (quad : Fin 4)
  | colDetEventsRestart
  | slip (lanes : List (Fin 256)) (byHost : Bool)
  | sleepDisable (port : Fin 64)
  | registerWrite (host : Fin 2) (offset : BitVec 28) (size8 : Bool) (value : BitVec 64)
  | bar0BadAccess (host : Fin 2) (offset : BitVec 28) (size : Nat) (isWrite : Bool)
  | hdmDecoderCommit (port : Fin 2) (decoder : Fin 8) (base : BitVec 64) (size : Nat) (ways : Nat)
  -- CXL.mem and the mailbox.
  | memrd (port : Fin 2) (addr : BitVec 64) (mv : HostMeta) (faults : List ReadFault)
  | memwr (port : Fin 2) (addr : BitVec 64) (data : List Byte)
  | memwrptl (port : Fin 2) (addr : BitVec 64) (mask : BitVec 64) (data : List Byte)
  | bisnpResponse (port : Fin 2) (line : Nat) (data : Option (List Byte))
  | bisnpTimeout (port : Fin 2) (line : Nat) (t : Time)
  | hostLost (port : Fin 2)
  | hostLinkDown (port : Fin 2)
  | identifyMemoryDevice (port : Fin 2)
  | getSupportedLogs (port : Fin 2)
  | getLog (port : Fin 2)
  | getHealthInfo (port : Fin 2)
  | getEventRecords (port : Fin 2)
  | clearEventRecords (port : Fin 2)
  | mailboxUnsupported (port : Fin 2) (opcode : BitVec 16)
  | kSetGo (port : Fin 2) (stream : IdeStream)
  | ideKmKeyProg (port : Fin 2) (stream : IdeStream) (set : Fin 2) (key : BitVec 256)
  | ideCheckFailed (port : Fin 2) (stream : IdeStream)
  -- Packets at a destination.
  | read (a : Arrival) (faults : List ReadFault)
  | readOwn (a : Arrival) (faults : List ReadFault)
  | counterRead (a : Arrival)
  | write (a : Arrival)
  | closingWrite (a : Arrival)
  | closingWriteRelease (part : Part) (src : Node) (stream : Byte)
  | closingWriteDiscard (part : Part) (src : Node) (stream : Byte) (t : Time)
  | store (a : Arrival)
  | writeback (a : Arrival)
  | atomic (a : Arrival) (faults : List ReadFault)
  | snoopInv (a : Arrival)
  | snoopRecall (a : Arrival)
  | snoopResp (a : Arrival)
  | reduceContrib (a : Arrival)
  | resultFormed (group : BitVec 10)
  | reduceResult (a : Arrival)
  | resultRetransmit (group : BitVec 10) (g : Nat) (rank : Nat) (t : Time)
  | contribProbe (binding : Fin 64) (t : Time)
  | partnerWrite (a : Arrival)
  | partnerRead (a : Arrival) (faults : List ReadFault)
  | partnerData (a : Arrival)
  | epcWrite (a : Arrival)
  | epcRead (a : Arrival)
  | epcData (a : Arrival)
  | capSet (a : Arrival)
  | carryCmd (a : Arrival) (k : Pick)
  | carryCpl (a : Arrival)
  | carryTimeout (id : Nat) (t : Time)
  | grantReq (a : Arrival) (k : Pick)
  | grant (a : Arrival)
  | partnerFree (a : Arrival)
  | tableReq (a : Arrival)
  | tableData (a : Arrival)
  -- Responses at a source, and the timers of the transport.
  | ack (a : Arrival)
  | nack (a : Arrival)
  | hold (a : Arrival)
  | readReply (a : Arrival)
  | atomicReply (a : Arrival)
  | counterReply (a : Arrival)
  | holdTimer (part : Part) (src : Node) (seq : BitVec 24) (t : Time)
  | retransmit (part : Part) (dst : Node) (seq : BitVec 24) (t : Time)
  | giveUp (part : Part) (dst : Node) (seq : BitVec 24) (t : Time)
  | rateRaise (part : Part) (dst : Node) (t : Time)
  | graceClose (part : Part) (region : BitVec 16) (t : Time)
  | rebuildWriteback (line : Nat)
  -- Switch core.
  | packetForward (port : Fin 64) (vc : Fin 8) (pkt : Packet)
  | voqEnqueue (port : Fin 64) (vc : Fin 8)
  | multicastForward (port : Fin 64) (pkt : Packet)
  | runnerBurst (port : Fin 64) (flits : List Flit) (t : Time)
  | runnerRestore (t : Time)
  | egressFlitSend (port : Fin 64) (t : Time)
  | relay (port : Fin 64) (pkt : Packet)
  -- Links.
  | flitReceive (at_ : LinkEnd) (f : Flit)
  | replay (port : Fin 64) (t : Time)
  | receiverWaitTimeout (port : Fin 64) (t : Time)
  | linkFail (port : Fin 64) (cause : BitVec 4)
  | lossOfSignal (port : Fin 64) (t : Time)
  | markerLock (lane : Fin 256) (seen : SyncRun) (inverted : Bool)
  | linkSearchStep (port : Fin 64)
  | linkBringupStep (port : Fin 64) (res : StepResult)
  | idExchange (port : Fin 64) (far : FarId)
  | ping (port : Fin 64) (stamp : BitVec 32) (turnaround : Nat)
  | echo (port : Fin 64) (departed : Time) (arrived : Time) (turnaround : Nat)
  | sleepEnter (port : Fin 64) (t : Time)
  | sleepWake (port : Fin 64)
  -- ZE-208 operations (R556, R559); q and c name a queue or channel whose next slot is taken.
  | opRead (q : Fin 32)
  | opWrite (q : Fin 32)
  | opAtomic (q : Fin 32)
  | opFence (q : Fin 32)
  | opFlush (q : Fin 32)
  | opInval (q : Fin 32)
  | opCounterRead (q : Fin 32)
  | copyOut (c : Fin 64)
  | copyIn (c : Fin 64)
  | contrib (c : Fin 64)
  | tileFence (c : Fin 64)
  | prodDoorbell (i : Fin 96) (prod : BitVec 32) (slots : List Desc)
  | abortDoorbell (i : Fin 96) (target : BitVec 32) (tag : BitVec 32)
  | winRd (offset : BitVec 24) (tag : BitVec 16)
  | winCounterWrite (k : Fin 4096) (value : BitVec 64)
  | mrdCpl (tag : Nat) (ok : Bool) (data : List Byte)
  | mwrCpl (tag : Nat) (ok : Bool)
  | d2dTimeout (tag : Nat) (t : Time)
  | avoidanceExpire (dst : Node) (t : Time)
  | portEnable (on : EpOn) (override_ : BitVec 2) (regs : List (Nat × BitVec 64))
  | epConfigure (node : Node) (inc : Byte) (locked : Bool)
  | ep0LinkLoss
  | epConfigLoss
  | epThermalTrip (temp : Nat)
  -- Crucible instructions (R360): the group's next instruction.
  | add (g : GroupId)
  | sub (g : GroupId)
  | mul (g : GroupId)
  | and (g : GroupId)
  | or (g : GroupId)
  | xor (g : GroupId)
  | shl (g : GroupId)
  | shr (g : GroupId)
  | sar (g : GroupId)
  | min (g : GroupId)
  | max (g : GroupId)
  | li (g : GroupId)
  | sread (g : GroupId)
  | cmp (g : GroupId)
  | jmp (g : GroupId)
  | bany (g : GroupId)
  | ball (g : GroupId)
  | act (g : GroupId)
  | msave (g : GroupId)
  | mrest (g : GroupId)
  | endGroup (g : GroupId)
  | lds (g : GroupId)
  | sts (g : GroupId)
  | gather (g : GroupId)
  | ldg (g : GroupId)
  | atom (g : GroupId)
  | crucibleStore (g : GroupId)
  | signal (g : GroupId)
  | crucibleFence (g : GroupId)
  | cread (g : GroupId)
  | mbox (g : GroupId)
  | poolOpen (g : GroupId)
  | poolClose (g : GroupId)
  | aclr (g : GroupId)
  | aadd (g : GroupId)
  | aread (g : GroupId)
  | asave (g : GroupId)
  | aimg (g : GroupId)
  | wload (g : GroupId)
  | wswap (g : GroupId)
  | mma (g : GroupId)
  | vld (g : GroupId)
  | vst (g : GroupId)
  | vadd (g : GroupId)
  | vsub (g : GroupId)
  | vmul (g : GroupId)
  | vfma (g : GroupId)
  | vmax (g : GroupId)
  | vmin (g : GroupId)
  | vbcast (g : GroupId)
  | vcvt (g : GroupId)
  | vpack (g : GroupId)
  | rngset (g : GroupId)
  | rng (g : GroupId)
  | lineRequestReturn (id : Nat) (faults : List ReadFault)
  | capShed (prog : BitVec 8) (t : Time)
  | programEndClear (prog : BitVec 8)
  -- Background work.
  | regionFree (region : BitVec 16)
  | tenantScrubDone (tenant : BitVec 12)
  | measureDone (region : BitVec 16) (t : Time) (faults : List ReadFault)
  | reportSigned (t : Time)
  | fwCommit (t : Time)
  | fwRollback (cause : Byte) (t : Time)
  | compartmentFail (core : Fin 4) (comp : Fin 8) (cause : Byte) (t : Time)
  | coreFail (core : Fin 4) (cause : Byte) (t : Time)
  | patrolScrubRead (stack : Fin 16) (faults : List ReadFault)
  | stackLost (stack : Fin 16)
  | refreshRateChange (stack : Fin 16) (temp : Nat)
  -- Time and the fault protocol; the port is a fabric port, or EP0 or EP1.
  | beacon (part : Part) (via : Heard) (b : Beacon) (arrival : Time) (arrivalFrac : Fin 16)
  | beaconSend (part : Part) (port : Fin 64) (t : Time)
  | livenessTick (t : Time)
  | livenessAgeout (node : Node) (t : Time)
  | takeManagerRole (t : Time)
  | firstLock (part : Part)
  | parentLoss (part : Part) (t : Time)
  | status (part : Part) (via : Heard) (sender : Node) (map : BitVec 256) (t : Time)
  | report (part : Part) (via : Heard) (m : Report)
  | probe (part : Part) (via : Heard)
  | probeReply (via : Heard) (state : Byte)
  | probeTimeout (port : Fin 64) (t : Time)
  | decisionWindow (t : Time)
  | verdict (part : Part) (via : Heard) (v : Verdict)
  | verdictApply (part : Part) (t : Time)
  | drainSecondInstant (subject : Node) (t : Time)
  -- Power.
  | sensorWindow (t : Time) (readings : List Nat)
  | powerEstimate (t : Time) (activity : Nat)
  | estimateCalibrate (t : Time) (current : Nat)
  | vcoreRetarget (t : Time) (activity : Nat) (demand : Nat)
  | vcoreSettled (t : Time) (activity : Nat)
  | headroomCheck (t : Time) (activity : Nat) (demand : Nat)
  | fixedLeft (t : Time) (activity : Nat) (demand : Nat)
  | regulatorPoll (t : Time) (m : RegReading)
  | vrSilent (t : Time)
  | pfwNAssert
  | pfwNDeassert (t : Time) (activity : Nat) (demand : Nat)
  | thermalCapStep (t : Time) (logic : List Nat) (dram : List Nat)
  | thermalTrip (logic : List Nat) (dram : List Nat)
  -- Reset and Dawn.
  | sysResetNAssert (ns : Nat) (taken : Bool) (released : Bool)
  | railOutOfRange (rail : Rail) (ns : Nat) (back : Bool)
  | refclkFLoss (ns : Nat) (back : Bool)
  | dawnBootRom (quadsPass : BitVec 4) (sfdp : Bool) (ms : Nat)
  | dawnPuf (raw : List Byte) (helper : List Byte) (ms : Nat)
  | dawnNvm (image : List Byte) (deviceBytes : Nat) (ms : Nat)
  | dawnDram (stackFail : BitVec 16) (ms : Nat)
  | dawnLinks (ms : Nat)
  | dawnFarEndIdentity (ms : Nat)
  | dawnElectionAndLock (ms : Nat)
  | dawnModeEntered (ms : Nat)
  -- JTAG.
  | bypass
  | idcode
  | samplePreload
  | extest
  | clamp
  | highz
  | dapAccess (level : Fin 3)
  | trstNAssert
  -- Host links, DMA and further timers.
  | hostLinkUp (port : Fin 2) (gts : Nat) (width : Nat) (flit256 : Bool) (bme : Bool) (bi : Bool)
  | dmaReadCompletion (port : Fin 2) (id : Nat) (ok : Bool) (data : List Byte)
  | flashWriteEnd (ok : Bool)
  | d2dLinkDown
  | managerQuorumTimeout (id : Nat) (t : Time)
  | rowCapTimeout (t : Time)
  | epochWaitExpire (part : Part) (dst : Node) (stream : Byte) (t : Time)
  deriving DecidableEq, Repr

end Sys2Proof
end

