-- ==== Sys2Proof/WellFormed.lean ====
section
/-! DEFINITION. Well-formed commands: what their operands must satisfy to be that command at all. `exec` is total and
does not need it: a ring command or packet of another opcode than its row's changes nothing. -/

namespace Sys2Proof

/-- OPCODE of a descriptor (R516). -/
def opcodeIs (d : Desc) (op : Nat) : Bool := d.toNat % 256 == op

/-- A payload of at most 2,048 bytes (R181). -/
def payloadOk (p : Packet) : Bool := decide (p.payload.length ≤ 2048)

/-- A packet of an opcode, at a port of its part. -/
def packetIs (a : Arrival) (op : Byte) : Bool :=
  a.pkt.opcode == op && payloadOk a.pkt && (a.part == .zs || decide (a.port.val < 2))

/-- MSG of a MGMT packet (R192). -/
def messageIs (a : Arrival) (msg : Byte) : Bool := a.pkt.payload.headD 0 == msg

/-- CLOSE (R185). -/
def closes (a : Arrival) : Bool := a.pkt.flags.getLsbD 0

/-- Three reads of a line at most fail (R416). -/
def readsOk (l : List ReadFault) : Bool := l.all fun f => decide (f.fails ≤ 3)

/-- The address of a line. -/
def lineAddr (a : BitVec 64) : Bool := decide (a.toNat % 64 = 0)

/-- A well-formed command. -/
def Instr.wellFormed : Instr → Bool
  | .regionCreate _ d _ => opcodeIs d 0x20
  | .regionDestroy _ d => opcodeIs d 0x21
  | .regionSetRights _ d => opcodeIs d 0x22
  | .keyRotate _ d => opcodeIs d 0x23
  | .keyRevoke _ d => opcodeIs d 0x24
  | .regionQuery _ d => opcodeIs d 0x25
  | .pageIn _ d => opcodeIs d 0x26
  | .pageOut _ d _ => opcodeIs d 0x27
  | .pageFaultClear _ d => opcodeIs d 0x28
  | .rangeMap _ d => opcodeIs d 0x29
  | .rangeUnmap _ d => opcodeIs d 0x2A
  | .tenantCreate _ d => opcodeIs d 0x2B
  | .tenantSetQuota _ d => opcodeIs d 0x2C
  | .tenantRelease _ d => opcodeIs d 0x2D
  | .tenantQuery _ d => opcodeIs d 0x2E
  | .counterAlloc _ d => opcodeIs d 0x31
  | .counterFree _ d => opcodeIs d 0x32
  | .counterSet _ d => opcodeIs d 0x33
  | .counterQuery _ d => opcodeIs d 0x34
  | .castPublish _ d => opcodeIs d 0x30
  | .mcastSet _ d => opcodeIs d 0x50
  | .mcastClear _ d => opcodeIs d 0x51
  | .runnerSet _ d => opcodeIs d 0x52
  | .runnerClear _ d => opcodeIs d 0x53
  | .routeSet _ d => opcodeIs d 0x54
  | .scheduleMode _ d => opcodeIs d 0x55
  | .swcQuery _ d => opcodeIs d 0x56
  | .programLoad _ d => opcodeIs d 0x60
  | .programStart _ d => opcodeIs d 0x61
  | .programPost _ d => opcodeIs d 0x62
  | .programStop _ d => opcodeIs d 0x63
  | .programQuery _ d => opcodeIs d 0x64
  | .groupCreate _ d => opcodeIs d 0x70
  | .groupDestroy _ d => opcodeIs d 0x71
  | .groupRearm _ d => opcodeIs d 0x72
  | .groupQuery _ d => opcodeIs d 0x73
  | .partnerAdopt _ d _ => opcodeIs d 0x80
  | .partnerRelease _ d => opcodeIs d 0x81
  | .linkRetrain _ d => opcodeIs d 0x88
  | .linkDisable _ d => opcodeIs d 0x89
  | .nop _ d => opcodeIs d 0x01
  | .ringBind _ d => opcodeIs d 0x02
  | .tenantSetOwner _ d => opcodeIs d 0x03
  | .epRangeCreate _ d => opcodeIs d 0x98
  | .epRangeDestroy _ d => opcodeIs d 0x99
  | .epKeyRotate _ d => opcodeIs d 0x9A
  | .epKeyRevoke _ d => opcodeIs d 0x9B
  | .epBind _ d => opcodeIs d 0x9C
  | .epReduceBind _ d => opcodeIs d 0x9D
  | .epQuery _ d => opcodeIs d 0x9E
  | .stepMark _ d => opcodeIs d 0xA8
  | .modeSet _ d => opcodeIs d 0xA9
  | .spareSet _ d => opcodeIs d 0xAA
  | .dusk _ d => opcodeIs d 0xAB
  | .rejoin _ d => opcodeIs d 0xAC
  | .traceCtrl _ d => opcodeIs d 0xAD
  | .traceDump _ d => opcodeIs d 0xAE
  | .fltQuery _ d => opcodeIs d 0xAF
  | .pwrCap _ d => opcodeIs d 0xB8
  | .pwrMode _ d => opcodeIs d 0xB9
  | .supplyDump _ d => opcodeIs d 0xBA
  | .supplyCtrl _ d => opcodeIs d 0xBB
  | .attestReport _ d => opcodeIs d 0xC0
  | .regionMeasure _ d => opcodeIs d 0xC1
  | .fwUpdate _ d => opcodeIs d 0xC2
  | .debugOpen _ d => opcodeIs d 0xC3
  | .debugClose _ d => opcodeIs d 0xC4
  | .debugRead _ d => opcodeIs d 0xC5
  | .debugWrite _ d => opcodeIs d 0xC6
  | .hkControl _ d => opcodeIs d 0xC7
  | .secQuery _ d => opcodeIs d 0xC8
  | .flashWrite _ d => opcodeIs d 0xD0
  | .imagePush _ d => opcodeIs d 0xD1
  | .registerWrite _ offset size8 _ => decide (offset.toNat % (if size8 then 8 else 4) = 0)
  | .bar0BadAccess _ offset size _ => decide ((size ≠ 4 ∧ size ≠ 8) ∨ offset.toNat % size ≠ 0)
  | .hdmDecoderCommit _ _ base size _ => decide (base.toNat % 2 ^ 28 = 0 ∧ size % 2 ^ 28 = 0)
  | .memrd _ addr _ fs => lineAddr addr && readsOk fs
  | .memwr _ addr data => lineAddr addr && data.length == 64
  | .memwrptl _ addr _ data => lineAddr addr && data.length == 64
  | .bisnpResponse _ _ data => data.all fun b => b.length == 64
  | .read a fs => packetIs a 0x01 && readsOk fs
  | .readOwn a fs => packetIs a 0x02 && readsOk fs
  | .counterRead a => packetIs a 0x03
  | .write a => packetIs a 0x08 && !closes a
  | .closingWrite a => packetIs a 0x08 && closes a
  | .store a => packetIs a 0x09
  | .writeback a => packetIs a 0x0A
  | .atomic a fs => packetIs a 0x10 && readsOk fs
  | .snoopInv a => packetIs a 0x18
  | .snoopRecall a => packetIs a 0x19
  | .snoopResp a => packetIs a 0x4B
  | .reduceContrib a => packetIs a 0x20
  | .reduceResult a => packetIs a 0x21
  | .partnerWrite a => packetIs a 0x28 && messageIs a 0x90
  | .partnerRead a fs => packetIs a 0x28 && messageIs a 0x91 && readsOk fs
  | .partnerData a => packetIs a 0x28 && messageIs a 0x92
  | .epcWrite a => packetIs a 0x28 && messageIs a 0xA0
  | .epcRead a => packetIs a 0x28 && messageIs a 0xA1
  | .epcData a => packetIs a 0x28 && messageIs a 0xA2
  | .capSet a => packetIs a 0x28 && messageIs a 0xB0
  | .carryCmd a _ => packetIs a 0x28 && messageIs a 0xB1
  | .carryCpl a => packetIs a 0x28 && messageIs a 0xB2
  | .grantReq a _ => packetIs a 0x28 && messageIs a 0xB3
  | .grant a => packetIs a 0x28 && messageIs a 0xB4
  | .partnerFree a => packetIs a 0x28 && messageIs a 0xB5
  | .tableReq a => packetIs a 0x28 && messageIs a 0xB6
  | .tableData a => packetIs a 0x28 && messageIs a 0xB7
  | .ack a => packetIs a 0x40
  | .nack a => packetIs a 0x41
  | .hold a => packetIs a 0x42
  | .readReply a => packetIs a 0x48
  | .atomicReply a => packetIs a 0x49
  | .counterReply a => packetIs a 0x4A
  | .packetForward _ _ p => payloadOk p
  | .multicastForward _ p => payloadOk p && p.dst.toNat / 2 ^ 14 == 3
  | .runnerBurst _ fs _ => (fs.all fun f => f.data.length == 240) && !fs.isEmpty
  | .relay _ p => payloadOk p
  | .flitReceive _ f => f.data.length == 240
  | .prodDoorbell _ _ slots => decide (slots.length ≤ 256)
  | .winRd offset _ => decide (offset.toNat % 8 = 0)
  | .lineRequestReturn _ fs => readsOk fs
  | .compartmentFail _ _ cause _ => decide (cause.toNat ≤ 3)
  | .coreFail _ cause _ => decide (cause.toNat ≤ 3)
  | .patrolScrubRead _ fs => readsOk fs
  | .hostLinkUp _ gts width _ _ _ => [8, 16, 32, 64].contains gts && [1, 2, 4, 8].contains width
  | .castCopyDone _ _ _ | .stagedActivate _ | .hifCmdProd _ _ _ | .commandTake _ | .hifCplCons _ _ _
  | .hifFaultCons _ _ | .hifEventCons _ _ | .attach _ | .detach _ | .heartbeat _ | .hostSilent _ _
  | .ownershipMove _ _ | .noHostLive _ _ | .parkedRetry _ | .msiXHoldoff _ _ _ | .dmaTimeout _ _ _
  | .swcQbufLowRestart _ | .colDetEventsRestart | .slip _ _ | .sleepDisable _ | .bisnpTimeout _ _ _ | .hostLost _
  | .hostLinkDown _ | .identifyMemoryDevice _ | .getSupportedLogs _ | .getLog _ | .getHealthInfo _
  | .getEventRecords _ | .clearEventRecords _ | .mailboxUnsupported _ _ | .kSetGo _ _ | .ideKmKeyProg _ _ _ _
  | .ideCheckFailed _ _ | .closingWriteRelease _ _ _ | .closingWriteDiscard _ _ _ _ | .resultFormed _
  | .resultRetransmit _ _ _ _ | .contribProbe _ _ | .carryTimeout _ _ | .holdTimer _ _ _ _ | .retransmit _ _ _ _
  | .giveUp _ _ _ _ | .rateRaise _ _ _ | .graceClose _ _ _ | .rebuildWriteback _ | .voqEnqueue _ _
  | .runnerRestore _ | .egressFlitSend _ _ | .replay _ _ | .receiverWaitTimeout _ _ | .linkFail _ _
  | .lossOfSignal _ _ | .markerLock _ _ _ | .linkSearchStep _ | .linkBringupStep _ _ | .idExchange _ _
  | .ping _ _ _ | .echo _ _ _ _ | .sleepEnter _ _ | .sleepWake _ | .opRead _ | .opWrite _ | .opAtomic _
  | .opFence _ | .opFlush _ | .opInval _ | .opCounterRead _ | .copyOut _ | .copyIn _ | .contrib _ | .tileFence _
  | .abortDoorbell _ _ _ | .winCounterWrite _ _ | .mrdCpl _ _ _ | .mwrCpl _ _ | .d2dTimeout _ _
  | .avoidanceExpire _ _ | .portEnable _ _ _ | .epConfigure _ _ _ | .ep0LinkLoss | .epConfigLoss | .epThermalTrip _
  | .add _ | .sub _ | .mul _ | .and _ | .or _ | .xor _ | .shl _ | .shr _ | .sar _ | .min _ | .max _ | .li _
  | .sread _ | .cmp _ | .jmp _ | .bany _ | .ball _ | .act _ | .msave _ | .mrest _ | .endGroup _ | .lds _ | .sts _
  | .gather _ | .ldg _ | .atom _ | .crucibleStore _ | .signal _ | .crucibleFence _ | .cread _ | .mbox _
  | .poolOpen _ | .poolClose _ | .aclr _ | .aadd _ | .aread _ | .asave _ | .aimg _ | .wload _ | .wswap _ | .mma _
  | .vld _ | .vst _ | .vadd _ | .vsub _ | .vmul _ | .vfma _ | .vmax _ | .vmin _ | .vbcast _ | .vcvt _ | .vpack _
  | .rngset _ | .rng _ | .capShed _ _ | .programEndClear _ | .regionFree _ | .tenantScrubDone _ | .measureDone _ _ _
  | .reportSigned _ | .fwCommit _ | .fwRollback _ _ | .stackLost _ | .refreshRateChange _ _ | .beacon _ _ _ _ _
  | .beaconSend _ _ _ | .livenessTick _ | .livenessAgeout _ _ | .takeManagerRole _ | .firstLock _
  | .parentLoss _ _ | .status _ _ _ _ _ | .report _ _ _ | .probe _ _ | .probeReply _ _ | .probeTimeout _ _
  | .decisionWindow _ | .verdict _ _ _ | .verdictApply _ _ | .drainSecondInstant _ _ | .sensorWindow _ _
  | .powerEstimate _ _ | .estimateCalibrate _ _ | .vcoreRetarget _ _ _ | .vcoreSettled _ _ | .headroomCheck _ _ _
  | .fixedLeft _ _ _ | .regulatorPoll _ _ | .vrSilent _ | .pfwNAssert | .pfwNDeassert _ _ _
  | .thermalCapStep _ _ _ | .thermalTrip _ _ | .sysResetNAssert _ _ _ | .railOutOfRange _ _ _ | .refclkFLoss _ _
  | .dawnBootRom _ _ _ | .dawnPuf _ _ _ | .dawnNvm _ _ _ | .dawnDram _ _ | .dawnLinks _ | .dawnFarEndIdentity _
  | .dawnElectionAndLock _ | .dawnModeEntered _ | .bypass | .idcode | .samplePreload | .extest | .clamp | .highz
  | .dapAccess _ | .trstNAssert | .dmaReadCompletion _ _ _ _ | .flashWriteEnd _ | .d2dLinkDown
  | .managerQuorumTimeout _ _ | .rowCapTimeout _ | .epochWaitExpire _ _ _ _ => true

end Sys2Proof
end

