-- ==== Sys2Proof/Config.lean ====
section
/-! DEFINITION. What the manual leaves open: constants without a body. Nothing can be proved of their
values, so a theorem about the machine holds for every choice of them. -/

namespace Sys2Proof.Config

/-- Free values: the model applies it to a counter of the state. -/
opaque freeValue : Nat → BitVec 64

/-- The set of a directory slice (of its quadrant) in which a line is entered (R154). -/
opaque dirSet : Nat → Nat

/-- The set of the ZE-208's line cache in which a line is entered (R569). -/
opaque cacheSet : Nat → Nat

/-- Whether a ZE-208 takes a reduction group for an exact-mode one as it derives E (R381): the binding of R572
does not say. -/
opaque groupExact : (host group : Nat) → Bool

/-- The quadrant whose trace store takes the entries of a unit that belongs to none (R605). -/
opaque traceQuad : (unit : Nat) → Nat

/-- Which packets of a quadrant are sampled (R607). -/
opaque tracePhase : (quad : Nat) → Nat

/-- The code of a TIMEFAULT message's direction in a trace entry (R607). -/
opaque traceDir : (sent : Bool) → BitVec 8

/-- UNIT of a Quench entry of the trace (R606). -/
opaque traceQuenchUnit : Nat

/-- UNIT of a memory event in a trace entry (R606). -/
opaque traceStackUnit : (stack : Nat) → Nat

/-- The links that the manager knows of to another switch: reporter and port (R618). The manual gives it no table of them. -/
opaque switchLinks : (switch : Nat) → List (Nat × Nat)

/-- The switch tray of a switch (R632): the manual has two switches on a tray and does not say which. -/
opaque switchTray : (switch : Nat) → Nat

/-- Whether another node holds what R622 or R632 forbids, at a tick: the manual does not say how the manager learns
of it. -/
opaque remoteBusy : (node tick : Nat) → Bool

/-- Cells of a relay buffer of the ZE-208, for each port and VC (R579): the manual gives no size. -/
opaque relayRoom : Nat

/-- The straps EQ_SEL3 to EQ_SEL0 of the ZE-208 (R583, R596): bits 1:0 for EP0, bits 3:2 for EP1. -/
opaque epStraps : BitVec 4

/-- The register of a lane's PRBS31 sequence where the sequence restarts (R453): the manual does not give it. -/
opaque prbsStart : BitVec 31

/-- The serial number of the ZE-208 (R589). -/
opaque epSerial : BitVec 64

/-- The seed that the PUF array of this package holds: the same at every Dawn (R58, R685). -/
opaque packageSeed : List (BitVec 8)

/-- Whether `reconstruct` of R686 gives that seed from the raw bits read and the helper data. -/
opaque pufReads : (raw helper : List (BitVec 8)) → Bool

/-- The SHAKE256 digest of the vendor public key that the boot ROM holds (R691). -/
opaque vendorKeyDigest : List (BitVec 8)

/-- Power of the core-domain blocks at 0.750 V in mW, as the governor's model has it from the activity counters, the
measured rate factor and the VCORE current of the last calibration, under an array duty and a gather limit (R653). -/
opaque corePower : (activity rate current duty gather : Nat) → Nat

/-- Power in mW of the blocks outside the core domain, DRAM access apart: it does not depend on VCORE (R645). -/
opaque otherPower : (activity duty gather : Nat) → Nat

/-- Bytes that the stacks move in 1 µs (R645). -/
opaque bytesMoved : (activity duty gather : Nat) → Nat

/-- Core-domain power at a VCORE relative to 0.750 V, in 1/50,000, at a junction temperature other than 85 °C: R644
gives it at 85 °C only. -/
opaque coreRelative : (mv temp : Nat) → Nat

/-- What the noise source of the security block gives at its n-th use (R690). -/
opaque noise : Nat → List (BitVec 8)

/-- What the identity key signs of an SPDM exchange with an ephemeral key (R689): the manual does not lay it out. -/
opaque spdmTranscript : List (BitVec 8) → List (BitVec 8)

/-- ROM_VERSION of the boot ROM (R693). -/
opaque romVersion : BitVec 32

/-- A byte of a core's compartment log (R722), at a tick: the manual does not say what the log holds. -/
opaque logByte : (core tick index : Nat) → BitVec 8

/-- The program counter of a housekeeping core at a tick (R732). -/
opaque hkPc : (core tick : Nat) → BitVec 64

/-- Whether the state format of every compartment can be imported by the firmware with this digest (R716). -/
opaque fwImportable : List (BitVec 8) → Bool

end Sys2Proof.Config
end

