-- ==== Sys2Proof/Machine/Table.lean ====
section
/-! DEFINITION. Sparse tables in one canonical form (keys strictly rising), and byte memories over
them: a memory lists no cell that holds 0, which is what an unlisted address reads as. -/

namespace Sys2Proof.Machine

/-- A sparse table: pairs of a key and a value, keys strictly rising. -/
abbrev Tbl (α : Type) := List (Nat × α)

namespace Tbl

/-- The value at a key. -/
def get? {α : Type} : Tbl α → Nat → Option α
  | [], _ => none
  | (j, v) :: t, k => if j = k then some v else get? t k

/-- The value at a key, or a default where the key is not listed. -/
def getD {α : Type} (t : Tbl α) (k : Nat) (d : α) : α := (get? t k).getD d

/-- Puts a value at a key. -/
def set {α : Type} : Tbl α → Nat → α → Tbl α
  | [], k, v => [(k, v)]
  | (j, w) :: t, k, v =>
    if k < j then (k, v) :: (j, w) :: t
    else if k = j then (k, v) :: t
    else (j, w) :: set t k v

/-- Removes a key. -/
def erase {α : Type} : Tbl α → Nat → Tbl α
  | [], _ => []
  | (j, w) :: t, k => if j = k then t else (j, w) :: erase t k

/-- Changes the value at a key that is listed; any other key is left out. -/
def modify {α : Type} (t : Tbl α) (k : Nat) (f : α → α) : Tbl α :=
  match get? t k with
  | some v => set t k (f v)
  | none => t

/-- Whether a key is listed. -/
def has {α : Type} (t : Tbl α) (k : Nat) : Bool := (get? t k).isSome

/-- The lowest key below `n`, at or after `k`, that is not listed. -/
def lowestFree {α : Type} (t : Tbl α) : (fuel k : Nat) → Option Nat
  | 0, _ => none
  | n + 1, k => if has t k then lowestFree t n (k + 1) else some k

/-- Keys strictly rise. -/
def sorted {α : Type} : Tbl α → Bool
  | [] => true
  | [_] => true
  | (i, _) :: (j, w) :: t => decide (i < j) && sorted ((j, w) :: t)

end Tbl

/-- A byte memory: cells in rising order of address, none of them 0. -/
abbrev Mem := List Host.Cell

namespace Mem

/-- What an address that is not listed reads as (R69: pool and scratch memory is zero-filled). -/
def unlisted : Byte := 0

def read (m : Mem) (a : Nat) : Byte := Tbl.getD m a unlisted

def write (m : Mem) (a : Nat) (v : Byte) : Mem :=
  if v = unlisted then Tbl.erase m a else Tbl.set m a v

/-- `n` bytes from an address on. -/
def readN (m : Mem) (a : Nat) : Nat → List Byte
  | 0 => []
  | n + 1 => read m a :: readN m (a + 1) n

/-- Writes bytes from an address on. -/
def writeN (m : Mem) (a : Nat) : List Byte → Mem
  | [] => m
  | b :: bs => writeN (write m a b) (a + 1) bs

/-- Fills `n` bytes from an address on with zeros: it removes the cells there. -/
def zero (m : Mem) (a n : Nat) : Mem := m.filter fun c => !(decide (a ≤ c.1) && decide (c.1 < a + n))

/-- The canonical form. -/
def wf (m : Mem) : Bool := Tbl.sorted m && m.all fun c => decide (c.2 ≠ unlisted)

end Mem

end Sys2Proof.Machine
end

