-- ==== Sys2Proof/Machine/State.lean ====
section
/-! DEFINITION. The state of one ZS-6476 switch and one ZE-208, as plain data, and its reset. -/

namespace Sys2Proof.Machine

/-- Why the machine stops: for no reason. The manual gives every command of this block an effect in every state, if
only to be ignored, so nothing raises a fault. -/
inductive Fault
  deriving DecidableEq, Repr

/-- Why a command has no meaning. -/
inductive Refusal
  /-- Raised only by an arm of `exec` whose command has no meaning yet. Safe. -/
  | notModelled (mnemonic : String)
  deriving DecidableEq, Repr, Inhabited

/-! ### Regions, tenants, translation (02_naming_regions.md) -/

/-- A line rebuilt whose write-back has yet to be done (R417), with what its record says (R443). -/
structure WriteBack where
  line   : Nat
  cause  : Byte
  source : Byte
  deriving DecidableEq, Repr, Inhabited

/-- A region record (R71); a listed record has VALID set. The fields from `sealedAt` on are what the
switch keeps beside the record: the seal of R702, the loss of the partner copy (R433), the escalation
of R431, the last KIND 0x60 record and the rebuilds not yet reported (R444), and the partner's
placement list (R423). -/
structure Region where
  base         : BitVec 24
  length       : Nat
  tenant       : Tag
  rights       : Byte
  modes        : Byte
  place        : Byte
  attested     : Bool
  prevValid    : Bool
  graceOpen    : Bool
  destroying   : Bool
  partner      : Node
  keyCurrent   : BitVec 32
  keyPrevious  : BitVec 32
  rotateTime   : Time
  version      : Nat
  protBase     : BitVec 24
  stacks_      : BitVec 16
  createTime   : Time
  sealedNow    : Bool
  partnerLost  : Bool
  partnerStacks : BitVec 16
  escalated    : Bool
  lastRebuild  : Option Time
  rebuilds     : List WriteBack
  prevServed   : Bool
  deriving DecidableEq, Repr, Inhabited

/-- STATE of the tenant record (R78). -/
inductive TenState
  | free | active | releasing
  deriving DecidableEq, Repr, Inhabited

/-- A tenant record (R78); POOL_IN_USE and REGIONS_IN_USE are computed from the tables. -/
structure Tenant where
  state        : TenState
  owner        : Fin 2
  poolQuota    : Nat
  regionQuota  : Nat
  rangeQuota   : Nat
  counterQuota : Nat
  mcastQuota   : Nat
  reduceQuota  : Nat
  cruGroups    : Nat
  cruScratch   : Nat
  cruAccum     : Nat
  deriving DecidableEq, Repr, Inhabited

/-- KIND of a range entry (R92). -/
inductive RangeKind
  | window | page
  deriving DecidableEq, Repr, Inhabited

/-- A range entry (R92). -/
structure RangeEntry where
  kind    : RangeKind
  port    : Fin 2
  start   : Nat
  length  : Nat
  region  : Nat
  tenant  : Tag
  granule : BitVec 24
  offset  : Nat
  deriving DecidableEq, Repr, Inhabited

/-- Who issued a command and receives its completion: a ring of this switch, or another switch that
carried it here (R194). -/
inductive Origin
  | ring (r : CmdRef)
  | carried (src : Node) (binding : Tag) (carryId : BitVec 32) (port : Fin 2) (ring : Fin 62)
  deriving DecidableEq, Repr, Inhabited

/-- A PAGE_IN that waits for its DMA read, or a PAGE_OUT that waits for the accepted requests and
recalls of its page (R101, R102). -/
structure PageJob where
  out     : Bool
  region  : Nat
  page    : Nat
  granule : BitVec 24
  origin  : Origin
  desc    : Desc
  faults  : List ReadFault     -- read failures that a PAGE_OUT meets (R416)
  deriving DecidableEq, Repr, Inhabited

/-- A staged command, held until its activation tick (R37, R108). `order` is the order of taking. -/
structure Staged where
  time_  : Time
  order  : Nat
  origin : Origin
  desc   : Desc
  pick   : Pick
  got    : Option (List Byte × List Byte)   -- what its DMA reads have brought, where it has made them (R402)
  deriving DecidableEq, Repr, Inhabited

/-- A request that misses a page while its fault ring is full (R100, R531). -/
structure Parked where
  tenant   : Tag
  isLine   : Bool      -- a Crucible line request
  arrival  : Arrival
  lineId   : Nat
  at_      : Time
  page     : Nat × Nat      -- region and page of the miss that parked it
  first    : List Byte      -- the fault record of that miss
  faults   : List ReadFault -- the read failures that it will meet (R416)
  deriving DecidableEq, Repr, Inhabited

structure Rgn where
  regions  : Tbl Region
  tenants  : Tbl Tenant
  ranges   : List RangeEntry
  leaving  : List RangeEntry   -- PAGE entries of destroyed regions whose granules are not free yet (R109)
  pendingPages : List (Nat × Nat)
  parked   : List Parked
  pageJobs : List PageJob
  staged   : List Staged
  order    : Nat
  dead     : List (BitVec 24)   -- granules never allocated again before the next Dawn (R794, R707)
  (denyKey denyTenant denyWrite denyRange : BitVec 16)
  faults   : BitVec 32
  deriving DecidableEq, Repr, Inhabited

/-! ### The pool and its lines (09_pool_integrity.md) -/

/-- Line metadata (R413) without its CRC, which is a function of the rest. `dpoison` holds FLAGS bits
6:3 of a parity line. -/
structure LineMeta where
  tenant  : Tag
  epoch   : Byte
  poison  : Bool
  copy    : Bool
  parity  : Bool
  dpoison : BitVec 4
  deriving DecidableEq, Repr, Inhabited

/-- A partner-copy list entry (R423). -/
structure PartnerCopy where
  home     : Node
  region   : Nat
  protBase : BitVec 24
  length   : Nat
  stacks_  : BitVec 16
  tenant   : Tag
  orphaned : Bool
  deriving DecidableEq, Repr, Inhabited

structure StackSt where
  lost      : Bool
  failRun   : Nat
  (reread rebuilt poisoned tag : BitVec 16)
  diverged  : BitVec 16
  granules  : Nat
  passes    : Nat
  cursor    : Nat
  refresh   : Fin 4
  temp      : Nat
  deriving DecidableEq, Repr, Inhabited

/-- The last KIND 0x60 record of a ring region and the rebuilds not yet reported (R444). -/
structure RebuildBook where
  last     : Option Time
  rebuilds : List WriteBack
  deriving DecidableEq, Repr, Inhabited

structure Pool where
  mem      : Mem
  lmeta    : Tbl LineMeta
  scratch  : Mem
  stk      : Tbl StackSt
  copies   : List PartnerCopy
  rebuildWb : List WriteBack
  ringBooks : Tbl RebuildBook   -- of the ring regions, which are in no table
  trained  : BitVec 16          -- stacks that passed step 4 of Dawn
  passHours : Nat
  deriving DecidableEq, Repr, Inhabited

/-! ### Coherence and counters (03_memory_model.md) -/

/-- A directory entry's state (R153). Holder 0 is HP0, 1 is HP1, 2 + s is down-port slot s. -/
inductive Hold
  | shared (set : BitVec 34)
  | owned (h : Fin 34)
  deriving DecidableEq, Repr, Inhabited

structure DirEntry where
  line : Nat
  st   : Hold
  deriving DecidableEq, Repr, Inhabited

/-- A snoop outstanding to one holder for one line (R191, R503). -/
structure Recall where
  line   : Nat
  holder : Fin 34
  owned  : Bool
  since  : Time
  drop   : Bool     -- data of the response are not merged
  region : Nat      -- REGION and OFFSET that the snoop names
  off    : Nat
  deriving DecidableEq, Repr, Inhabited

/-- A request of a host (R503). -/
inductive HostReq
  | rd (addr : Nat) (mv : HostMeta)
  | wr (addr : Nat) (data : List Byte)
  | wrPtl (addr : Nat) (mask : BitVec 64) (data : List Byte)
  deriving DecidableEq, Repr, Inhabited

/-- What waits on recalls, or on the partner's acknowledgement of a mirrored write. -/
inductive Waiter
  | packet (a : Arrival)
  | host (port : Fin 2) (req : HostReq)
  | line (id : Nat)
  | measure (region : Nat)
  | publish (region : Nat)
  | kept                             -- nothing: the lines alone wait for the partner (R424)
  | debug (o : Origin) (d : Desc)    -- a DEBUG_WRITE
  deriving DecidableEq, Repr, Inhabited

/-- What waits, the lines whose recalls or writes it waits for, the lines whose partner copy it waits for,
those whose partner copy has been fetched for it, and the read failures that it will meet (R416). -/
structure Blocked where
  who   : Waiter
  reg   : Nat      -- region it was located in at its lookup, and its offset there (R85)
  off   : Nat
  lines : List Nat
  wants : List Nat
  got   : List Nat
  faults : List ReadFault
  deriving DecidableEq, Repr, Inhabited

/-- A CAST_PUBLISH between its step 2 and its step 5 (R175). -/
structure Publish where
  region  : Nat
  source  : Nat
  version : Nat
  origin  : Origin
  desc    : Desc
  began   : Time
  deriving DecidableEq, Repr, Inhabited

/-- An arrival counter with its holder (R131, R133); an unlisted counter is free and reads 0. -/
structure Counter where
  holder : Tag
  value  : BitVec 64
  deriving DecidableEq, Repr, Inhabited

structure Coh where
  counters : Tbl Counter
  dir      : List DirEntry      -- oldest allocation first
  recalls  : List Recall
  blocked  : List Blocked
  publishes : List Publish
  lostHost : BitVec 2           -- hosts declared lost and not attached again
  deriving DecidableEq, Repr, Inhabited

/-! ### Transport (04_transport.md), used by the switch and by the ZE-208 -/

/-- A line of the line cache (R569). `home` is the switch, `cell` says whether it belongs to the home
cell of EP0, and `version` tags a cast copy. -/
structure CacheLine where
  home    : Node
  region  : BitVec 16
  offset  : Nat
  tenant  : Tag
  key     : BitVec 32
  cell    : Bool
  owned   : Bool
  flush   : Bool
  version : BitVec 32
  cast    : Bool
  data    : List Byte
  dirty   : BitVec 64
  deriving DecidableEq, Repr, Inhabited

/-- What the resolution of a request means to the unit that sent it. -/
inductive Cause
  | none
  | queue (i : Nat) (k : Nat) (row : Nat) (off : Nat) (laddr : Nat)   -- a ZE-208 queue's operation
  | writeback (i : Nat) (k : Nat) (line : CacheLine)                  -- an operation's line, or an eviction (i = 96)
  | contrib (binding : Nat) (g : Nat) (i : Nat) (k : Nat)             -- a chunk of a CONTRIB
  | program (prog : Nat) (grp : Nat) (req : Nat)                      -- a Crucible STORE or SIGNAL
  | partnerWrite (wid region : Nat)
  | partnerRead (line : Nat)
  | grantReq (origin : Origin) (desc : Desc) (pick : Pick)
  | partnerFree (region : Nat)
  | carry (id : Nat)
  | carryCpl
  | epc (origin : Origin) (desc : Desc) (index : Nat)
  | epcIdent (port : Nat)
  | table (what part : Nat)
  | capSet (id : Nat)
  deriving DecidableEq, Repr, Inhabited

/-- An unresolved request at its source (R207, R209). -/
structure Op where
  pkt    : Packet
  port   : Nat             -- the port it left by; at the switch the quadrant whose account pays for it
  prev   : Option Nat      -- port of the transmission before the last, for R576
  first  : Time
  last   : Time
  sent   : Nat
  held   : Option Time
  cause  : Cause
  deriving DecidableEq, Repr, Inhabited

/-- A stream of a source toward a destination (R216, R218). -/
structure SrcStream where
  epoch   : Nat
  writes  : Nat             -- non-closing writes of the epoch
  closers : List (Nat × BitVec 24)     -- closing writes not resolved: epoch, SEQ
  waits   : List (Nat × Time)          -- epoch that must wait, until that tick
  deriving DecidableEq, Repr, Inhabited

/-- A request that waits to be injected (R204, R214, R218, R225). -/
structure Submit where
  pkt   : Packet
  quad  : Fin 4
  cause : Cause
  deriving DecidableEq, Repr, Inhabited

structure SrcDst where
  next    : BitVec 24
  rate    : Nat
  rateAt  : Time
  halvedAt : Option Time
  credit  : Nat             -- bytes × 64 that R225 lets go now, at most 4 KiB
  creditAt : Time
  streams : Tbl SrcStream
  atomics : List (BitVec 24 × Bool)    -- injected since the oldest unresolved atomic: SEQ, resolved
  deriving DecidableEq, Repr, Inhabited

/-- State of a sequence number (R205); a number not listed is FREE. `rebusy` is BUSY after REFUSED, which
counts nowhere a second time: both keep the bytes that an arrival counter has been given for it. -/
inductive SeqSt
  | busy
  | rebusy (counted : Nat)
  | done
  | refused (counted : Nat)
  deriving DecidableEq, Repr, Inhabited

/-- A stream of a source at a destination (R217). -/
structure DstStream where
  openE : Nat
  (c0 c1 : Nat)
  deriving DecidableEq, Repr, Inhabited

/-- What a destination keeps for one source (R205, R213, R217). -/
structure DstSrc where
  h       : Option (BitVec 24)
  st      : Tbl SeqSt
  replies : List (BitVec 24 × Packet)
  streams : Tbl DstStream
  deriving DecidableEq, Repr, Inhabited

/-- A request accepted and not complete (R208). -/
structure Busy where
  arr      : Arrival
  accepted : Time
  lastHold : Option Time
  deriving DecidableEq, Repr, Inhabited

structure Xport where
  src  : Tbl SrcDst
  wait : List Submit
  ops  : List Op
  dst  : Tbl DstSrc
  busy : List Busy
  cw   : List (Arrival × Time)      -- held closing writes and the tick each began to be held
  inc  : Tbl Byte
  avoid : List (Node × Nat × Time)  -- R576: destination, port that answered, until
  rr   : Nat                        -- alternation of first transmissions (R575)
  deriving DecidableEq, Repr, Inhabited

/-- A carried command waiting for CARRY_CPL (R198). -/
structure Carry where
  id     : Nat
  origin : Origin
  desc   : Desc
  acked  : Option Time
  began  : Time
  done   : Option (List Byte)       -- the record of a CARRY_CPL that waits for its verdict (R634)
  deriving DecidableEq, Repr, Inhabited

/-! ### Switch core (05_switch_core.md) -/

structure Stored where
  id    : Nat
  pkt   : Packet
  quad  : Fin 4
  acct  : Option (Fin 64)     -- ingress fabric port, or none for the local account
  vc    : Fin 8
  cells : Nat
  refs  : Nat
  deriving DecidableEq, Repr, Inhabited

structure EgEntry where
  id   : Nat
  pkt  : Packet
  left : Nat
  total : Nat
  deriving DecidableEq, Repr, Inhabited

/-- A packet of this switch that waits for cells of its local account (R234). -/
structure LocalWait where
  pkt  : Packet
  vc   : Fin 8
  quad : Fin 4
  port : Option (Fin 64)
  deriving DecidableEq, Repr, Inhabited

structure Voq where
  id   : Nat
  port : Fin 64
  vc   : Fin 8
  acct : Option (Fin 64)
  deriving DecidableEq, Repr, Inhabited

/-- The LIMITS block of a quadrant (R743). -/
structure Limits where
  gFabric : List Nat
  gLocal  : List Nat
  m       : Nat
  cap     : Nat
  mark    : Nat
  weights : List Nat
  deriving DecidableEq, Repr, Inhabited

/-- A route entry (R248): three choices and EQUAL. -/
structure RouteEntry where
  (primary alt1 alt2 : Byte)
  equal : Bool
  deriving DecidableEq, Repr, Inhabited

structure McastRec where
  ports  : BitVec 64
  tenant : Tag
  local_ : Bool
  deriving DecidableEq, Repr, Inhabited

structure Runner where
  ingress : Byte
  egress  : Byte
  slots   : BitVec 16
  phase   : Nat
  tenant  : Tag
  active  : Time
  bursts  : Nat
  leaves  : Option Time             -- departure of its last burst
  used    : Nat                     -- flits of a burst that started in this switch
  epEntry : Option Nat
  lost    : Bool                    -- the end point of its egress slot was lost: its bursts are discarded (R626)
  deriving DecidableEq, Repr, Inhabited

/-- A Runner flit that is to leave by a port, from a tick on (R237, R261). -/
structure BurstFlit where
  port  : Fin 64
  at_   : Time              -- the tick at which its burst leaves
  vc    : Fin 8
  first : Bool
  last  : Bool
  data  : List Byte
  deriving DecidableEq, Repr, Inhabited

/-- A RUNNER_SET, with its entry, or a RUNNER_CLEAR that waits for its activation tick (R267, R272, R580). -/
structure RunnerDue where
  time_  : Time
  index  : Nat
  entry  : Option Runner
  origin : Origin
  desc   : Desc
  deriving DecidableEq, Repr, Inhabited

structure PortFc where
  (xoffTx xoffRx : Byte)
  (xoffSent ceMarks : BitVec 32)
  (tx rx : BitVec 64)
  rrVc : Nat
  deriving DecidableEq, Repr, Inhabited

/-- A queue of an end point that EP_BIND of this switch has bound to a tenant (R552, R630). -/
structure EpBound where
  node   : Node
  queue  : Nat
  tenant : Tag
  deriving DecidableEq, Repr, Inhabited

structure Swc where
  stored   : List Stored
  nextId   : Nat
  egress   : Tbl (List EgEntry)   -- by 8 × port + VC
  voq      : List Voq
  localWait : List LocalWait
  delivered : List (Nat × Packet) -- packets for this switch not yet taken, with their stored id
  low      : Tbl Nat
  limits   : Tbl Limits
  deficit  : Tbl Nat
  share    : Tbl (List Time)
  fc       : Tbl PortFc
  routes   : Tbl RouteEntry       -- RACK 0 to 15, SWITCH 16 to 23, SLOT 32 to 63
  altTurn  : Tbl Bool
  relayTurn : Nat
  mcast    : Tbl McastRec          -- the VALID records
  runners  : Tbl Runner            -- the VALID entries
  mcastOld : Tbl McastRec          -- records and entries whose VALID has been cleared (R269)
  runnersOld : Tbl Runner
  runnerDue : List RunnerDue
  bursts   : List BurstFlit        -- oldest first
  detMode  : Bool
  suspended : Bool
  epBound  : List EpBound
  (noroute mcastDrop withheld runnerDrop : BitVec 16)
  deriving DecidableEq, Repr, Inhabited

/-! ### Links (10_links.md) -/

structure HeldFlit where
  lseq : BitVec 12
  flit : Flit
  deriving DecidableEq, Repr, Inhabited

structure LinkSt where
  state     : BitVec 4
  cause     : BitVec 4
  attempts  : Nat
  delay     : Nat
  far       : FarId
  farSeen   : Bool
  (replays lcrcFail : BitVec 32)
  (searchOwner sleepDisable : Bool)
  step      : Nat              -- bring-up step of R471 in progress, 0 outside bring-up
  pos       : Nat
  pending   : List (Fin 256)
  trips     : List Nat
  outSince  : Bool             -- LNK_OUT
  retrain   : Option (Origin × Desc)
  -- replay, sending end
  next      : BitVec 12
  held      : List HeldFlit
  advanced  : Time
  txRun     : Nat
  -- replay, receiving end
  expect    : BitVec 12
  wait      : Option Time
  rxRun     : Nat
  good      : Nat
  lastGood  : Time
  nakDue    : Bool
  replayDue : Bool             -- a NAK has asked for a replay
  configured : Bool            -- this switch configured the end point there
  epReady   : Bool             -- the end point there is known to be CONFIGURED (R273, R582)
  parts     : Tbl (List Byte)  -- packets partly received, by VC
  -- sleep
  (sleepTx sleepRx : Bool)
  (lastTx lastRx : Time)
  mgmt      : List (Byte × BitVec 32)
  deriving DecidableEq, Repr, Inhabited

structure LaneSt where
  position : Nat
  lock     : Bool
  polarity : Bool
  synced   : Bool              -- SYNC was found in the last blocks
  run      : Nat               -- how many of them in a row, found or missed (R463)
  prbs     : BitVec 31         -- the register of the lane's PRBS31 sequence (R453)
  block    : BitVec 16         -- BLOCK of the next training block (R462)
  deriving DecidableEq, Repr, Inhabited

structure Lnk where
  ports : Tbl LinkSt
  lanes : Tbl LaneSt
  rx    : List (Fin 64 × Fin 8 × Packet)   -- packets received whole, with their VC
  deriving DecidableEq, Repr, Inhabited

/-! ### Host ports (11_host_interface.md) -/

inductive RingSt
  | disabled | enabled | halted
  deriving DecidableEq, Repr, Inhabited

structure Ring where
  (prod cons taken written : BitVec 32)
  state   : RingSt
  cause   : Fin 4
  binding : Tag
  deriving DecidableEq, Repr, Inhabited

/-- The losses counted against a fault or event ring since its last marker (R527). -/
structure Losses where
  (lost refused : Nat)
  (first last : Time)
  deriving DecidableEq, Repr, Inhabited

inductive HostSt
  | detached | live | silent
  deriving DecidableEq, Repr, Inhabited

structure Decoder where
  base : Nat
  size : Nat
  committed : Bool
  err : Bool
  deriving DecidableEq, Repr, Inhabited

structure IdeSt where
  secure : Bool
  failed : Bool            -- Insecure after an integrity failure (R508)
  txSet  : Fin 2
  keys   : Tbl (BitVec 256)
  deriving DecidableEq, Repr, Inhabited

/-- A DMA read that the switch has issued (R510); `stage` tells which read of its command it is. -/
structure DmaRead where
  id     : Nat
  addr   : Nat
  len    : Nat
  issued : Time
  origin : Origin
  desc   : Desc
  pick   : Pick
  stage  : Nat
  got    : List Byte
  sent   : Bool        -- issued: a port keeps up to 64 outstanding (R510)
  deriving DecidableEq, Repr, Inhabited

/-- A command taken and not complete (R519). -/
structure InFlight where
  ring  : Fin 62
  slot  : BitVec 32
  desc  : Desc
  order : Nat      -- place in the order of taking (R108)
  begun : Bool     -- staged, or executing
  cred  : Tag      -- binding of the ring when the command was taken (R523)
  orphan : Bool    -- its host was detached: the completion is discarded (R530)
  deriving DecidableEq, Repr, Inhabited

/-- An SPDM session on the DOE mailbox: its ephemeral key, and the identity key's signature of its exchange (R506,
R689, R690). -/
structure Spdm where
  ephemeral : List Byte
  signature : List Byte
  deriving DecidableEq, Repr, Inhabited

structure HostPort where
  linkUp   : Bool
  cxlMem   : Bool
  bme      : Bool
  biEnable : Bool
  ringBase : BitVec 36
  host     : HostSt
  attachErr : Bool
  beat     : Time
  silentAt : Option Time          -- T0 of R531
  stopCause : Byte
  overdue  : Bool                 -- R532 has been applied
  rings    : Tbl Ring
  rr       : Nat
  inflight : List InFlight
  (faultCons faultWritten eventCons eventWritten : BitVec 32)
  (faultLoss eventLoss : Losses)
  eventQ   : List (Tag × List Byte)
  msixLast : Tbl Time
  msixPend : List Nat
  decoders : Tbl Decoder
  ide      : Tbl IdeSt            -- 0 link, 1 selective, 2 cachemem
  spdm     : Option Spdm          -- the session that IDE_KM goes over
  aer      : List String
  dma      : List DmaRead
  mboxEvents : List (List Byte)
  deriving DecidableEq, Repr, Inhabited

/-- An ownership move between its steps 3 and 6 (R531). -/
structure Move where
  from_   : Fin 2
  to_     : Fin 2
  tenants : List Nat
  deriving DecidableEq, Repr, Inhabited

/-- A command that another switch has carried here and that has not completed (R194, R272). -/
structure CarriedIn where
  origin : Origin
  desc   : Desc
  pick   : Pick
  order  : Nat      -- place in the order of taking (R108)
  begun  : Bool
  deriving DecidableEq, Repr, Inhabited

structure Hif where
  ports  : Tbl HostPort
  dmaId  : Nat
  carries : List Carry
  carryId : Nat
  carriedIn : List CarriedIn
  begun   : List (Origin × Time)   -- when the effects of commands not yet complete began (R518)
  deriving DecidableEq, Repr, Inhabited

/-! ### Crucible (06_crucible_engine.md, 07_crucible_programs.md) -/

/-- An exact accumulator (R305). -/
structure Accum where
  a : BitVec 320
  (nan posInf negInf : Bool)
  deriving DecidableEq, Repr, Inhabited

/-- A pool slot (R363). -/
structure PoolSlot where
  exact    : Bool
  target   : Nat
  n        : Nat
  weighted : Bool
  deriving DecidableEq, Repr, Inhabited

/-- One row of a GATHER, or another memory request of a group, with the lines it waits for. -/
inductive ReqKind
  | raw
  | pool (slot : Nat) (fmt : Nat) (w : BitVec 32)
  | ldg (reg : Nat)
  | atom (reg : Nat) (subop : Nat) (size : Nat) (operand compare : BitVec 64)
  | store
  | signal
  deriving DecidableEq, Repr, Inhabited

structure LineReq where
  id     : Nat
  prog   : Nat
  grp    : Nat
  thread : Nat
  seq    : Nat                 -- issue order within the group
  pc     : Nat
  handle : Nat
  kind   : ReqKind
  region : Nat
  offset : Nat
  len    : Nat
  lines  : Nat                 -- pool lines it takes, 0 for a STORE or SIGNAL
  scr    : Nat                 -- scratch address of a RAW row
  issued : Bool                -- it holds its entries (R290)
  status : Option Byte         -- final status, once decided
  data   : List Byte
  acks   : Nat                 -- packets of a STORE not yet resolved
  worst  : Option (Nat × Byte)
  held   : Nat                 -- entries that it took when it was issued (R290)
  deriving DecidableEq, Repr, Inhabited

structure Group where
  pc      : Nat
  ended   : Bool
  mask    : BitVec 32
  regs    : Tbl (BitVec 64)    -- by 32 × thread + register; unlisted reads 0
  vregs   : Tbl (BitVec 2048)
  mregs   : Tbl (BitVec 64)
  (seed stream counter : BitVec 64)
  slots   : Tbl PoolSlot
  fail    : Byte
  failN   : Nat
  nextSeq : Nat
  mboxWait : Option Nat
  deriving DecidableEq, Repr, Inhabited

inductive ProgState
  | loaded | running | ending | ended
  deriving DecidableEq, Repr, Inhabited

/-- The faulting access of a program record (R371). -/
structure FaultInfo where
  reason : Byte
  pc     : Nat
  grp    : Nat
  thread : Nat
  cause  : Byte
  handle : Nat
  offset : Nat
  deriving DecidableEq, Repr, Inhabited

/-- A weight tile of the array (R302). -/
structure Tile where
  fmt  : Nat
  data : List Byte
  deriving DecidableEq, Repr, Inhabited

structure Program where
  state   : ProgState
  tenant  : Tag
  owner   : Fin 2              -- host that loaded it
  (signed soft : Bool)
  code    : List (BitVec 64)
  consts  : List Byte
  (groupsN share accums handlesN outstanding : Nat)
  scratchBytes : Nat
  arrSlots : List Nat
  (digest signer : List Byte)
  (loadTime startTime endTime : Time)
  launchAt : Option Time       -- the launch, as R330 counts from it
  groupSlots : List Nat        -- thread groups of the engine that it holds (R346)
  status  : Byte
  info    : Option FaultInfo
  handles : List (BitVec 64)
  args    : List (BitVec 64)
  mailbox : List (BitVec 64)
  mboxQ   : List Nat
  slots   : List Nat           -- scratch slots of the engine, in program order
  groups  : Tbl Group
  accs    : Tbl Accum
  (live shadow : Option Tile)
  runner  : Option Nat
  (seed0 stream0 : BitVec 64)
  lines   : Nat
  deriving DecidableEq, Repr, Inhabited

structure Engine where
  duty    : Nat
  gather  : Nat
  weight  : Nat
  pausedAt : Option Time
  busy    : Nat
  lines   : Nat
  last    : Tbl Nat            -- by pipe, the thread group of the engine that it served last (R285)
  (capShed faulted : BitVec 16)
  completed : BitVec 32
  deriving DecidableEq, Repr, Inhabited

structure Cru where
  engines : Tbl Engine
  progs   : Tbl Program
  reqs    : List LineReq
  nextReq : Nat
  deriving DecidableEq, Repr, Inhabited

/-! ### Reductions (08_collectives_determinism.md) -/

inductive GrpState
  | armed | broken
  deriving DecidableEq, Repr, Inhabited

/-- A combining slot: the chunk, and each rank's contribution (tree mode) or the accumulators (exact
mode). -/
structure Combine where
  g      : Nat
  ranks  : Tbl (List Byte)
  exact  : List Accum
  deriving DecidableEq, Repr, Inhabited

/-- What a result buffer keeps for one member that has not acknowledged (R397). -/
structure MemberWait where
  rank : Nat
  last : Time
  sent : Nat
  held : Option Time
  deriving DecidableEq, Repr, Inhabited

structure ResultBuf where
  g       : Nat
  round   : Nat
  offset  : BitVec 48
  data    : List Byte
  waiting : List MemberWait
  first   : Time                    -- when it was first sent
  deriving DecidableEq, Repr, Inhabited

structure RGroup where
  tenant  : Tag
  key     : BitVec 32
  members : Nat
  mcast   : BitVec 12
  (inFmt outFmt op : Nat)
  exact   : Bool
  quad    : Fin 4
  slots   : Nat
  state   : GrpState
  elements : Nat
  round   : Nat
  armedAt : Nat                -- A of R381
  store   : Nat
  table   : List Node
  g0      : Nat
  formed  : List Nat           -- chunks beyond g0 whose results are formed
  combine : List Combine
  results : List ResultBuf
  deriving DecidableEq, Repr, Inhabited

structure Col where
  groups  : Tbl RGroup
  dying   : Tbl RGroup         -- destroyed, store not yet freed (R399)
  (nackKey nackMember nackRange nackDup : BitVec 16)
  (evQuench evCorrected evRecall evRetx evReplay : Nat)
  addends : Tbl Nat
  deriving DecidableEq, Repr, Inhabited

/-! ### Time, trace, faults (13_time_faults.md) -/

inductive LockSt
  | unlocked | locked | holdover
  deriving DecidableEq, Repr, Inhabited

/-- The last beacon heard on a link, and the stamps the next one echoes (R603, R608). -/
structure Neighbor where
  b       : Beacon
  arrived : Time
  frac    : Nat
  sentAt  : Time
  statusAt : Option Time
  map     : BitVec 256
  heard   : Bool                    -- a beacon has come since the link came up
  deriving DecidableEq, Repr, Inhabited

/-- A node's part of the time base (R601 to R603, R613). -/
structure TimeNode where
  lock      : LockSt
  depth     : Nat
  parent    : Option Nat
  parentLostAt : Option Time
  offset    : Int
  toSlew    : Int                   -- what the time base still lies from the last median, in 1/16 tick (R601)
  sinceSlew : Nat                   -- ticks since its last correction, up to 1,024
  samples   : List Int
  exchanges : Nat
  nbrs      : Tbl Neighbor
  term      : Nat
  manager   : Node
  electing  : Bool
  termAt    : Time
  seen      : List (Nat × Nat)      -- flood keys, newest first, at most 4,096
  live      : Tbl (BitVec 32 × Time) -- eligible switches: liveness count, tick it last rose
  counted   : Tbl (BitVec 32)       -- liveness counts seen, of switches whose count has not yet been seen to rise
  verdicts  : List Verdict          -- received, not yet applied
  applied   : List Verdict          -- verdicts already applied, newest first
  reportId  : Nat
  statusOut : Option Time           -- when this node last sent its STATUS (R610)
  deriving DecidableEq, Repr, Inhabited

structure RemapEntry where
  physical : Node
  inc      : Byte
  st       : Nat                    -- 1 REMAPPED, 2 LOST, 3 DRAINED
  deriving DecidableEq, Repr, Inhabited

structure TraceSt where
  entries : List (List Byte)        -- newest first
  lost    : Nat
  count   : Nat
  pendLoss : Bool
  packets : Nat                     -- packets seen while their class is captured
  deriving DecidableEq, Repr, Inhabited

structure Drain where
  subject : Node
  second  : Time
  verdict : Verdict
  deriving DecidableEq, Repr, Inhabited

/-- A command for the manager (R634): waiting for a manager with quorum, or decided here and waiting for its
verdicts to be applied. -/
structure MgrCmd where
  id      : Nat
  origin  : Origin
  desc    : Desc
  began   : Time
  decided : Bool
  deriving DecidableEq, Repr, Inhabited

structure Flt where
  tn       : TimeNode
  liveCount : BitVec 32
  candSince : Option Time
  role     : Bool                   -- holds the manager role
  reports  : List Report            -- held by the manager and by every node that may become it
  window   : Option Time
  verdictId : Nat
  probes   : Tbl Time               -- by port
  remap    : Tbl RemapEntry
  spares   : List Node
  step     : Tbl (BitVec 64)
  drains   : List Drain
  mgr      : List MgrCmd
  mgrId    : Nat
  service  : Bool
  verdictsN : BitVec 32
  (late reportsN probesN giveups : BitVec 16)
  dusk     : Bool
  trace    : Tbl TraceSt
  tMask    : Byte
  tSample  : Nat
  (tWrap tOn : Bool)
  tFilter  : Tag
  tables   : List (Nat × Nat)       -- parts of the row tables received
  rowMode  : Option Bool            -- the row's mode, as a table named it: SERVICE
  deriving DecidableEq, Repr, Inhabited

/-! ### Power (14_power.md) -/

/-- A supply entry (R670) while it is held. -/
structure Supply where
  start    : Time
  duration : Nat
  depth    : Nat
  setpoint : Nat
  (vinBefore vinMin : Nat)
  quads    : Byte
  sensors  : Nat                    -- mask of the sensors that passed THRESH
  flags    : Byte
  temp     : Nat
  index    : Nat
  deriving DecidableEq, Repr, Inhabited

/-- A ROW cap that this switch, as the manager, has sent to every switch (R676). -/
structure RowCap where
  id       : Nat
  sent     : Time
  activate : Time
  waiting  : Nat                    -- switches that have not acknowledged it
  reached  : Nat
  origin   : Origin
  desc     : Desc
  deriving DecidableEq, Repr, Inhabited

structure Pwr where
  (host row thermal : Nat)
  rowStaged : List (Time × Nat)     -- ROW caps received, until their activation ticks
  estimate : Nat                    -- in mW
  lastEst  : List (Time × Nat)      -- newest first
  calib    : Nat                    -- VCORE current of the last calibration, in mA
  unmet    : Bool
  unmetN   : BitVec 16
  (setpoint vmax : Nat)
  fixedSet : Nat                    -- SETPOINT of PWR_MODE
  measured : Nat
  fixed    : Bool
  standby  : Bool
  fixedLeft : Bool
  limitsSince : Option Time         -- both throttles at their limits, the estimate above the target
  capSince : Option Time            -- start of a demand window
  ramping  : Bool
  throttleAt : List Time
  vrSilent : Bool
  vrLast   : Time
  pfw      : Bool
  tripped  : Bool
  lowering : Bool                   -- the THERMAL cap is being lowered
  readings : List Nat               -- of the last sensor window, in 1/1,024
  windows  : List (List Nat)        -- undisturbed windows, newest first
  lows     : List Nat               -- lowest readings of the last windows, newest first
  rate     : Nat                    -- RATE, in 1/1,024
  below    : Nat                    -- consecutive quiet windows of the open disturbance
  openS    : Option Supply
  ring     : List Supply            -- newest first, at most 1,024
  thresh   : Nat
  total    : BitVec 32
  next     : Nat
  alarmAt  : Option Time
  vin      : Nat
  (qtemp qpeak : Tbl Nat)
  (guard alarm : Nat)
  logicLimit : Nat
  sleepIdle : Nat
  rowSent  : List RowCap
  deriving DecidableEq, Repr, Inhabited

/-! ### Security, firmware, debug (15_security_firmware.md) -/

structure ReportReq where
  origin : Origin
  desc   : Desc
  body   : List Byte
  deriving DecidableEq, Repr, Inhabited

/-- An entry of the measurement table (R701): the digest and its version, the versions still to be measured in order
(0 for a region that is not a cast one), and the command that waits for the measurement. -/
structure Measure where
  version  : Nat
  digest   : List Byte
  valid    : Bool
  tick     : Time
  debugWritten : Bool
  running  : List Nat
  origin   : Option (Origin × Desc)
  deriving DecidableEq, Repr, Inhabited

structure Scrub where
  start    : Time
  regions  : Nat
  (granules skipped : Nat)
  (slots groups programs partner partnerLost recalled : Nat)
  waitPartner : List Nat
  deriving DecidableEq, Repr, Inhabited

structure Core where
  (running halted held : Bool)
  (restarts compRestarts : BitVec 16)
  heldComps : Byte
  times    : List Time              -- core restarts within the last second
  compTimes : List (Nat × Time)
  deriving DecidableEq, Repr, Inhabited

/-- A live update: `step` is 1 while the record is read and checked, 3 from the pause of ring service on (R716). -/
structure FwUp where
  origin : Origin
  desc   : Desc
  digest : List Byte
  version : Nat
  step   : Nat
  began  : Time
  deriving DecidableEq, Repr, Inhabited

/-- An image command in progress: `accepted` once its image has passed the checks, `writing` while the flash
device works, `failed` when that device has reported a failure (R756, R757). -/
structure FlashJob where
  origin : Origin
  desc   : Desc
  push   : Bool
  (accepted writing failed : Bool)
  deriving DecidableEq, Repr, Inhabited

structure Sec where
  seed     : List Byte
  pk       : List Byte
  keyReady : Bool
  owned    : Bool
  cause    : Nat
  reportsN : BitVec 32
  noiseN   : Nat                     -- uses of the noise source (R690)
  queue    : List ReportReq
  measures : Tbl Measure
  scrubs   : Tbl Scrub
  scrubRecs : List (List Byte)      -- last 64, oldest first
  scrubN   : Nat
  fwVersion : Nat
  (fwDigest firstFw cfgDigest ownerDigest endorsement : List Byte)
  updates  : Nat
  update   : Option FwUp
  cores    : Tbl Core
  hkmem    : Mem
  sessions : Tbl (Nat × Option (Fin 2))  -- level and, for ring sessions, the host
  (histD1 histD2 : Bool)
  flash    : Option FlashJob
  deriving DecidableEq, Repr, Inhabited

/-! ### The configuration in force (16_dawn_config.md) -/

inductive PortKind
  | down | peer | global | spare | unused
  deriving DecidableEq, Repr, Inhabited

structure PortPlan where
  kind  : PortKind
  index : Nat
  (farPort farStepping : Byte)
  farPart : BitVec 16
  farSerial : BitVec 64
  deriving DecidableEq, Repr, Inhabited

structure Cfg where
  (requireSigned ideRequired : Bool)
  signers  : List (List Byte)
  minFw    : Nat
  eligible : Bool
  startService : Bool
  racks    : Nat
  switches : BitVec 256
  plan     : Tbl PortPlan
  profiles : List (List Byte)
  lanes    : List Byte
  check    : List Byte
  deriving DecidableEq, Repr, Inhabited

/-! ### Device and pins -/

structure Dev where
  resetLow : Bool          -- SYS_RESET_N is low
  railsOut : List Rail     -- rails that keep the switch in reset (R772)
  refOut   : Bool          -- REFCLK_F keeps the switch in reset (R776)
  vio      : Bool
  sfdp     : Bool          -- the flash has answered SFDP
  quadUp   : BitVec 4
  nodeId   : Node
  serial   : BitVec 64
  dawnDone : Bool
  step     : Nat
  elapsed  : Nat
  stackFail : BitVec 16
  quadFail : BitVec 4
  thermtrip : Bool
  pinsOff  : Bool          -- pins out of functional control (R719)
  tapIr    : String
  tapDr    : BitVec 32
  deriving DecidableEq, Repr, Inhabited

/-- The switch is kept in reset by a pin, a rail or REFCLK_F (R772, R773, R776). -/
def Dev.held (d : Dev) : Bool := d.resetLow || !d.railsOut.isEmpty || d.refOut

/-! ### The ZE-208 (12_endpoint_block.md) -/

structure EpEntry where
  base     : BitVec 64
  length   : Nat
  tenant   : Tag
  (keyCurrent keyPrevious : BitVec 32)
  rights   : Byte
  (prevValid graceOpen destroying : Bool)
  rotateTime : Time
  deriving DecidableEq, Repr, Inhabited

structure RBinding where
  host    : Node
  group   : BitVec 16
  key     : BitVec 32
  rank    : Nat
  slots   : Nat
  sizes   : Byte
  elements : Nat
  result  : BitVec 64
  counter : Nat
  round   : Nat
  base    : Nat            -- round at which g restarts at 0
  sent    : Nat            -- g of the next chunk to contribute
  done    : Nat            -- every chunk below this g has landed
  landed  : List Nat       -- chunks from there on that have landed
  lastLand : Time
  deriving DecidableEq, Repr, Inhabited

/-- An operation that a queue has taken (R554), with what it still waits for. -/
structure EpOp where
  i       : Nat            -- queue 0 to 95
  k       : BitVec 32
  desc    : Desc
  status  : Option Byte
  row     : Nat
  worst   : Option (Nat × Byte)
  value   : BitVec 64
  toSend  : List (Nat × Nat × Nat × Nat)  -- row, remote offset, length, accelerator address, not yet injected
  openN   : Nat            -- packets, contributions and data MWRs not yet resolved
  flushN  : Nat            -- write-backs not yet resolved
  reading : Bool           -- an MRD of its data is outstanding
  stopped : Bool           -- injects nothing further
  decided : Time           -- when the final status was decided
  abortTag : Option (BitVec 32)
  written : Bool           -- the completion record's MWR has been issued
  noFill  : Bool           -- a snoop has overtaken its fill: the reply is not kept (R152)
  deriving DecidableEq, Repr, Inhabited

/-- What an MRD or MWR serves (R545, R549). -/
inductive D2dUse
  | opData (i : Nat) (k : BitVec 32) (row : Nat) (off : Nat) (last : Bool)
  | opLand (i : Nat) (k : BitVec 32) (row : Nat) (bytes : Nat)
  | record (i : Nat) (k : BitVec 32) (notify : Bool)
  | abortRec (i : Nat)
  | serveRead (a : Arrival)
  | serveWrite (a : Arrival) (pieces : Nat)
  | serveAtomRd (a : Arrival)
  | serveAtomWr (a : Arrival) (old : List Byte)
  | contribRd (b : Nat) (i : Nat) (k : BitVec 32) (g : Nat) (probe : Bool)
  | resultLand (b : Nat) (a : Arrival)
  deriving DecidableEq, Repr, Inhabited

structure D2d where
  tag    : Nat
  isRead : Bool
  addr   : Nat
  len    : Nat
  data   : List Byte
  issued : Time
  sent   : Bool            -- an MWR waits unsent while another touches its line (R548)
  use    : D2dUse
  deriving DecidableEq, Repr, Inhabited

structure EpQueue where
  (prod taken : BitVec 32)
  state   : RingSt
  binding : Tag
  runner  : Option Nat
  cqBase  : BitVec 52
  slots   : Tbl Desc
  deriving DecidableEq, Repr, Inhabited

structure EpRunner where
  port   : Nat
  slots  : BitVec 16
  phase  : Nat
  tenant : Tag
  last   : Time            -- tick at which its last burst left, and the flits of that burst
  used   : Nat
  deriving DecidableEq, Repr, Inhabited

structure Ep where
  now      : Time
  nodeId   : Node
  incarnation : Byte
  temp     : Nat
  (trip m1 m0 ep1 ep0 configured : Bool)
  (override_ enable : BitVec 2)
  (eq0 eq1 : BitVec 128)
  thermN   : Bool            -- THERM_N is asserted (R596)
  abortBase : BitVec 52
  (doorbell d2dErr : BitVec 16)
  evict    : BitVec 32
  queues   : Tbl EpQueue
  ops      : List EpOp
  ranges   : Tbl EpEntry
  counters : Tbl (BitVec 64)
  binds    : Tbl RBinding
  runners  : Tbl EpRunner
  cache    : List CacheLine          -- oldest allocation first
  d2d      : List D2d
  d2dTag   : Nat
  atomLines : List Nat
  waitReqs : List Arrival            -- fabric accesses that wait for an atomic's pair (R566)
  xp       : Xport
  rwin     : Tbl DstSrc              -- windows of results, by host and group (R396)
  staged   : List (Time × Packet)
  tn       : TimeNode
  cellNode : Node                    -- the switch on EP0 (R570)
  loop     : List Packet             -- packets of a request that this end point serves itself (R564)
  xoff     : Tbl Byte                -- by port: the XOFF bits of the last good flit (R242)
  outq     : List (Nat × Fin 8 × Packet)   -- packets that wait for XOFF to clear: port, VC
  relay    : List (Nat × Fin 8 × Packet)   -- the relay buffers: the port and VC by which each leaves (R579)
  relayXoff : Tbl Byte               -- by port: the XOFF bits asserted for relayed packets (R579)
  deriving DecidableEq, Repr, Inhabited

/-! ### What leaves the parts -/

/-- The equalisation that a lane or an end-point port trains with: a profile of R458, or a built-in one (R583). -/
inductive Equaliser
  | profile (b : List Byte)
  | builtIn (n : BitVec 2)
  deriving DecidableEq, Repr, Inhabited

inductive Out
  | flit (port : Fin 64) (f : Flit)
  | vc7 (part : Part) (port : Nat) (payload : List Byte)
  | ep (port : Nat) (vc : Fin 8) (data : List (List Byte)) (pkt : Packet)   -- with the DATA of its flits (R182)
  | snoop (port : Fin 64) (pkt : Packet)
  | dmaWrite (port : Fin 2) (addr : Nat) (data : List Byte)
  | dmaRead (port : Fin 2) (id : Nat) (addr len : Nat)
  | msix (port : Fin 2) (vector : Nat)
  | function (port : Fin 2) (device revision classCode : Nat)   -- what function 0 presents (R498)
  | cxlData (port : Fin 2) (addr : Nat) (data : List Byte) (poison : Bool)
  | cxlCmp (port : Fin 2) (addr : Nat)
  | biSnp (port : Fin 2) (line : Nat)
  | mailbox (port : Fin 2) (opcode : BitVec 16) (ok : Bool) (data : List Byte)
  | completerAbort (port : Fin 2) (offset : BitVec 28)
  | unsupported (port : Fin 2)
  | errFatal (port : Fin 2)
  | regulator (mv : Nat)
  | pin (name : String) (value : Bool)
  | d2d (header data : List Byte)       -- a transaction of the die-to-die link (R545)
  | epXoff (port : Nat) (bits : Byte)   -- the XOFF bits of an end-point port's flits from here on (R242, R579)
  | tdo (value : BitVec 32)
  | flashWrite (bytes : Nat)
  | symbols (port : Nat) (lanes : List (List (BitVec 2)))
  | training (port : Nat) (eq : List Equaliser) (first : List (List Byte))
  | linkMgmt (port : Nat) (messages : List (Byte × BitVec 32))
  | lanesOff (port : Nat)
  deriving DecidableEq, Repr, Inhabited

/-- A write to a partner-mirrored region that waits for the partner's acknowledgements (R424): who waits, the
lines it writes, and the PARTNER_WRITEs not yet acknowledged. -/
structure Mirror where
  wid   : Nat
  who   : Waiter
  reg   : Nat
  off   : Nat
  lines : List Nat
  openN : Nat
  deriving DecidableEq, Repr, Inhabited

/-- The machine. -/
structure State where
  now  : Time
  dev  : Dev
  cfg  : Cfg
  rgn  : Rgn
  pool : Pool
  coh  : Coh
  xp   : Xport
  swc  : Swc
  lnk  : Lnk
  hif  : Hif
  cru  : Cru
  col  : Col
  flt  : Flt
  pwr  : Pwr
  sec  : Sec
  ep   : Ep
  partnerW : List Mirror   -- mirrored writes awaiting their ACK
  widNext  : Nat
  out  : List Out          -- newest first
  free : Nat               -- the model's counter of free values
  pending : List Instr
  deriving DecidableEq, Repr

/-! ### Reset

`default` of a structure holds zero, false, the empty list, `none` and the first constructor in every
field; each definition below names the fields that the manual resets to something else. Tables list
nothing at reset: an entry that is not listed holds what the accessors of Ops.lean give for it. -/

/-- TIM_STATUS at reset (R637): DEPTH 0xFF, no parent (PARENT_PORT 0xFF), UNLOCKED. -/
def TimeNode.reset : TimeNode := { (default : TimeNode) with depth := 255 }

/-- The governor at reset (R679 to R682) and the preset defaults of R654, R667, R674 and R483. -/
def Pwr.reset : Pwr :=
  { (default : Pwr) with
    host := 600, row := 600, thermal := 600, setpoint := 750, vmax := 750, thresh := 4,
    guard := 3, alarm := 25, logicLimit := 100, sleepIdle := 4 }

/-- The pool at reset (R445 to R450): PASS_HOURS 0x18. -/
def Pool.reset : Pool := { (default : Pool) with passHours := 24 }

/-- DEV registers at reset (R53 to R56, R759): VIO present, reset released, STEP 1; the JTAG
instruction is IDCODE. DESIGN CHOICE: the last (log entry 10). -/
def Dev.reset : Dev := { (default : Dev) with vio := true, step := 1, tapIr := "IDCODE" }

/-- The fault-protocol node at reset (R639 to R642). -/
def Flt.reset : Flt := { (default : Flt) with tn := TimeNode.reset }

/-- The ZE-208 at reset (R588 to R594). -/
def Ep.reset : Ep := { (default : Ep) with tn := TimeNode.reset }

/-- The machine right after reset. -/
def State.reset : State where
  now := 0
  dev := Dev.reset
  cfg := default
  rgn := default
  pool := Pool.reset
  coh := default
  xp := default
  swc := default
  lnk := default
  hif := default
  cru := default
  col := default
  flt := Flt.reset
  pwr := Pwr.reset
  sec := default
  ep := Ep.reset
  partnerW := []
  widNext := 0
  out := []
  free := 0
  pending := []

end Sys2Proof.Machine
end

