-- ==== Sys2Proof/Machine/Ops.lean ====
section
/-! DEFINITION. Named operations on bytes, time and the parts of the state, which every meaning uses. -/

namespace Sys2Proof.Machine

/-! ### Bytes and bit fields (R9: little-endian) -/

/-- The `n` low bytes of a number, lowest first. -/
def leBytes : Nat → Nat → List Byte
  | 0, _ => []
  | n + 1, v => BitVec.ofNat 8 v :: leBytes n (v / 256)

/-- The number that bytes spell, lowest first. -/
def leNat : List Byte → Nat
  | [] => 0
  | b :: bs => b.toNat + 256 * leNat bs

/-- The field of `n` bytes at an offset of a structure. -/
def fieldAt (bs : List Byte) (off n : Nat) : Nat := leNat ((bs.drop off).take n)

/-- Bits `lo` to `lo + n - 1` of a number. -/
def bitsOf (v lo n : Nat) : Nat := (v >>> lo) % 2 ^ n

/-- Whether bit `i` of a number is set. -/
def bitOf (v i : Nat) : Bool := v.testBit i

def b2n (b : Bool) : Nat := if b then 1 else 0

/-- `n` bytes of zero. -/
def zeros (n : Nat) : List Byte := List.replicate n 0

/-- Bytes cut or filled with zeros to a length. -/
def padTo (n : Nat) (bs : List Byte) : List Byte := (bs ++ zeros (n - bs.length)).take n

/-- Replaces the bytes at an offset. -/
def patchBytes (bs : List Byte) (off : Nat) (w : List Byte) : List Byte :=
  bs.take off ++ w ++ bs.drop (off + w.length)

/-- Replaces byte `i` where bit `i` of the mask is set. -/
def maskMerge (mask : Nat) (old new : List Byte) : List Byte :=
  (List.zip old new).mapIdx fun i p => if mask.testBit i then p.2 else p.1

/-- Adds to a counter of the state that wraps. -/
def bump {w : Nat} (c : BitVec w) (n : Nat := 1) : BitVec w := c + BitVec.ofNat w n

/-- The indices of the bits set in a number below `n`, ascending. -/
def bitList (v n : Nat) : List Nat := (List.range n).filter fun i => v.testBit i

/-- One step of the reflected CRC-32C division. -/
def crcBit (c : BitVec 32) : BitVec 32 :=
  if c.getLsbD 0 then (c >>> 1) ^^^ 0x82F63B78#32 else c >>> 1

def crcByte (c : BitVec 32) (b : Byte) : BitVec 32 :=
  crcBit (crcBit (crcBit (crcBit (crcBit (crcBit (crcBit (crcBit (c ^^^ b.setWidth 32))))))))

/-- CRC-32C (R189, R413): the Castagnoli polynomial, reflected, all ones before and after. PRESUMED (log
entry 11): the manual names the CRC and gives no parameters. -/
def crc32c (bs : List Byte) : BitVec 32 := ~~~ (bs.foldl crcByte 0xFFFFFFFF#32)

/-! ### Time (R599: ticks of 0.4 ns) -/

def us (n : Nat) : Nat := 2500 * n
def ms (n : Nat) : Nat := 2500000 * n

/-- The tick at or after which something due `d` ticks after `t` has happened, at `now`. -/
def due (now t d : Nat) : Bool := decide (t + d ≤ now)

/-! ### Completion status codes (R227) -/

abbrev Status := Byte

def stOk : Status := 0x00
def stAlreadyDone : Status := 0x01
def stAborted : Status := 0x02
def stKeyMismatch : Status := 0x10
def stTenantDenied : Status := 0x11
def stOutOfRange : Status := 0x12
def stReadOnly : Status := 0x13
def stVersionConflict : Status := 0x14
def stTranslationFault : Status := 0x20
def stFaultOverflow : Status := 0x21
def stPoisoned : Status := 0x30
def stDestLost : Status := 0x31
def stIndeterminate : Status := 0x32
def stStaleIncarnation : Status := 0x33
def stResourceRefused : Status := 0x40
def stFormatUnsupported : Status := 0x41
def stProgramFault : Status := 0x42
def stCapShed : Status := 0x50
def stInternal : Status := 0x7F

/-- The first condition of a failure table that holds decides. -/
def firstFail : List (Bool × Status) → Option Status
  | [] => none
  | (c, st) :: t => if c then some st else firstFail t

/-! ### Parts of the state -/

namespace State

def onDev (s : State) (f : Dev → Dev) : State := { s with dev := f s.dev }
def onRgn (s : State) (f : Rgn → Rgn) : State := { s with rgn := f s.rgn }
def onPool (s : State) (f : Pool → Pool) : State := { s with pool := f s.pool }
def onCoh (s : State) (f : Coh → Coh) : State := { s with coh := f s.coh }
def onXp (s : State) (f : Xport → Xport) : State := { s with xp := f s.xp }
def onSwc (s : State) (f : Swc → Swc) : State := { s with swc := f s.swc }
def onLnk (s : State) (f : Lnk → Lnk) : State := { s with lnk := f s.lnk }
def onHif (s : State) (f : Hif → Hif) : State := { s with hif := f s.hif }
def onCru (s : State) (f : Cru → Cru) : State := { s with cru := f s.cru }
def onCol (s : State) (f : Col → Col) : State := { s with col := f s.col }
def onFlt (s : State) (f : Flt → Flt) : State := { s with flt := f s.flt }
def onPwr (s : State) (f : Pwr → Pwr) : State := { s with pwr := f s.pwr }
def onSec (s : State) (f : Sec → Sec) : State := { s with sec := f s.sec }
def onEp (s : State) (f : Ep → Ep) : State := { s with ep := f s.ep }

/-- Records what leaves a part. -/
def emit (s : State) (o : Out) : State := { s with out := o :: s.out }

/-- The ticks at which something that the switch has staged comes into force: commands and ROW caps (R37), verdicts
(R620) and the second instants of drains (R632). -/
def heldTicks (s : State) : List Time :=
  s.rgn.staged.map Staged.time_ ++ s.pwr.rowStaged.map Prod.fst ++ s.flt.tn.verdicts.map Verdict.apply
    ++ s.flt.drains.map Drain.second

/-- The same at the ZE-208: EPC_WRITEs (R585) and verdicts. -/
def epHeldTicks (s : State) : List Time := s.ep.staged.map Prod.fst ++ s.ep.tn.verdicts.map Verdict.apply

/-- Moves the switch's time base on to a reading. It never goes back, and it stops short of the next tick at which
something staged comes into force: the command of that tick comes first (R37, R38). DESIGN CHOICE (log entry 138). -/
def at_ (s : State) (t : Time) : State :=
  { s with now := max s.now (s.heldTicks.foldl (fun m x => min m (x - 1)) t) }

/-- Moves the ZE-208's time base on to a reading, in the same way. -/
def epAt (s : State) (t : Time) : State :=
  s.onEp fun e => { e with now := max e.now (s.epHeldTicks.foldl (fun m x => min m (x - 1)) t) }

/-- Moves the switch's time base on to a reading, or to the first tick before it at which something staged comes into
force: for the command that brings it into force. -/
def reachTick (s : State) (t : Time) : State := { s with now := max s.now (s.heldTicks.foldl min t) }
def epReachTick (s : State) (t : Time) : State := s.onEp fun e => { e with now := max e.now (s.epHeldTicks.foldl min t) }

/-- The next free value. -/
def freeWord (s : State) : BitVec 64 := Config.freeValue s.free
def stepFree (s : State) : State := { s with free := s.free + 1 }

/-- A host port; an unlisted port is as reset leaves it (R536 to R541). -/
def hp (s : State) (p : Nat) : HostPort := s.hif.ports.getD p default
def setHp (s : State) (p : Nat) (h : HostPort) : State :=
  s.onHif fun f => { f with ports := f.ports.set p h }
def onHp (s : State) (p : Nat) (f : HostPort → HostPort) : State := s.setHp p (f (s.hp p))

def ringOf (h : HostPort) (n : Nat) : Ring := h.rings.getD n default

def tenant (s : State) (t : Nat) : Tenant := s.rgn.tenants.getD t default
def region? (s : State) (r : Nat) : Option Region := s.rgn.regions.get? r
def onRegion (s : State) (r : Nat) (f : Region → Region) : State :=
  s.onRgn fun g => { g with regions := g.regions.modify r f }

def stack (s : State) (k : Nat) : StackSt := s.pool.stk.getD k default
def onStack (s : State) (k : Nat) (f : StackSt → StackSt) : State :=
  s.onPool fun p => { p with stk := p.stk.set k (f (s.stack k)) }

def tracePresent (s : State) (q : Nat) : Bool := s.dev.quadUp.getLsbD q

end State

/-- Quadrant `q` is in service (R21). -/
def quadUp (s : State) (q : Nat) : Bool := s.dev.quadUp.getLsbD q

/-- A stack is in service while its quadrant is and it has not been declared lost (R66). -/
def stackUp (s : State) (k : Nat) : Bool :=
  decide (k < 16) && quadUp s (k / 4) && s.pool.trained.getLsbD k && !(s.stack k).lost

/-- A host port is present while its quadrant is in service (R21): HP0 in Q0, HP1 in Q3 (R16). -/
def hpPresent (s : State) (p : Nat) : Bool := quadUp s (if p = 0 then 0 else 3)

/-- Determinism event counts, each saturating at its largest value (R409). -/
def countRecall (s : State) : State := s.onCol fun c => { c with evRecall := Nat.min 0x7FFF (c.evRecall + 1) }
def countRetx (s : State) : State := s.onCol fun c => { c with evRetx := Nat.min 0x7FFF (c.evRetx + 1) }
def countReplay (s : State) : State := s.onCol fun c => { c with evReplay := Nat.min 0x7FFF (c.evReplay + 1) }
def countQuench (s : State) : State := s.onCol fun c => { c with evQuench := Nat.min 0xFF (c.evQuench + 1) }

/-! ### Housekeeping cores and compartments (R35, R711, R713, R723) -/

def coreOf (s : State) (n : Nat) : Core := s.sec.cores.getD n default
def onCore (s : State) (n : Nat) (f : Core → Core) : State :=
  s.onSec fun c => { c with cores := c.cores.set n (f (coreOf s n)) }

def compRING : Nat := 1
def compLOADER : Nat := 2
def compATTEST : Nat := 3
def compSCRUB : Nat := 4
def compLINK : Nat := 6
def compUPDATE : Nat := 7

/-- A core is running: in service and not held. A core that debug has halted still counts: its duties wait (R723). -/
def coreRuns (s : State) (n : Nat) : Bool := quadUp s n && (coreOf s n).running

/-- Where a compartment homed on a core runs: there, or on the lowest-numbered running core. -/
def compPlace (s : State) (home : Nat) : Option Nat :=
  if coreRuns s home then some home else (List.range 4).find? (coreRuns s)

/-- A compartment does its duty on a core. -/
def compOn (s : State) (comp n : Nat) : Bool :=
  coreRuns s n && !(coreOf s n).halted && !(coreOf s n).heldComps.getLsbD comp

/-- The duty of a compartment with a home core is done; that of a per-quadrant one is `compOn` of its core. -/
def homedOn (s : State) (comp home : Nat) : Bool :=
  match compPlace s home with
  | some n => compOn s comp n
  | none => false

/-- Ring service of a host port runs (R35, R711, R716): HK0 serves HP0 and HK3 serves HP1. -/
def ringServed (s : State) (p : Nat) : Bool :=
  homedOn s compRING (if p = 0 then 0 else 3) &&
    (match s.sec.update with
     | some u => decide (u.step < 3)
     | none => true)

/-! ### Tenant tags (R71, R76) -/

/-- The tag of the operator domain. -/
def opTag : Tag := 0x8000

def isOp (t : Tag) : Bool := t.getLsbD 15

/-- A tag without its reserved bits 14:12, which a packet's reader ignores (R11, R71, R184). -/
def tagOf (t : Tag) : Tag := t &&& 0x8FFF

/-- A tag names a tenant that is ACTIVE. -/
def tagActive (s : State) (t : Tag) : Bool :=
  decide (t.toNat < 4096) && decide ((s.tenant t.toNat).state = .active)

/-- A tag is well formed: 0x8000, or a tenant ID. -/
def tagLegal (t : Tag) : Bool := decide (t = opTag) || decide (t.toNat < 4096)

/-- Credentials cover a tag (R523): the operator's cover all, a tenant's its own, while it is ACTIVE. -/
def covers (s : State) (cred tag : Tag) : Bool :=
  isOp cred || (decide (cred = tagOf tag) && tagActive s cred)

/-- The named tenant is ACTIVE or the tag is the operator domain's (R788). Reserved bits are for `tagLegal` to refuse. -/
def activeOrOp (s : State) (t : Tag) : Bool := isOp t || tagActive s (tagOf t)

/-! ### Node IDs (R59) -/

def isSwitch (n : Node) : Bool := n.getLsbD 15
def rackOf (n : Node) : Nat := bitsOf n.toNat 8 4
/-- Plane of a switch: 0 A, 1 B. -/
def planeOf (n : Node) : Nat := bitsOf n.toNat 4 1
/-- Switch within its plane, of a switch. -/
def swOf (n : Node) : Nat := bitsOf n.toNat 1 3
/-- Switch within its plane, of an end point. -/
def epSwOf (n : Node) : Nat := bitsOf n.toNat 5 3
def slotOf (n : Node) : Nat := bitsOf n.toNat 0 5

/-- The reserved bits of a node ID are zero. -/
def nodeLegal (n : Node) : Bool :=
  if isSwitch n then decide (bitsOf n.toNat 12 3 = 0 ∧ bitsOf n.toNat 5 3 = 0 ∧ bitsOf n.toNat 0 1 = 0)
  else decide (bitsOf n.toNat 12 3 = 0)

/-- The incarnation that a node's table holds for an end point; 0 for a switch (R219). -/
def incOf (inc : Tbl Byte) (n : Node) : Byte := if isSwitch n then 0 else inc.getD (n.toNat % 4096) 0

end Sys2Proof.Machine
end

