-- ==== Sys2Proof/Machine/Place.lean ====
section
/-! DEFINITION. Placement of regions and of their protection (R64 to R74, R421 to R423), the granules and
scratch slots that are held, quotas, and the ring regions (R512). -/

namespace Sys2Proof.Machine

/-! ### Granule addresses (R64) -/

def gStack (g : Nat) : Nat := g >>> 20
def gSlot (g : Nat) : Nat := g % 2 ^ 20
def mkGranule (stack slot : Nat) : Nat := stack <<< 20 ||| slot
/-- Granules of a stack. -/
def stackGranules : Nat := 786432

/-! ### Fields of the region record (R71) -/

namespace Region

def placement (r : Region) : Nat := bitsOf r.place.toNat 0 2
def affinity (r : Region) : Nat := bitsOf r.place.toNat 4 4
def protection (r : Region) : Nat := bitsOf r.modes.toNat 0 2
def sharing (r : Region) : Nat := bitsOf r.modes.toNat 2 2
def hint (r : Region) : Nat := bitsOf r.modes.toNat 4 2
def lossFatal (r : Region) : Bool := r.modes.getLsbD 7
def canRead (r : Region) : Bool := r.rights.getLsbD 0
def canWrite (r : Region) : Bool := r.rights.getLsbD 1
def canAtomic (r : Region) : Bool := r.rights.getLsbD 2
def canEngine (r : Region) : Bool := r.rights.getLsbD 3
def canHost (r : Region) : Bool := r.rights.getLsbD 4
def isCast (r : Region) : Bool := r.sharing == 2
def isBacked (r : Region) : Bool := r.placement == 3
def isScratch (r : Region) : Bool := r.placement == 2
/-- Byte length (R72). -/
def bytes (r : Region) : Nat := r.length * 65536
/-- Data granules: a cast region has two banks (R171). -/
def dataGranules (r : Region) : Nat := if r.isCast then 2 * r.length else r.length

end Region

def plSINGLE : Nat := 0
def plSPREAD : Nat := 1
def plSCRATCH : Nat := 2
def plBACKED : Nat := 3

/-- The placement list that a STACKS field names, ascending (R66). -/
def stackList (m : BitVec 16) : List Nat := bitList m.toNat 16

/-- Position of a stack in a placement list. -/
def posIn (l : List Nat) (k : Nat) : Nat := l.idxOf k

/-- The place of granule `i` of a SPREAD run (R65). -/
def spreadGranule (l : List Nat) (base i : Nat) : Nat :=
  let n := l.length
  mkGranule (l.getD ((posIn l (gStack base) + i) % n) 0) (gSlot base + i / n)

/-- The granule of a resident page (R92, R93). -/
def pageGranule (s : State) (ri i : Nat) : Option Nat :=
  (s.rgn.ranges.find? fun e =>
    decide (e.kind = .page ∧ e.region = ri ∧ e.start ≤ i * 65536 ∧ i * 65536 < e.start + e.length)).map
    fun e => e.granule.toNat + (i - e.start / 65536)

/-- The granule of a page that PAGE_OUT is taking out, or of a destroyed region: requests accepted before still use it
(R102, R109). -/
def leavingGranule (s : State) (ri i : Nat) : Option Nat :=
  ((s.rgn.leaving.find? fun e =>
    decide (e.region = ri ∧ e.start ≤ i * 65536 ∧ i * 65536 < e.start + e.length)).map
    fun e => e.granule.toNat + (i - e.start / 65536)).or <|
  (s.rgn.pageJobs.find? fun j => j.out && decide (j.region = ri ∧ j.page = i)).map fun j => j.granule.toNat

/-- Where granule `i` of a SINGLE, SPREAD or BACKED region lies (R65). -/
def granuleOf (s : State) (ri : Nat) (r : Region) (i : Nat) : Option Nat :=
  if r.placement = plSINGLE then some (r.base.toNat + i)
  else if r.placement = plSPREAD then some (spreadGranule (stackList r.stacks_) r.base.toNat i)
  else if r.placement = plBACKED then (pageGranule s ri i).or (leavingGranule s ri i)
  else none

/-- Byte offset in the scratchpads (engine × 8 MiB + offset) of a byte of a SCRATCH region (R65). -/
def scratchAddr (r : Region) (off : Nat) : Nat :=
  gStack r.base.toNat * 2 ^ 23 + (gSlot r.base.toNat * 65536 + off) % 2 ^ 23

/-! ### Protection (R421, R422, R423) -/

/-- d of R421: 4 when the placement list holds stacks of two or more quadrants, else 1. -/
def mirrorStep (l : List Nat) : Nat :=
  if (l.map (· / 4)).eraseDups.length ≥ 2 then 4 else 1

/-- The granule that holds the mirror copy of granule `i`. -/
def mirrorGranule (r : Region) (i g : Nat) : Nat :=
  let l := stackList r.stacks_
  let k := l.getD ((posIn l (gStack g) + mirrorStep l) % l.length) 0
  mkGranule k (gSlot r.protBase.toNat + (if r.placement = plSPREAD then i / l.length else i))

/-- The granule that holds the parity of stripe `k`. -/
def parityGranule (r : Region) (k : Nat) : Nat :=
  let l := stackList r.stacks_
  mkGranule (l.getD ((posIn l (gStack r.base.toNat) + 4 * k + 8 + (k / 4) % 4) % 16) 0)
    (gSlot r.protBase.toNat + k / 16)

/-- The granule, in the partner, that holds the copy of granule `i`. -/
def partnerGranule (r : Region) (i : Nat) : Nat :=
  spreadGranule (stackList r.partnerStacks) r.protBase.toNat i

/-- Protection granules in this switch (R74). -/
def protGranules (r : Region) : Nat :=
  if r.protection = 1 then r.dataGranules else if r.protection = 2 then r.dataGranules / 4 else 0

/-! ### The ring regions (R512)

4,096 granules spread over the stacks of the port's quadrant, mirrored. DESIGN CHOICE (log entry 12):
they take the highest slots of their stacks, with their copies below. -/

/-- Slots a ring region and its copies take on each stack. -/
def ringSlots : Nat := 2048

def ringRegion (s : State) (p : Nat) : Region :=
  let q := if p = 0 then 0 else 3
  let st : BitVec 16 := s.pool.trained &&& BitVec.ofNat 16 (0xF <<< (4 * q))
  let l := stackList st
  { (default : Region) with
    base := BitVec.ofNat 24 (mkGranule (l.headD (4 * q)) (stackGranules - 1024))
    length := 4096, tenant := opTag, rights := 0x13, modes := 0x01, place := BitVec.ofNat 8 plSPREAD
    protBase := BitVec.ofNat 24 (mkGranule (l.getD 1 (4 * q)) (stackGranules - 2048))
    stacks_ := st }

/-- A port offers CXL.mem: it trained for it, and its quadrant has a stack for its ring region (R500, R748, R754). -/
def cxlOffered (s : State) (p : Nat) : Bool :=
  (s.hp p).cxlMem && !(stackList (ringRegion s p).stacks_).isEmpty

/-- The index by which the model names the ring region of a port, beyond the region table. -/
def ringIndex (p : Nat) : Nat := 65536 + p

/-- A region by index, ring regions included. -/
def anyRegion (s : State) (ri : Nat) : Option Region :=
  if ri < 65536 then s.region? ri else some (ringRegion s (ri - 65536))

/-! ### Granules held (R69) -/

/-- Granules of one stack: first slot and number. -/
structure Span where
  stack : Nat
  start : Nat
  count : Nat
  deriving DecidableEq, Repr, Inhabited

/-- The granules that `n` granules laid out as SPREAD from `base` take on each stack of a list. -/
def spreadSpans (l : List Nat) (base n : Nat) : List Span :=
  let c := l.length
  let j := posIn l (gStack base)
  l.mapIdx fun p k => ⟨k, gSlot base, (n + c - 1 - (p + c - j % c) % c) / c⟩

def singleSpan (base n : Nat) : Span := ⟨gStack base, gSlot base, n⟩

/-- The parity granules on each stack (R422): over 16 stripes they visit every stack once. -/
def paritySpans (r : Region) : List Span :=
  let l := stackList r.stacks_
  let j := posIn l (gStack r.base.toNat)
  (List.range 16).map fun i =>
    ⟨l.getD ((j + 4 * i + 8 + i / 4) % 16) 0, gSlot r.protBase.toNat, (r.dataGranules / 4 + 15 - i) / 16⟩

/-- The granules of a region's data and protection in this switch. -/
def regionSpans (r : Region) : List Span :=
  let l := stackList r.stacks_
  let data := if r.placement = plSINGLE then [singleSpan r.base.toNat r.dataGranules]
    else if r.placement = plSPREAD then spreadSpans l r.base.toNat r.dataGranules else []
  let prot :=
    if r.protection = 1 then
      if r.placement = plSINGLE then [singleSpan r.protBase.toNat r.dataGranules]
      else spreadSpans l r.protBase.toNat r.dataGranules
    else if r.protection = 2 then paritySpans r else []
  data ++ prot

def rangeSpans (s : State) : List Span :=
  (s.rgn.leaving ++ s.rgn.ranges.filter fun e => decide (e.kind = .page)).map fun e =>
    singleSpan e.granule.toNat (e.length / 65536)

/-- Every granule that is not free: data, protection, resident pages and pages in transit, partner copies,
the ring regions, and the granules never allocated again before the next Dawn. -/
def heldSpans (s : State) : List Span :=
  (s.rgn.regions.flatMap fun e => regionSpans e.2)
    ++ rangeSpans s
    ++ (s.rgn.pageJobs.map fun j => singleSpan j.granule.toNat 1)
    ++ (s.pool.copies.flatMap fun c => spreadSpans (stackList c.stacks_) c.protBase.toNat c.length)
    ++ (s.rgn.dead.map fun g => singleSpan g.toNat 1)
    ++ ((List.range 2).flatMap fun p =>
        if hpPresent s p then (stackList (ringRegion s p).stacks_).map fun k => ⟨k, stackGranules - ringSlots, ringSlots⟩
        else [])

/-- A span of free granules of one stack. -/
def spanFree (held : List Span) (x : Span) : Bool :=
  decide (x.start + x.count ≤ stackGranules) &&
    held.all fun h => decide (h.stack ≠ x.stack ∨ h.count = 0 ∨ x.count = 0 ∨ h.start + h.count ≤ x.start ∨
      x.start + x.count ≤ h.start)

/-- The slots at which a lowest free run can start: 0 and the ends of the spans held. -/
def candidates (held : List Span) : List Nat :=
  (0 :: held.map fun h => h.start + h.count).mergeSort

/-- The slot a run takes: the choice of the switch (R67) where it is free, else the lowest free. -/
def pickSlot (held : List Span) (want : Nat) (spans : Nat → List Span) : Option Nat :=
  (want :: candidates held).find? fun c => (spans c).all (spanFree held)

/-- Zero-fills granules and forgets their line metadata (R69, R415). -/
def scrubSpan (s : State) (x : Span) : State :=
  let g := mkGranule x.stack x.start
  s.onPool fun p => { p with
    mem := p.mem.zero (g * 65536) (x.count * 65536)
    lmeta := p.lmeta.filter fun c => !(decide (g * 1024 ≤ c.1) && decide (c.1 < (g + x.count) * 1024))
    rebuildWb := p.rebuildWb.filter fun w => !(decide (g * 1024 ≤ w.line) && decide (w.line < (g + x.count) * 1024)) }

def scrubSpans (s : State) (xs : List Span) : State := xs.foldl scrubSpan s

/-! ### Scratch slots (R296, R297): 128 of 64 KiB per engine -/

/-- Scratch slots of an engine that regions and programs hold. -/
def scratchHeld (s : State) (e : Nat) : List Nat :=
  (s.rgn.regions.flatMap fun x =>
    if x.2.placement = plSCRATCH ∧ gStack x.2.base.toNat = e then
      (List.range x.2.length).map (gSlot x.2.base.toNat + ·) else [])
  ++ (s.cru.progs.flatMap fun x => if x.1 / 16 = e then x.2.slots else [])

/-- 64 KiB slots of a program's private scratch (R297). -/
def slotsOfProg (p : Program) : Nat := (p.scratchBytes + 65535) / 65536

/-- Slots that the programs of an engine hold as a count only, until they are launched or have ended (R346). -/
def scratchCounted (s : State) (e : Nat) : Nat :=
  ((s.cru.progs.filter fun x =>
    decide (x.1 / 16 = e ∧ x.2.state ≠ .ended ∧ x.2.launchAt = none)).map fun x => slotsOfProg x.2).sum

/-- Free scratch slots of an engine (R333). -/
def scratchFree (s : State) (e : Nat) : Nat := 128 - (scratchHeld s e).length - scratchCounted s e

def scratchRunFree (s : State) (e n c : Nat) : Bool :=
  decide (c + n ≤ 128 ∧ n ≤ scratchFree s e) && (List.range n).all fun i => !(scratchHeld s e).contains (c + i)

def pickScratch (s : State) (e n want : Nat) : Option Nat :=
  (want :: List.range 128).find? (scratchRunFree s e n)

/-- Zero-fills scratch slots. -/
def zeroScratch (s : State) (e slot n : Nat) : State :=
  s.onPool fun p => { p with scratch := p.scratch.zero (e * 2 ^ 23 + slot * 65536) (n * 65536) }

/-! ### Quotas (R74, R78) -/

/-- Regions of a tenant tag. -/
def regionsOf (s : State) (t : Tag) : List (Nat × Region) := s.rgn.regions.filter fun e => decide (e.2.tenant = t)

/-- Pool granules of a region counted to its tenant. -/
def regionCost (r : Region) : Nat :=
  if r.placement = plSINGLE ∨ r.placement = plSPREAD then r.dataGranules + protGranules r else 0

/-- POOL_IN_USE (R78): resident pages included. -/
def poolInUse (s : State) (t : Tag) : Nat :=
  ((regionsOf s t).map fun e => regionCost e.2).sum
  + (((s.rgn.leaving ++ s.rgn.ranges).filter fun e => decide (e.kind = .page ∧ e.tenant = t)).map fun e => e.length / 65536).sum
  + ((s.rgn.pageJobs.filter fun j =>
      decide (((s.region? j.region).map Region.tenant) = some t)).length)

def regionsInUse (s : State) (t : Tag) : Nat := (regionsOf s t).length
def rangesInUse (s : State) (t : Tag) : Nat := (s.rgn.ranges.filter fun e => decide (e.tenant = t)).length
def countersInUse (s : State) (t : Tag) : Nat := (s.coh.counters.filter fun e => decide (e.2.holder = t)).length
def mcastInUse (s : State) (t : Tag) : Nat := (s.swc.mcast.filter fun e => decide (e.2.tenant = t)).length
/-- Cells of results of a group are still in this switch (R399). -/
def resultsStored (s : State) (g : Nat) : Bool :=
  let mine := fun p : Packet => p.opcode == 0x21 && p.src == s.dev.nodeId && p.region.toNat % 1024 == g
  (s.swc.stored.any fun x => mine x.pkt) || s.swc.localWait.any fun x => mine x.pkt

/-- Destroyed groups whose store is not free yet (R399). -/
def dyingGroups (s : State) : List (Nat × RGroup) := s.col.dying.filter fun e => resultsStored s e.1

def reduceInUse (s : State) (t : Tag) : Nat :=
  (s.col.groups.filter fun e => decide (e.2.tenant = t)).length
    + ((dyingGroups s).filter fun e => decide (e.2.tenant = t)).length

/-- RGN_STATUS FREE_GRANULES (R111): granules free for allocation on in-service stacks. -/
def freeGranules (s : State) : Nat :=
  let held := heldSpans s
  ((List.range 16).filter (stackUp s)).foldl
    (fun n k => n + (stackGranules - ((held.filter fun h => decide (h.stack = k)).map Span.count).sum)) 0

/-- A region is degraded (R432, R433): a granule of it, or of its protection, lies on a lost stack and it
has protection or served lines there, or its partner copy is lost. BACKED regions never are (R794). -/
def degraded (s : State) (r : Region) : Bool :=
  !r.isBacked && (r.partnerLost || (regionSpans r).any fun x => decide (x.count ≠ 0) && (s.stack x.stack).lost)

end Sys2Proof.Machine
end

