-- ==== Sys2Proof/Machine/Operands.lean ====
section
/-! DEFINITION. Operand forms: fields of command descriptors (R516) and of Ubkel packets (R184 to R190). -/

namespace Sys2Proof.Machine

/-! ### Command descriptors -/

namespace Desc

/-- The field of `n` bytes at a byte offset of a descriptor. -/
def fld (d : Desc) (off n : Nat) : Nat := bitsOf d.toNat (8 * off) (8 * n)

/-- Bit `i` of a descriptor. -/
def bit (d : Desc) (i : Nat) : Bool := d.getLsbD i

def opcode (d : Desc) : Nat := fld d 0 1
def staged (d : Desc) : Bool := bit d 8
def notify (d : Desc) : Bool := bit d 9
def tag (d : Desc) : Nat := fld d 4 4
def activate (d : Desc) : Nat := fld d 8 8

/-- The descriptor's 64 bytes. -/
def bytes (d : Desc) : List Byte := leBytes 64 d.toNat

def ofBytes (bs : List Byte) : Desc := BitVec.ofNat 512 (leNat bs)

/-- Whether every body bit (bytes 16 to 63) outside the listed fields is zero. A field is a first bit
and a number of bits. -/
def clearOutside (d : Desc) (fields : List (Nat × Nat)) : Bool :=
  fields.foldl (fun v f => if v.testBit f.1 ∨ bitsOf v f.1 f.2 ≠ 0 then v - (bitsOf v f.1 f.2) <<< f.1 else v)
    ((d.toNat >>> 128) <<< 128) == 0

/-- Fields given by byte offset and size. -/
def byteFields (l : List (Nat × Nat)) : List (Nat × Nat) := l.map fun f => (8 * f.1, 8 * f.2)

end Desc

/-! ### Opcodes of packets (R190) -/

def opREAD : Byte := 0x01
def opREADOWN : Byte := 0x02
def opCOUNTERREAD : Byte := 0x03
def opWRITE : Byte := 0x08
def opSTORE : Byte := 0x09
def opWRITEBACK : Byte := 0x0A
def opATOMIC : Byte := 0x10
def opSNOOPINV : Byte := 0x18
def opSNOOPRECALL : Byte := 0x19
def opCONTRIB : Byte := 0x20
def opRESULT : Byte := 0x21
def opMGMT : Byte := 0x28
def opTIMEFAULT : Byte := 0x38
def opACK : Byte := 0x40
def opNACK : Byte := 0x41
def opHOLD : Byte := 0x42
def opREADREPLY : Byte := 0x48
def opATOMICREPLY : Byte := 0x49
def opCOUNTERREPLY : Byte := 0x4A
def opSNOOPRESP : Byte := 0x4B

/-- The VC of an opcode (R190). A NACK travels on VC2 for writes and on VC3 otherwise. -/
def vcOf (op : Byte) : Option (Fin 8) :=
  if op = opWRITE ∨ op = opWRITEBACK then some 0
  else if op = opREAD ∨ op = opREADOWN ∨ op = opCOUNTERREAD ∨ op = opSTORE ∨ op = opATOMIC
    ∨ op = opSNOOPINV ∨ op = opSNOOPRECALL then some 1
  else if op = opACK ∨ op = opHOLD then some 2
  else if op = opREADREPLY ∨ op = opATOMICREPLY ∨ op = opCOUNTERREPLY ∨ op = opSNOOPRESP ∨ op = opNACK then some 3
  else if op = opCONTRIB then some 4
  else if op = opRESULT then some 5
  else if op = opMGMT then some 6
  else if op = opTIMEFAULT then some 7
  else none

/-- A write, for the window table of R205 and the VC of its NACK: its answer is an ACK. -/
def isWriteOp (op : Byte) : Bool :=
  op == opWRITE || op == opSTORE || op == opWRITEBACK || op == opCONTRIB || op == opRESULT || op == opMGMT

/-- A write that belongs to a stream epoch (R216). -/
def isStreamWrite (op : Byte) : Bool := op == opWRITE || op == opSTORE || op == opWRITEBACK

def isResponseOp (op : Byte) : Bool := op.getLsbD 6

/-! ### Fields of packets -/

end Sys2Proof.Machine

namespace Sys2Proof.Packet

open Sys2Proof.Machine

def close (p : Packet) : Bool := p.flags.getLsbD 0
def ce (p : Packet) : Bool := p.flags.getLsbD 1
def retx (p : Packet) : Bool := p.flags.getLsbD 2
def cache (p : Packet) : Bool := p.flags.getLsbD 3
def lenBytes (p : Packet) : Nat := bitsOf p.len.toNat 0 12
def subop (p : Packet) : Nat := bitsOf p.len.toNat 12 4
def key (p : Packet) : BitVec 32 := p.w20
def off (p : Packet) : Nat := p.offset.toNat
def status (p : Packet) : Status := p.w20.setWidth 8
def ceEcho (p : Packet) : Bool := p.w20.getLsbD 8
def cacheable (p : Packet) : Bool := p.w20.getLsbD 9
def ownedBit (p : Packet) : Bool := p.w20.getLsbD 10
def counterValid (p : Packet) : Bool := p.tag.getLsbD 31
def counter (p : Packet) : Nat := bitsOf p.tag.toNat 0 16
def scount (p : Packet) : Nat := bitsOf p.tag.toNat 16 12
def epoch (p : Packet) : Nat := bitsOf p.tag.toNat 28 2
/-- MSG of a MGMT packet (R192). -/
def msg (p : Packet) : Nat := (p.payload.headD 0).toNat

/-- Bytes of the header (R184 to R186), with FLAGS as given. -/
def header (p : Packet) (flags : Byte) : List Byte :=
  [p.opcode, flags, p.stream, p.srcInc, p.dstInc] ++ leBytes 3 p.seq.toNat ++ leBytes 2 p.dst.toNat
    ++ leBytes 2 p.src.toNat ++ leBytes 2 p.tenant.toNat ++ leBytes 2 p.len.toNat ++ leBytes 4 p.time.toNat
    ++ leBytes 4 p.w20.toNat ++ leBytes 2 p.region.toNat ++ leBytes 6 p.offset.toNat

/-- E2E_CRC (R189): header, payload and TAG, with bit 1 of FLAGS taken as 0. -/
def crcOf (p : Packet) : BitVec 32 :=
  crc32c (p.header (p.flags &&& 0xFD) ++ p.payload ++ leBytes 4 p.tag.toNat)

def crcOk (p : Packet) : Bool := p.crc == p.crcOf

/-- The source computes E2E_CRC (R189). -/
def sealed (p : Packet) : Packet := { p with crc := p.crcOf }

/-- The packet's bytes (R181). -/
def bytes (p : Packet) : List Byte :=
  p.header p.flags ++ p.payload ++ leBytes 4 p.tag.toNat ++ leBytes 4 p.crc.toNat

/-- A packet from its bytes; none when they are too few or too many (R181). -/
def ofBytes (bs : List Byte) : Option Packet :=
  if bs.length < 40 ∨ bs.length > 2088 then none
  else
    let n := bs.length
    some {
      opcode := bs.getD 0 0, flags := bs.getD 1 0, stream := bs.getD 2 0
      srcInc := bs.getD 3 0, dstInc := bs.getD 4 0
      seq := BitVec.ofNat 24 (fieldAt bs 5 3), dst := BitVec.ofNat 16 (fieldAt bs 8 2)
      src := BitVec.ofNat 16 (fieldAt bs 10 2), tenant := BitVec.ofNat 16 (fieldAt bs 12 2)
      len := BitVec.ofNat 16 (fieldAt bs 14 2), time := BitVec.ofNat 32 (fieldAt bs 16 4)
      w20 := BitVec.ofNat 32 (fieldAt bs 20 4), region := BitVec.ofNat 16 (fieldAt bs 24 2)
      offset := BitVec.ofNat 48 (fieldAt bs 26 6), payload := (bs.drop 32).take (n - 40)
      tag := BitVec.ofNat 32 (fieldAt bs (n - 8) 4), crc := BitVec.ofNat 32 (fieldAt bs (n - 4) 4) }

/-- Cells and flits of a packet (R182, R230). -/
def cells (p : Packet) : Nat := (40 + p.payload.length + 239) / 240

/-- Pieces of 240 bytes, the last filled up with zeros. -/
def cut240 : Nat → List Byte → List (List Byte)
  | 0, _ => []
  | n + 1, bs => padTo 240 (bs.take 240) :: cut240 n (bs.drop 240)

/-- The DATA fields of the packet's flits (R182). -/
def flitData (p : Packet) : List (List Byte) := cut240 p.cells p.bytes

/-- The VC of a packet, its NACK taken as one of a request that is no write. -/
def vc (p : Packet) : Fin 8 := (vcOf p.opcode).getD 0

/-- The VC of an answer to a request of an opcode (R190). -/
def vcFor (p : Packet) (req : Byte) : Fin 8 := if p.opcode = opNACK ∧ isWriteOp req then 2 else p.vc

end Sys2Proof.Packet

namespace Sys2Proof.Machine

/-- P is at most 2,048, and only an opcode that the table lists with a payload carries one (R181, R190). -/
def payloadLegal (p : Packet) : Bool :=
  decide (p.payload.length ≤ 2048) && (p.payload.isEmpty ||
    [opWRITE, opSTORE, opWRITEBACK, opATOMIC, opCONTRIB, opRESULT, opMGMT, opTIMEFAULT, opREADREPLY, opATOMICREPLY,
      opCOUNTERREPLY, opSNOOPRESP].contains p.opcode)

/-- The header of a die-to-die transaction (R545). -/
def d2dHeader (type : Byte) (tag len addr : Nat) : List Byte :=
  [type, 0] ++ leBytes 2 tag ++ leBytes 2 len ++ zeros 2 ++ leBytes 8 addr

/-- The transactions that the ZE-208 sends (R546). -/
def Out.mrd (tag addr len : Nat) : Out := .d2d (d2dHeader 0x01 tag len addr) []
def Out.mwr (tag addr : Nat) (data : List Byte) : Out := .d2d (d2dHeader 0x02 tag data.length addr) data
def Out.intr (vector : Nat) : Out := .d2d (d2dHeader 0x03 0 0 vector) []
def Out.winCpl (offset : Nat) (tag : BitVec 16) (value : BitVec 64) : Out :=
  .d2d (d2dHeader 0x04 tag.toNat 8 offset) (leBytes 8 value.toNat)

/-- A packet that leaves the ZE-208 by a port, on a VC, cut into flits (R182, R190). -/
def epFlits (port : Nat) (vc : Fin 8) (p : Packet) : Out := .ep port vc p.flitData p

/-- TIME extended to 64 bits (R188): the stamp closest to `now` whose low 32 bits are the field. -/
def extendTime (now : Time) (t : BitVec 32) : Int :=
  let d : Nat := (now + 2 ^ 31 + 2 ^ 32 - t.toNat) % 2 ^ 32
  Int.ofNat now + 2 ^ 31 - Int.ofNat d

/-- LEN of a MGMT packet is the one that its message has (R193 to R197, R200, R425, R585). -/
def mgmtLenOk (p : Packet) : Bool :=
  let n := p.lenBytes
  let m := p.msg
  if m = 0x90 ∨ m = 0x92 then
    let c := fieldAt p.payload 1 1
    decide (1 ≤ c ∧ c ≤ 29 ∧ n = 16 + 68 * c)
  else if m = 0xB1 ∨ m = 0xB2 then decide (n = 80)
  else if m = 0xA0 ∨ m = 0xA2 then
    let b := fieldAt p.payload 2 2
    decide (8 ≤ b ∧ b ≤ 1984 ∧ b % 8 = 0 ∧ n = 16 + b)
  else if m = 0xB7 then decide (n = 16 + fieldAt p.payload 2 2 ∧ n ≤ 2000)
  else decide (n = 16)

/-- The undefined, or the malformed forms of R200. `ok` says whether a MSG value is defined. -/
def malformed (p : Packet) (msgOk : Nat → Bool) : Bool :=
  let n := p.lenBytes
  let pay := p.payload.length
  let plain := decide (p.subop ≠ 0)
  if p.opcode = opREAD then plain || decide (n < 1 ∨ n > 2048 ∨ pay ≠ 0)
  else if p.opcode = opREADOWN then plain || decide (n ≠ 64 ∨ pay ≠ 0)
  else if p.opcode = opCOUNTERREAD then plain || decide (n ≠ 0 ∨ pay ≠ 0)
  else if p.opcode = opWRITE then plain || decide (n < 1 ∨ n > 2048 ∨ pay ≠ n)
  else if p.opcode = opSTORE then plain || decide (n < 1 ∨ n > 2048 ∨ pay ≠ n) || p.close
  else if p.opcode = opWRITEBACK then plain || decide (n ≠ 72 ∨ pay ≠ 72 ∨ p.off % 64 ≠ 0) || p.close
  else if p.opcode = opATOMIC then
    decide (p.subop > 9 ∨ pay ≠ n) ||
      (if p.subop = 5 then decide ((n ≠ 8 ∧ n ≠ 16) ∨ p.off % (n / 2) ≠ 0)
       else decide ((n ≠ 4 ∧ n ≠ 8) ∨ p.off % n ≠ 0))
  else if p.opcode = opSNOOPINV ∨ p.opcode = opSNOOPRECALL then plain || decide (n ≠ 0 ∨ pay ≠ 0)
  else if p.opcode = opCONTRIB ∨ p.opcode = opRESULT then plain || decide (pay ≠ n)
  else if p.opcode = opMGMT then plain || decide (pay ≠ n) || !msgOk p.msg || !mgmtLenOk p
  else true

/-- MSG values of R192. -/
def mgmtMsgs : List Nat :=
  [0x90, 0x91, 0x92, 0xA0, 0xA1, 0xA2, 0xB0, 0xB1, 0xB2, 0xB3, 0xB4, 0xB5, 0xB6, 0xB7]

/-- MGMT messages that answer another: they are responses (R192). -/
def isMgmtAnswer (m : Nat) : Bool := m == 0x92 || m == 0xA2 || m == 0xB4 || m == 0xB7

/-- The value an atomic writes (R199); `n` is the operand size in bytes. -/
def atomicNew (subop n : Nat) (old : Nat) (payload : List Byte) : Nat :=
  let m := 2 ^ (8 * n)
  let x := fieldAt payload 0 n
  let sg := fun v : Nat => if v ≥ m / 2 then (v : Int) - m else (v : Int)
  match subop with
  | 0 => (old + x) % m
  | 1 => old &&& x
  | 2 => old ||| x
  | 3 => old ^^^ x
  | 4 => x
  | 5 => if old = x then fieldAt payload n n else old
  | 6 => if sg x < sg old then x else old
  | 7 => if sg x > sg old then x else old
  | 8 => Nat.min old x
  | _ => Nat.max old x

/-- Operand size of an ATOMIC (R199). -/
def atomicSize (p : Packet) : Nat := if p.subop = 5 then p.lenBytes / 2 else p.lenBytes

/-- An answer to a request (R186, R202): it echoes SEQ, STREAM and TENANT, and goes back to the source. DESIGN CHOICE
(log entry 170): TENANT is echoed with its reserved bits 14:12 as they came. -/
def answer (now : Time) (req : Packet) (op : Byte) (st : Status) (owned cacheable : Bool)
    (payload : List Byte) : Packet :=
  Packet.sealed {
    opcode := op, flags := 0, stream := req.stream, srcInc := req.dstInc, dstInc := req.srcInc
    seq := req.seq, dst := req.src, src := req.dst, tenant := req.tenant
    len := BitVec.ofNat 16 payload.length, time := BitVec.ofNat 32 now
    w20 := BitVec.ofNat 32 (st.toNat + 256 * (b2n req.ce + 2 * b2n cacheable + 4 * b2n owned))
    region := 0, offset := 0, payload := payload, tag := 0, crc := 0 }

/-- An answer kept in the reply cache goes out again (R205, R213): what is kept is the status and the old value, or the
payload of a MGMT answer; CE_ECHO and TIME are those of the copy that it answers now (R184, R224). -/
def reanswer (now : Time) (req r : Packet) : Packet :=
  if r.opcode = opMGMT then Packet.sealed { r with time := BitVec.ofNat 32 now }
  else answer now req r.opcode r.status r.ownedBit r.cacheable r.payload

end Sys2Proof.Machine
end

