-- ==== Sys2Proof/Machine/Trace.lean ====
section
/-! DEFINITION. The trace stores (R605 to R607). -/

namespace Sys2Proof.Machine

/-- Entries of a quadrant's store (R605). -/
def traceEntries : Nat := 65536

def traceOf (s : State) (q : Nat) : TraceSt := s.flt.trace.getD q default
def onTrace (s : State) (q : Nat) (f : TraceSt → TraceSt) : State :=
  s.onFlt fun c => { c with trace := c.trace.set q (f (traceOf s q)) }

/-- Whether an event of a class and a tenant is captured now. -/
def traceOn (s : State) (cls : Nat) (tag : Option Tag) : Bool :=
  s.flt.tOn && s.flt.tMask.getLsbD cls && (s.flt.tFilter == 0xFFFF || tag.isNone || tag == some s.flt.tFilter)

/-- A trace entry (R606). -/
def traceEntry (s : State) (t : TraceSt) (q unit : Nat) (kind : Byte) (data : List Byte) : List Byte :=
  leBytes 8 s.now ++ leBytes 2 s.dev.nodeId.toNat ++ [BitVec.ofNat 8 unit, kind] ++ leBytes 2 t.count
    ++ [BitVec.ofNat 8 (b2n (s.flt.tn.lock == .unlocked) + 2 * b2n t.pendLoss), BitVec.ofNat 8 q] ++ padTo 16 data

/-- Puts an entry into a quadrant's store: in WRAP mode over the oldest, else it is lost once the store is full. -/
def traceAdd (s : State) (cls : Nat) (tag : Option Tag) (q unit : Nat) (kind : Byte) (data : List Byte) : State :=
  if !traceOn s cls tag || !quadUp s q then s
  else
    let t := traceOf s q
    let e := traceEntry s t q unit kind data
    let t1 := { t with count := (t.count + 1) % 65536 }
    if t.entries.length < traceEntries then
      onTrace s q fun _ => { t1 with entries := e :: t.entries, pendLoss := false }
    else if s.flt.tWrap then
      onTrace s q fun _ => { t1 with entries := e :: t.entries.dropLast, pendLoss := false }
    else onTrace s q fun _ => { t1 with lost := Nat.min 65535 (t.lost + 1), pendLoss := true }

/-- The quadrant that stores the entries of the fault protocol and the time base: the manual does not say. -/
def traceQuad (unit : Nat) : Nat := Config.traceQuad unit % 4

/-- KIND 0x01: one packet in 2^SAMPLE of a quadrant, at ingress or egress of a port. Which ones is free. -/
def tracePacket (s : State) (port : Nat) (p : Packet) : State :=
  let q := port / 16
  if !traceOn s 0 (some (tagOf p.tenant)) then s
  else
    let n := s.flt.tSample
    let s := onTrace s q fun t => { t with packets := t.packets + 1 }
    if ((traceOf s q).packets + Config.tracePhase q) % 2 ^ n ≠ 0 then s
    else traceAdd s 0 (some (tagOf p.tenant)) q port 0x01
      ([p.opcode, p.flags] ++ leBytes 3 p.seq.toNat ++ [p.stream] ++ leBytes 2 p.dst.toNat ++ leBytes 2 p.src.toNat
        ++ leBytes 2 p.tenant.toNat ++ leBytes 4 p.time.toNat)

/-- KIND 0x02: a ring command taken (STATUS 0) or completed. -/
def traceCommand (s : State) (tag : Tag) (port ring slot : Nat) (d : Desc) (st : Byte) : State :=
  traceAdd s 1 (some tag) (if port = 0 then 0 else 3) (84 + port) 0x02
    ([BitVec.ofNat 8 (Desc.opcode d), st, BitVec.ofNat 8 ring, BitVec.ofNat 8 port] ++ leBytes 4 (Desc.tag d)
      ++ leBytes 4 slot)

/-- KIND 0x03: a link state change. -/
def traceLink (s : State) (port : Nat) (state cause : BitVec 4) : State :=
  traceAdd s 2 none (port / 16) port 0x03 [BitVec.ofNat 8 port, state.setWidth 8, cause.setWidth 8]

/-- KIND 0x04: a TIMEFAULT message sent or received. The codes of the direction and the last 8 bytes are not
given: they are free. -/
def traceTimefault (s : State) (port : Nat) (msg : Byte) (sent : Bool) (subject term : Nat) : State :=
  let s1 := traceAdd s 3 none (port / 16) 100 0x04
    ([msg, Config.traceDir sent] ++ leBytes 2 subject ++ leBytes 4 term ++ leBytes 8 s.freeWord.toNat)
  if traceOn s 3 none then s1.stepFree else s1

/-- KIND 0x05: a lock, a parent change or HOLDOVER. -/
def traceTime (s : State) : State :=
  let n := s.flt.tn
  traceAdd s 4 none (traceQuad 101) 101 0x05
    ([BitVec.ofNat 8 (n.parent.getD 255), BitVec.ofNat 8 n.depth] ++ leBytes 2 (n.offset % 65536).toNat)

/-- KIND 0x06: Quench entered or left. UNIT of the governor is not given: it is free. -/
def traceQuench (s : State) (duty gather : Nat) : State :=
  traceAdd s 5 none (traceQuad Config.traceQuenchUnit) Config.traceQuenchUnit 0x06 ([BitVec.ofNat 8 duty] ++ leBytes 2 gather)

/-- KIND 0x07: a program is loaded, starts or ends. -/
def traceProgram (s : State) (prog engine state : Nat) (st : Byte) (tag : Tag) : State :=
  traceAdd s 6 (some tag) (engine / 4) (64 + engine) 0x07
    ([BitVec.ofNat 8 prog, BitVec.ofNat 8 state, st] ++ leBytes 2 tag.toNat)

/-- KIND 0x08: a memory event, from its record. -/
def traceMemory (s : State) (tag : Tag) (r : List Byte) : State :=
  let stack := (r.getD 4 0).toNat
  traceAdd s 7 (some tag) (stack / 4 % 4) (Config.traceStackUnit stack) 0x08
    ([r.getD 0 0, r.getD 5 0, r.getD 4 0] ++ (r.drop 6).take 2 ++ (r.drop 16).take 6)

end Sys2Proof.Machine
end

