-- ==== Sys2Proof/Machine/SwCore.lean ====
section
/-! DEFINITION. The switch core's shared operations (05_switch_core.md): cells and accounts, XOFF, egress
queues, routing, multicast fan-out and the packets the switch itself originates. -/

namespace Sys2Proof.Machine

/-! ### Limits (R232, R236, R743) -/

/-- The defaults of R232 and R236. -/
def Limits.preset : Limits where
  gFabric := [512, 512, 512, 512, 384, 384, 160, 160]
  gLocal := [1024, 1024, 2048, 2048, 512, 1024, 256, 256]
  m := 16384
  cap := 4096
  mark := 64
  weights := [2, 2, 3, 3, 3, 3]

def limitsOf (s : State) (q : Nat) : Limits := s.swc.limits.getD q Limits.preset

/-- Cells of a quadrant's buffer (R230), shared headroom H and skid (R232). -/
def quadCells : Nat := 196608
def headroomH : Nat := 16384
def skid : Nat := 128

/-! ### Accounts (R231, R232) -/

/-- Cells held by one account: a fabric port, or the local account of the quadrant. -/
def accountCells (s : State) (q : Fin 4) (a : Option (Fin 64)) (vc : Fin 8) : Nat :=
  ((s.swc.stored.filter fun x => decide (x.quad = q ∧ x.acct = a ∧ x.vc = vc)).map Stored.cells).sum

def guarantee (s : State) (q : Fin 4) (a : Option (Fin 64)) (vc : Fin 8) : Nat :=
  let l := limitsOf s q
  match a with
  | some _ => l.gFabric.getD vc 0
  | none => l.gLocal.getD vc 0

/-- The accounts of a quadrant: its sixteen ports and the local one. -/
def accounts (q : Fin 4) : List (Option (Fin 64)) :=
  none :: (List.range 16).map fun i => some (Fin.ofNat 64 (16 * q.val + i))

def vcs : List (Fin 8) := [0, 1, 2, 3, 4, 5, 6, 7]

/-- FREE of SWC_QBUF (R276). -/
def cellsFree (s : State) (q : Fin 4) : Nat :=
  if quadUp s q then quadCells - ((s.swc.stored.filter fun x => decide (x.quad = q)).map Stored.cells).sum else 0

/-- F of R232 and SHARED_FREE of SWC_QBUF: shared cells not taken. -/
def sharedFree (s : State) (q : Fin 4) : Nat :=
  let l := limitsOf s q
  let excess := ((accounts q).map fun a =>
    (vcs.map fun v => accountCells s q a v - guarantee s q a v).sum).sum
  if quadUp s q then quadCells - (16 * l.gFabric.sum + l.gLocal.sum) - excess else 0

def fcOf (s : State) (p : Nat) : PortFc := s.swc.fc.getD p default
def onFc (s : State) (p : Nat) (f : PortFc → PortFc) : State :=
  s.onSwc fun c => { c with fc := c.fc.set p (f (fcOf s p)) }

/-- XOFF of a fabric account after a change of its cells or of F (R240, R241). -/
def xoffNext (g m u f : Nat) (was : Bool) : Bool :=
  if was then !(decide (u + 192 ≤ m) && (decide (u + 192 ≤ g) || decide (f ≥ headroomH + 4096)))
  else decide (u + skid ≥ m) || (decide (u + skid ≥ g) && decide (f < headroomH))

/-- Sets XOFF_TX of one account and counts an assertion (R240, R278). -/
def refreshXoff1 (q : Fin 4) (f : Nat) (s : State) (p : Fin 64) (vc : Fin 8) : State :=
  let was := (fcOf s p).xoffTx.getLsbD vc
  let now := xoffNext (guarantee s q (some p) vc) (limitsOf s q).m (accountCells s q (some p) vc) f was
  if was = now then s
  else onFc s p fun c => { c with
    xoffTx := c.xoffTx ^^^ BitVec.ofNat 8 (2 ^ vc.val)
    xoffSent := if now then bump c.xoffSent else c.xoffSent }

/-- Sets XOFF_TX of every account of a quadrant. -/
def refreshXoff (s : State) (q : Fin 4) : State :=
  let f := sharedFree s q
  ((List.range 16).map fun i => Fin.ofNat 64 (16 * q.val + i)).foldl
    (fun s p => vcs.foldl (fun s v => refreshXoff1 q f s p v) s) s

/-- Stores a packet once (R19, R231) and follows LOW (R277). Its id is `s.swc.nextId`. -/
def storePacket (s : State) (pkt : Packet) (q : Fin 4) (a : Option (Fin 64)) (vc : Fin 8) (refs : Nat) : State :=
  let s := s.onSwc fun c => { c with
    stored := c.stored ++ [⟨c.nextId, pkt, q, a, vc, pkt.cells, refs⟩], nextId := c.nextId + 1 }
  let s := s.onSwc fun c => { c with low := c.low.set q (Nat.min (c.low.getD q quadCells) (cellsFree s q)) }
  refreshXoff s q

/-- Releases one reference of a stored packet; its cells return when the count reaches 0 (R258). -/
def releasePacket (s : State) (id : Nat) : State :=
  match s.swc.stored.find? fun x => x.id == id with
  | none => s
  | some x =>
    if x.refs ≤ 1 then
      refreshXoff (s.onSwc fun c => { c with stored := c.stored.filter fun y => y.id != id }) x.quad
    else s.onSwc fun c => { c with
      stored := c.stored.map fun y => if y.id = id then { y with refs := y.refs - 1 } else y }

/-! ### Egress queues (R238, R245) -/

def qkey (p : Fin 64) (vc : Fin 8) : Nat := 8 * p.val + vc.val
def egressOf (s : State) (p : Fin 64) (vc : Fin 8) : List EgEntry := s.swc.egress.getD (qkey p vc) []
def egressCells (s : State) (p : Fin 64) (vc : Fin 8) : Nat := ((egressOf s p vc).map EgEntry.total).sum
def quadOf (p : Fin 64) : Fin 4 := Fin.ofNat 4 (p.val / 16)

/-- The lowest quadrant in service, whose local account pays for the switch's own management messages (R22, R231).
DESIGN CHOICE (log entry 169). -/
def svcQuad (s : State) : Fin 4 := Fin.ofNat 4 (((List.range 4).find? (quadUp s)).getD 0)

/-- The quadrant whose local account pays for the answers to a request: that of the port it arrived on, while that
quadrant is in service (R22, R231). DESIGN CHOICE (log entry 169). -/
def answerQuad (s : State) (p : Fin 64) : Fin 4 := if quadUp s (quadOf p) then quadOf p else svcQuad s

/-- Appends to an egress queue, setting CE above the marking threshold on VC0 to VC3 (R245). -/
def enqueueNow (s : State) (id : Nat) (pkt : Packet) (p : Fin 64) (vc : Fin 8) : State :=
  let mark := decide (vc.val ≤ 3) && decide (egressCells s p vc > (limitsOf s (quadOf p)).mark)
  let pkt := if mark then { pkt with flags := pkt.flags ||| 2 } else pkt
  let s := if mark then onFc s p fun c => { c with ceMarks := bump c.ceMarks } else s
  s.onSwc fun c => { c with
    egress := c.egress.set (qkey p vc) (egressOf s p vc ++ [⟨id, pkt, pkt.cells, pkt.cells⟩]) }

/-- Enqueues, or leaves the packet in a virtual output queue while the egress queue is at its cap (R238). -/
def enqueue (s : State) (id : Nat) (pkt : Packet) (p : Fin 64) (vc : Fin 8) (a : Option (Fin 64)) : State :=
  let waits := s.swc.voq.any fun v => decide (v.port = p ∧ v.vc = vc ∧ v.acct = a)
  if waits ∨ egressCells s p vc ≥ (limitsOf s (quadOf p)).cap then
    s.onSwc fun c => { c with voq := c.voq ++ [⟨id, p, vc, a⟩] }
  else enqueueNow s id pkt p vc

/-! ### Ports -/

def linkOf (s : State) (p : Nat) : LinkSt := s.lnk.ports.getD p default
def onLink (s : State) (p : Nat) (f : LinkSt → LinkSt) : State :=
  s.onLnk fun l => { l with ports := l.ports.set p (f (linkOf s p)) }

/-- Codes of STATE (R490). -/
def lnkDOWN : BitVec 4 := 0
def lnkTRAINING : BitVec 4 := 1
def lnkALIGNING : BitVec 4 := 2
def lnkIDENTIFY : BitVec 4 := 3
def lnkUP : BitVec 4 := 4
def lnkOUT : BitVec 4 := 5

/-- A port is in service: its link is UP and its quadrant is in service (R21, R490). -/
def portUp (s : State) (p : Nat) : Bool := decide (p < 64) && quadUp s (p / 16) && (linkOf s p).state == lnkUP

def planOf (s : State) (p : Nat) : PortPlan := s.cfg.plan.getD p { (default : PortPlan) with kind := .unused }
def kindOf (s : State) (p : Nat) : PortKind := (planOf s p).kind

/-- The port of a down-port slot, of a kind. -/
def portWith (s : State) (k : PortKind) (i : Nat) : Option (Fin 64) :=
  (List.range 64).findSome? fun p =>
    if (kindOf s p) = k ∧ (planOf s p).index = i then some (Fin.ofNat 64 p) else none

def slotPort (s : State) (slot : Nat) : Option (Fin 64) := portWith s .down slot

/-! ### Routing (R246 to R250) -/

/-- The hop-order rule (R250): whether a packet that came in as given may leave by a port. -/
def hopOk (s : State) (ingress : Option (Fin 64)) (e : Nat) : Bool :=
  let k := kindOf s e
  if k = .spare ∨ k = .unused then false
  else match ingress with
  | none => true
  | some i =>
    match kindOf s i with
    | .down => true
    | .global => decide (k = .peer ∨ k = .down)
    | .peer => decide (k = .down) || decide (swOf s.dev.nodeId < (planOf s i).index)
    | _ => false

inductive RouteRes
  | drop
  | here
  | mcast
  | port (p : Fin 64)
  | turn (p : Fin 64)          -- relayed down (R247): the turn passes on
  | alt (p : Fin 64) (k : Nat) -- EQUAL in deterministic mode: the alternation passes on
  deriving DecidableEq, Repr, Inhabited

def choice (b : Byte) : Option (Fin 64) := if b.getLsbD 7 then some (Fin.ofNat 64 (b.toNat % 64)) else none

/-- The choice that a route entry gives (R249). -/
def entryRoute (s : State) (k : Nat) (vc : Fin 8) (ingress : Option (Fin 64)) : RouteRes :=
  let e := s.swc.routes.getD k default
  let ok := fun b : Byte => match choice b with
    | some p => if portUp s p && hopOk s ingress p then some p else none
    | none => none
  match ok e.primary, ok e.alt1, ok e.alt2 with
  | some p, some a, _ =>
    if e.equal then
      if s.swc.detMode then .alt (if s.swc.altTurn.getD k false then a else p) k
      else if egressCells s a vc < egressCells s p vc then .port a else .port p
    else .port p
  | some p, none, _ => .port p
  | none, some a, _ => .port a
  | none, none, some b => .port b
  | none, none, none => .drop

def rackEntry (r : Nat) : Nat := r
def switchEntry (k : Nat) : Nat := 16 + k
def slotEntry (l : Nat) : Nat := 32 + l

/-- The DOWN ports in service, from a turn on. -/
def relayPort (s : State) : Option (Fin 64) :=
  ((List.range 64).map fun i => (s.swc.relayTurn + i) % 64).findSome? fun p =>
    if portUp s p ∧ kindOf s p = .down then some (Fin.ofNat 64 p) else none

/-- The node that steps 3 to 6 of R246 route by: the one that serves a remapped coordinate, none for a coordinate
that is lost or drained (R625). -/
def physicalOf (s : State) (d : Node) : Option Node :=
  match s.flt.remap.get? d.toNat with
  | some e => if e.st = 1 then some e.physical else none
  | none => some d

/-- Steps 3 to 6 of R246. -/
def routeBy (s : State) (pkt : Packet) (d : Node) (vc : Fin 8) (ingress : Option (Fin 64)) : RouteRes :=
  let me := s.dev.nodeId
  if rackOf d ≠ rackOf me then entryRoute s (rackEntry (rackOf d)) vc ingress
  else if isSwitch d then
    if planeOf d ≠ planeOf me then
      if !isSwitch pkt.src then .drop
      else if swOf d ≠ swOf me then entryRoute s (switchEntry (swOf d)) vc ingress
      else match relayPort s with
        | some p => if hopOk s ingress p then .turn p else .drop
        | none => .drop
    else entryRoute s (switchEntry (swOf d)) vc ingress
  else if epSwOf d ≠ swOf me then entryRoute s (switchEntry (epSwOf d)) vc ingress
  else entryRoute s (slotEntry (slotOf d)) vc ingress

/-- The egress of a packet (R246, R247, R625). -/
def routeOf (s : State) (pkt : Packet) (vc : Fin 8) (ingress : Option (Fin 64)) : RouteRes :=
  if bitsOf pkt.dst.toNat 14 2 = 3 then .mcast
  else if !nodeLegal pkt.dst then .drop
  else if pkt.dst = s.dev.nodeId then .here
  else match physicalOf s pkt.dst with
    | some d => routeBy s pkt d vc ingress
    | none => .drop

/-- What the choice itself changes: the relay turn (R247) or the alternation of an entry (R249). -/
def routeTaken (s : State) (r : RouteRes) : State :=
  match r with
  | .turn p => s.onSwc fun c => { c with relayTurn := (p.val + 1) % 64 }
  | .alt _ k => s.onSwc fun c => { c with altTurn := c.altTurn.set k (!(c.altTurn.getD k false)) }
  | _ => s

def routePort : RouteRes → Option (Fin 64)
  | .port p => some p
  | .turn p => some p
  | .alt p _ => some p
  | _ => none

def countNoroute (s : State) : State := s.onSwc fun c => { c with noroute := bump c.noroute }
def countMcast (s : State) : State := s.onSwc fun c => { c with mcastDrop := bump c.mcastDrop }

/-! ### Multicast (R254 to R258) -/

/-- The multicast hop rule (R257). -/
def mcastHop (s : State) (ingress : Option (Fin 64)) (e : Nat) : Bool :=
  let k := kindOf s e
  match ingress with
  | none => decide (k = .down ∨ k = .peer ∨ k = .global)
  | some i =>
    match kindOf s i with
    | .global => decide (k = .peer ∨ k = .down)
    | .peer => decide (k = .down)
    | _ => false

/-- Whether a multicast packet is forwarded at all (R254, R256, R257). -/
def mcastOk (s : State) (pkt : Packet) (ingress : Option (Fin 64)) : Bool :=
  let r := s.swc.mcast.getD (pkt.dst.toNat % 4096) default
  decide (bitsOf pkt.dst.toNat 12 2 = 0) && s.swc.mcast.has (pkt.dst.toNat % 4096) && decide (r.tenant = tagOf pkt.tenant)
  && (pkt.opcode == opRESULT || (pkt.opcode == opMGMT && isSwitch pkt.src))
  && (match ingress with
      | some i => decide (kindOf s i ≠ .down)
      | none => true)

/-- Stores a multicast packet once and enqueues a pointer on each remaining port (R256, R258). -/
def mcastForward (s : State) (pkt : Packet) (q : Fin 4) (a : Option (Fin 64)) (vc : Fin 8) : State :=
  if !mcastOk s pkt a then countMcast s
  else
    let r := s.swc.mcast.getD (pkt.dst.toNat % 4096) default
    let allowed := (bitList r.ports.toNat 64).filter fun p => decide (some (Fin.ofNat 64 p) ≠ a) && mcastHop s a p
    let live := allowed.filter fun p => portUp s p
    let s := s.onSwc fun c => { c with withheld := bump c.withheld (allowed.length - live.length) }
    let refs := live.length + b2n r.local_
    if refs = 0 then s
    else
      let id := s.swc.nextId
      let s := storePacket s pkt q a vc refs
      let s := live.foldl (fun s p => enqueue s id pkt (Fin.ofNat 64 p) vc a) s
      if r.local_ then s.onSwc fun c => { c with delivered := c.delivered ++ [(id, pkt)] } else s

/-! ### Packets the switch originates (R231, R234) -/

/-- A local originator has cells in a quadrant in service (R22): a guaranteed one free, or F at H or more (R234). -/
def localRoom (s : State) (q : Fin 4) (vc : Fin 8) (pkt : Packet) : Bool :=
  quadUp s q &&
    (decide (accountCells s q none vc + pkt.cells ≤ guarantee s q none vc) || decide (sharedFree s q ≥ headroomH))

/-- Sends a packet into the core, on a given port or by its route. -/
def originateNow (s : State) (w : LocalWait) : State :=
  match w.port with
  | some p =>
    let id := s.swc.nextId
    enqueue (storePacket s w.pkt w.quad none w.vc 1) id w.pkt p w.vc none
  | none =>
    let r := routeOf s w.pkt w.vc none
    match r with
    | .mcast => mcastForward s w.pkt w.quad none w.vc
    | .here =>
      let id := s.swc.nextId
      (storePacket s w.pkt w.quad none w.vc 1).onSwc fun c => { c with delivered := c.delivered ++ [(id, w.pkt)] }
    | r =>
      match routePort r with
      | none => countNoroute s
      | some p =>
        let id := s.swc.nextId
        enqueue (storePacket (routeTaken s r) w.pkt w.quad none w.vc 1) id w.pkt p w.vc none

/-- Originates a packet, or leaves it waiting for cells behind earlier work of its account (R234). -/
def originate (s : State) (q : Fin 4) (vc : Fin 8) (port : Option (Fin 64)) (pkt : Packet) : State :=
  let w : LocalWait := ⟨pkt, vc, q, port⟩
  let behind := s.swc.localWait.any fun x => decide (x.quad = q ∧ x.vc = vc)
  if behind || !localRoom s q vc pkt then s.onSwc fun c => { c with localWait := c.localWait ++ [w] }
  else originateNow s w

/-- The oldest waiting packet of its account, which finds cells: what is behind it waits with it (R234). -/
def localReady (s : State) (w : LocalWait) : Bool :=
  (s.swc.localWait.find? fun x => decide (x.quad = w.quad ∧ x.vc = w.vc)) == some w && localRoom s w.quad w.vc w.pkt

/-- Lets waiting local work go on, in order, as far as cells allow. -/
def drainLocal : Nat → State → State
  | 0, s => s
  | n + 1, s =>
    match s.swc.localWait.find? (localReady s) with
    | none => s
    | some w =>
      drainLocal n (originateNow (s.onSwc fun c => { c with localWait := c.localWait.erase w }) w)

/-- Releases a reference, then lets waiting local work go on. -/
def release (s : State) (id : Nat) : State :=
  let s := releasePacket s id
  drainLocal s.swc.localWait.length s

/-- Takes a packet for this switch out of the core, where PACKET_FORWARD has delivered it: its cells return
(R231). -/
def consume (s : State) (pkt : Packet) : State :=
  match s.swc.delivered.find? fun d => decide (d.2 = pkt) with
  | some d => release (s.onSwc fun c => { c with delivered := c.delivered.erase d }) d.1
  | none => s

end Sys2Proof.Machine
end

