-- ==== Sys2Proof/Machine/Lines.lean ====
section
/-! DEFINITION. Pool lines with their metadata and protection (R413 to R415, R421 to R424), the directory
(R153) and snoops (R191, R503). -/

namespace Sys2Proof.Machine

/-- A pool line of a region: region index (a ring region beyond the table), granule index within the
region, line within the granule, and the line's own number (granule × 1,024 + line, R414). -/
structure LineHome where
  ri   : Nat
  r    : Region
  gi   : Nat
  m    : Nat
  line : Nat
  deriving DecidableEq, Repr, Inhabited

/-- The pool line that holds a byte of a region. -/
def lineHome (s : State) (ri off : Nat) : Option LineHome :=
  match anyRegion s ri with
  | none => none
  | some r =>
    (granuleOf s ri r (off / 65536)).map fun g =>
      ⟨ri, r, off / 65536, off % 65536 / 64, g * 1024 + off % 65536 / 64⟩

/-- Region offset of a line. -/
def LineHome.off (h : LineHome) : Nat := h.gi * 65536 + h.m * 64

def lineStack (line : Nat) : Nat := gStack (line / 1024)
def lineQuad (line : Nat) : Fin 4 := Fin.ofNat 4 (lineStack line / 4)

def lineUp (s : State) (line : Nat) : Bool := stackUp s (lineStack line)

/-- The line's 64 bytes. -/
def lineData (s : State) (line : Nat) : List Byte := s.pool.mem.readN (line * 64) 64

/-- Metadata as allocation writes it (R415). -/
def freshMeta (tag : Tag) : LineMeta := ⟨tag, 0, false, false, false, 0⟩

/-- The line's metadata; an unlisted line holds what allocation wrote. -/
def lineMeta (s : State) (line : Nat) (tag : Tag) : LineMeta := s.pool.lmeta.getD line (freshMeta tag)

def setLine (s : State) (line : Nat) (data : List Byte) (md : LineMeta) : State :=
  s.onPool fun p => { p with mem := p.mem.writeN (line * 64) data, lmeta := p.lmeta.set line md }

/-! ### Where protection lies -/

/-- The line of a mirror copy. -/
def LineHome.mirror (h : LineHome) : Nat := mirrorGranule h.r h.gi (h.line / 1024) * 1024 + h.m

/-- The parity line of the line's stripe, and the line's place in its stripe. -/
def LineHome.parity (h : LineHome) : Nat := parityGranule h.r (h.gi / 4) * 1024 + h.m
def LineHome.lane (h : LineHome) : Nat := h.gi % 4

/-- The other three data lines of the stripe. -/
def LineHome.peers (s : State) (h : LineHome) : List Nat :=
  ((List.range 4).filter (· ≠ h.lane)).filterMap fun i =>
    (granuleOf s h.ri h.r (h.gi / 4 * 4 + i)).map fun g => g * 1024 + h.m

def xorBytes (a b : List Byte) : List Byte := (List.zip a b).map fun p => p.1 ^^^ p.2

/-- The bytes of a line as the rest of its stripe gives them. -/
def parityData (s : State) (h : LineHome) : List Byte :=
  (h.peers s).foldl (fun d l => xorBytes d (lineData s l)) (lineData s h.parity)

/-- The rebuild from parity has all its pieces on stacks in service. -/
def parityUsable (s : State) (h : LineHome) : Bool := lineUp s h.parity && (h.peers s).all (lineUp s)

/-- A line can be served: on its own stack, or through protection (R431, R432). -/
def lineServed (s : State) (h : LineHome) : Bool :=
  lineUp s h.line || (h.r.protection == 1 && lineUp s h.mirror) || (h.r.protection == 2 && parityUsable s h)
    || (h.r.protection == 3 && !h.r.partnerLost)

/-- The bytes of a line as last written, wherever they are kept (R431). -/
def currentData (s : State) (h : LineHome) : List Byte :=
  if lineUp s h.line then lineData s h.line
  else if h.r.protection = 1 then lineData s h.mirror
  else if h.r.protection = 2 then parityData s h
  else lineData s h.line

/-- The poison flag of a line as last written. -/
def currentPoison (s : State) (h : LineHome) : Bool :=
  if lineUp s h.line then (lineMeta s h.line h.r.tenant).poison
  else if h.r.protection = 1 then (lineMeta s h.mirror h.r.tenant).poison
  else if h.r.protection = 2 then (lineMeta s h.parity h.r.tenant).dpoison.getLsbD h.lane
  else (lineMeta s h.line h.r.tenant).poison

/-- Writes a line and its protection in this switch (R424, R431): EPOCH + 1, POISON as given. A parity
stripe takes old and new data; with the line's stack lost it takes the other three lines. -/
def storeLine (s : State) (h : LineHome) (data : List Byte) (poison : Bool) : State :=
  let kept := if !lineUp s h.line && h.r.protection == 1 then h.mirror else h.line
  let ep := (lineMeta s kept h.r.tenant).epoch + 1
  let old := lineData s h.line
  let s1 :=
    if h.r.protection = 1 then
      if lineUp s h.mirror then setLine s h.mirror data ⟨h.r.tenant, ep, poison, true, false, 0⟩ else s
    else if h.r.protection = 2 then
      if lineUp s h.parity then
        let pm := lineMeta s h.parity h.r.tenant
        let pd := if lineUp s h.line then xorBytes (xorBytes (lineData s h.parity) old) data
          else (h.peers s).foldl (fun d l => xorBytes d (lineData s l)) data
        let bit : BitVec 4 := BitVec.ofNat 4 (2 ^ h.lane)
        setLine s h.parity pd ⟨h.r.tenant, pm.epoch + 1, false, false, true,
          if poison then pm.dpoison ||| bit else pm.dpoison &&& ~~~ bit⟩
      else s
    else s
  if lineUp s h.line ∨ h.r.protection = 3 ∨ h.r.protection = 0 then
    setLine s1 h.line data ⟨h.r.tenant, ep, poison, false, false, 0⟩
  else s1

/-! ### The directory (R153, R154) -/

/-- Directory slices hold 16 entries in a set. -/
def dirWays : Nat := 16

def dirEntry (s : State) (line : Nat) : Option DirEntry := s.coh.dir.find? fun e => e.line == line

def holders (h : Hold) : List (Fin 34) :=
  match h with
  | .owned x => [x]
  | .shared v => (List.range 34).filterMap fun i => if v.getLsbD i then some (Fin.ofNat 34 i) else none

/-- Puts a state at a line, keeping its place in the order of allocation; a SHARED entry of no holder is
INVALID and needs no entry. -/
def dirPut (s : State) (line : Nat) (st : Hold) : State :=
  s.onCoh fun c => { c with dir :=
    if st = (Hold.shared 0) then (c.dir.filter fun e => e.line != line)
    else if (c.dir.any fun e => e.line == line) then
      (c.dir.map fun e => if e.line = line then { e with st := st } else e)
    else c.dir ++ [⟨line, st⟩] }

def dirDrop (s : State) (line : Nat) : State :=
  s.onCoh fun c => { c with dir := c.dir.filter fun e => e.line != line }

/-- Removes one holder of a line. -/
def dirRemove (s : State) (line : Nat) (x : Fin 34) : State :=
  match dirEntry s line with
  | none => s
  | some e =>
    match e.st with
    | .owned y => if x = y then dirDrop s line else s
    | .shared v => dirPut s line (.shared (v &&& ~~~ (1#34 <<< x.val)))

/-- Adds a SHARED holder. -/
def dirShare (s : State) (line : Nat) (x : Fin 34) : State :=
  match dirEntry s line with
  | some e =>
    match e.st with
    | .owned _ => s
    | .shared v => dirPut s line (.shared (v ||| (1#34 <<< x.val)))
  | none => dirPut s line (.shared (1#34 <<< x.val))

/-- The holder that a request's source is (R791): the down-port slot it came in on, which a fabric request
has only when it arrived on a DOWN port from an end point. -/
def holderOf (s : State) (port : Fin 64) (src : Node) : Option (Fin 34) :=
  if kindOf s port = .down ∧ !isSwitch src then some (Fin.ofNat 34 (2 + (planOf s port).index)) else none

/-- An end point's line cache is of this cell when its EP0 attaches here: the switch is in plane A (R60, R151). -/
def cellHolder (s : State) (port : Fin 64) (src : Node) : Option (Fin 34) :=
  if planeOf s.dev.nodeId = 0 then holderOf s port src else none

/-! ### Snoops (R191, R503) -/

def recallOut (s : State) (line : Nat) (x : Fin 34) : Bool :=
  s.coh.recalls.any fun r => decide (r.line = line ∧ r.holder = x)

/-- The coordinate that the end point of a slot serves (R191, R791): the slot's own unless remapped. -/
def slotNode (s : State) (slot : Nat) : Node :=
  let own := BitVec.ofNat 16 (rackOf s.dev.nodeId * 256 + swOf s.dev.nodeId * 32 + slot)
  match s.flt.remap.find? fun e => decide (e.2.physical = own ∧ e.2.st = 1) with
  | some e => BitVec.ofNat 16 e.1
  | none => own

/-- The slot below this switch in which a coordinate is served: that of the end point that holds it now. -/
def slotOfNode (s : State) (n : Node) : Option Nat :=
  if isSwitch n then none
  else match physicalOf s n with
    | none => none
    | some p =>
      if rackOf p = rackOf s.dev.nodeId ∧ epSwOf p = swOf s.dev.nodeId ∧ slotNode s (slotOf p) = n then some (slotOf p) else none

/-- OFFSET of a snoop: a line of either bank of a cast region is named by its offset in the region. -/
def snoopOff (h : LineHome) : Nat := if h.r.isCast then h.off % h.r.bytes else h.off

/-- A snoop packet to a line cache (R191). -/
def snoopPacket (s : State) (op : Byte) (h : LineHome) (slot : Nat) : Packet :=
  let d := slotNode s slot
  Packet.sealed {
    opcode := op, flags := 0, stream := 0, srcInc := 0, dstInc := incOf s.xp.inc d, seq := 0
    dst := d, src := s.dev.nodeId, tenant := h.r.tenant, len := 0, time := BitVec.ofNat 32 s.now
    w20 := 0, region := BitVec.ofNat 16 h.ri
    offset := BitVec.ofNat 48 (snoopOff h), payload := [], tag := 0, crc := 0 }

/-- Sends a snoop to one holder, unless one is outstanding. An OWNED line is recalled, a SHARED copy
invalidated; a host is sent BISnpInv (R160, R503). Recalls and host snoops are counted (R409). -/
def snoop (s : State) (h : LineHome) (x : Fin 34) (owned drop : Bool) : State :=
  if recallOut s h.line x then s
  else
    let s := s.onCoh fun c => { c with recalls := c.recalls ++ [⟨h.line, x, owned, s.now, drop, h.ri, snoopOff h⟩] }
    let s := if x.val < 2 || owned then countRecall s else s
    if x.val < 2 then s.emit (.biSnp (Fin.ofNat 2 x.val) h.line)
    else
      match slotPort s (x.val - 2) with
      | none => s
      | some p =>
        originate s (lineQuad h.line) 1 (some p)
          (snoopPacket s (if owned then opSNOOPRECALL else opSNOOPINV) h (x.val - 2))

/-- Takes every copy of a line back, dropping what a holder has written: the line has just been written or
poisoned as a whole (R419, R515). -/
def takeBack (s : State) (h : LineHome) : State :=
  match dirEntry s h.line with
  | none => s
  | some e =>
    let own := match e.st with
      | .owned _ => true
      | _ => false
    dirDrop ((holders e.st).foldl (fun s x => snoop s h x own true) s) h.line

end Sys2Proof.Machine
end

