-- ==== Sys2Proof/Machine/FltNode.lean ====
section
/-! DEFINITION. A node of the time tree and the fault protocol (R599 to R620): its messages, its floods and the
reports that it originates. Both parts of the manual are such nodes. -/

namespace Sys2Proof.Machine

def tnOf (s : State) (p : Part) : TimeNode := match p with
  | .zs => s.flt.tn
  | .ze => s.ep.tn

def onTn (s : State) (p : Part) (f : TimeNode → TimeNode) : State := match p with
  | .zs => s.onFlt fun c => { c with tn := f c.tn }
  | .ze => s.onEp fun e => { e with tn := f e.tn }

def nowOf (s : State) (p : Part) : Time := match p with
  | .zs => s.now
  | .ze => s.ep.now

def nodeOf (s : State) (p : Part) : Node := match p with
  | .zs => s.dev.nodeId
  | .ze => s.ep.nodeId

/-- Whether a link of a node is in service. -/
def nodeLinkUp (s : State) (part : Part) (p : Nat) : Bool := match part with
  | .zs => portUp s p
  | .ze => if p = 0 then s.ep.ep0 else decide (p = 1) && s.ep.ep1

/-- The links of a node in service; no packet leaves by a SPARE port (R250). -/
def nodeLinks (s : State) (part : Part) : List Nat := match part with
  | .zs => (List.range 64).filter fun p => portUp s p && decide (kindOf s p ≠ .spare ∧ kindOf s p ≠ .unused)
  | .ze => [0, 1].filter (nodeLinkUp s .ze)

/-! ### Sending (R608) -/

/-- A node takes a TIMEFAULT of a link in service that names it, or names no node (R608). -/
def hears (s : State) (part : Part) (p : Nat) (dst : Node) : Bool :=
  nodeLinkUp s part p && (dst == nodeOf s part || dst == 0)

/-- The link partner's node ID, or 0 while it is unknown: as its beacons give it, else as it reported it. -/
def partnerNode (s : State) (part : Part) (p : Nat) : Node :=
  match ((tnOf s part).nbrs.get? p).filter Neighbor.heard with
  | some n => n.b.sender
  | none => match part with
    | .zs => (linkOf s p).far.node
    | .ze => 0

/-- The node at the far end of a port: on a DOWN port the coordinate that its slot serves. -/
def nodeAt (s : State) (p : Nat) : Node :=
  if kindOf s p = .down then slotNode s (planOf s p).index else (linkOf s p).far.node

/-- A TIMEFAULT packet: TENANT 0x8000, zero KEY, REGION and OFFSET. -/
def timefault (s : State) (part : Part) (port : Nat) (payload : List Byte) : Packet :=
  Packet.sealed {
    opcode := opTIMEFAULT, flags := 0, stream := 0, srcInc := 0, dstInc := 0, seq := 0
    dst := partnerNode s part port, src := nodeOf s part, tenant := opTag
    len := BitVec.ofNat 16 payload.length, time := BitVec.ofNat 32 (nowOf s part), w20 := 0, region := 0, offset := 0
    payload := payload, tag := 0, crc := 0 }

/-- The far end of an end-point port holds a VC back (R242). -/
def epStopped (e : Ep) (port : Nat) (vc : Fin 8) : Bool := (e.xoff.getD port 0).getLsbD vc.val

/-- A packet leaves the ZE-208 by a port in service, once its VC is not held back (R242). -/
def epLeave (s : State) (port : Nat) (vc : Fin 8) (p : Packet) : State :=
  if epStopped s.ep port vc then s.onEp fun e => { e with outq := e.outq ++ [(port, vc, p)] }
  else s.emit (epFlits port vc p)

/-- SUBJECT and TERM of a message, for its trace entry. -/
def vc7Subject (y : List Byte) : Nat :=
  let m := y.headD 0
  if m = 0x08 then fieldAt y 5 2 else if m = 0x10 then fieldAt y 2 2 else if m = 0x12 then fieldAt y 1 2 else 0

def vc7Term (s : State) (y : List Byte) : Nat :=
  let m := y.headD 0
  if m = 0x01 then fieldAt y 4 4 else if m = 0x10 then fieldAt y 8 4 else s.flt.tn.term

/-- Sends a message on one link, on VC7. -/
def sendVc7 (s : State) (part : Part) (port : Nat) (payload : List Byte) : State :=
  let p := timefault s part port payload
  match part with
  | .ze => epLeave s port 7 p
  | .zs =>
    let f : Fin 64 := Fin.ofNat 64 port
    traceTimefault (originate s (quadOf f) 7 (some f) p) port (payload.headD 0) true (vc7Subject payload) (vc7Term s payload)

/-- Sends a message on every link in service but one (R610). -/
def flood (s : State) (part : Part) (from_ : Option Nat) (payload : List Byte) : State :=
  ((nodeLinks s part).filter fun p => some p ≠ from_).foldl (fun s p => sendVc7 s part p payload) s

/-! ### Payloads (R608 to R611, R784) -/

def beaconBytes (b : Beacon) : List Byte :=
  [0x01, b.flags, b.depth, b.frac] ++ leBytes 4 b.term ++ leBytes 2 b.sender.toNat ++ leBytes 2 b.manager.toNat
    ++ leBytes 2 b.candidate.toNat ++ leBytes 2 b.standby.toNat ++ leBytes 8 b.tDepart ++ leBytes 8 b.echoDepart
    ++ leBytes 8 b.echoArrive ++ leBytes 4 b.candCount.toNat ++ leBytes 4 b.stbyCount.toNat

def reportBytes (m : Report) : List Byte :=
  [0x08, m.kind, m.cause] ++ leBytes 2 m.reporter.toNat ++ leBytes 2 m.subject.toNat ++ [m.port] ++ leBytes 4 m.id
    ++ leBytes 8 m.time

def verdictBytes (v : Verdict) : List Byte :=
  [0x10, v.kind] ++ leBytes 2 v.subject.toNat ++ leBytes 2 v.physical.toNat ++ [v.newInc, v.cause] ++ leBytes 4 v.term
    ++ leBytes 4 v.id ++ leBytes 8 v.decided ++ leBytes 8 v.apply ++ leBytes 2 v.manager.toNat ++ leBytes 2 v.arg
    ++ zeros 28

def statusBytes (sender : Node) (map : BitVec 256) : List Byte :=
  [0x12] ++ leBytes 2 sender.toNat ++ leBytes 32 map.toNat

/-! ### Flood keys: the last 4,096 (R610) -/

def floodCache : Nat := 4096
def reportKey (m : Report) : Nat × Nat := (m.reporter.toNat, m.id)
def verdictKey (v : Verdict) : Nat × Nat := (65536 + v.term, v.id)

def seenKey (s : State) (part : Part) (k : Nat × Nat) : Bool := (tnOf s part).seen.contains k
def markSeen (s : State) (part : Part) (k : Nat × Nat) : State :=
  onTn s part fun n => { n with seen := (k :: n.seen).take floodCache }

/-! ### Liveness (R609, R612, R613) -/

/-- Whether a switch is live: its count rose within the last 200 µs. -/
def isLive (now : Time) (e : BitVec 32 × Time) : Bool := decide (now < e.2 + us 200)

/-- The live eligible switches that a node knows, lowest node ID first. -/
def liveList (n : TimeNode) (now : Time) : List Node :=
  ((n.live.filter fun e => isLive now e.2).map fun e => BitVec.ofNat 16 e.1)

/-- CANDIDATE and STANDBY; 0 where there is none. -/
def candidate (n : TimeNode) (now : Time) : Node := (liveList n now).headD 0
def standby (n : TimeNode) (now : Time) : Node := (liveList n now).getD 1 0

/-! ### Reports (R610, R616, R617, R619) -/

/-- A report that an earlier verdict explains: one that took its SUBJECT out, applied after the event. -/
def explained (s : State) (m : Report) : Bool :=
  (s.flt.tn.verdicts ++ s.flt.tn.applied).any fun v =>
    decide ((v.kind = 1 ∨ v.kind = 3) ∧ v.subject = m.subject ∧ m.time ≤ v.apply)

/-- Sends a PROBE to a neighbour, on each link in service to it. -/
def sendProbes (s : State) (subject : Node) : State :=
  ((nodeLinks s .zs).filter fun p => nodeAt s p == subject).foldl (fun s p =>
    (sendVc7 s .zs p [0x09]).onFlt fun c => { c with probes := c.probes.set p s.now, probesN := bump c.probesN }) s

/-- The switch holds a report: the manager opens a window for it, and a neighbour of its subject probes (R617). -/
def holdReport (s : State) (m : Report) : State :=
  let s := s.onFlt fun c => { c with reports := c.reports ++ [m] }
  let s := if s.flt.role ∧ s.flt.window = none ∧ !explained s m then
      s.onFlt fun c => { c with window := some s.now } else s
  if m.kind = 2 ∨ m.kind = 3 then sendProbes s m.subject else s

/-- Originates a report. -/
def originateReport (s : State) (part : Part) (kind cause : Byte) (subject : Node) (port : Nat) : State :=
  let m : Report := ⟨kind, cause, nodeOf s part, subject, BitVec.ofNat 8 port, ((tnOf s part).reportId + 1) % 2 ^ 32,
    nowOf s part⟩
  let s := onTn s part fun n => { n with reportId := m.id }
  let s := flood (markSeen s part (reportKey m)) part none (reportBytes m)
  match part with
  | .ze => s
  | .zs => holdReport (s.onFlt fun c => { c with
      reportsN := bump c.reportsN, giveups := if kind = 2 then bump c.giveups else c.giveups }) m

def reportGiveUp (s : State) (part : Part) (dst : Node) : State := originateReport s part 2 0 dst 0
def reportEpDown (s : State) (cause : Byte) : State := originateReport s .ze 3 cause s.ep.nodeId 0

end Sys2Proof.Machine
end

