-- ==== Sys2Proof/Machine/Transport.lean ====
section
/-! DEFINITION. Ubkel transport (04_transport.md): sequence numbers, windows, retransmission, epochs and the
permitted rate, for a part's `Xport`, and how the switch injects and answers. -/

namespace Sys2Proof.Machine

/-- Sequence numbers count modulo 2^24 (R203). -/
def seqSub (a b : BitVec 24) : Nat := (a - b).toNat

/-- N is newer than M (R203). -/
def seqNewer (n m : BitVec 24) : Bool := decide (1 ≤ seqSub n m ∧ seqSub n m ≤ 8388607)

/-- A destination as a source first knows it: SEQ 0, rate 64/64 (R203, R225). -/
def SrcDst.fresh (now : Time) : SrcDst :=
  { (default : SrcDst) with rate := 64, rateAt := now, credit := 4096 * 64, creditAt := now }

namespace Xport

def srcOf (x : Xport) (now : Time) (n : Node) : SrcDst := x.src.getD n.toNat (SrcDst.fresh now)
def setSrc (x : Xport) (n : Node) (d : SrcDst) : Xport := { x with src := x.src.set n.toNat d }
def dstOf (x : Xport) (n : Node) : DstSrc := x.dst.getD n.toNat default
def setDst (x : Xport) (n : Node) (d : DstSrc) : Xport := { x with dst := x.dst.set n.toNat d }
def opFor (x : Xport) (n : Node) (seq : BitVec 24) : Option Op :=
  x.ops.find? fun o => decide (o.pkt.dst = n ∧ o.pkt.seq = seq)

end Xport

/-- The counter and the window of a node start again, and its requests and closing writes held here are forgotten
(R203, R221). -/
def forgetNode (x : Xport) (n : Node) : Xport :=
  { x with
    src := x.src.erase n.toNat, dst := x.dst.erase n.toNat
    cw := x.cw.filter fun c => c.1.pkt.src != n, busy := x.busy.filter fun b => b.arr.pkt.src != n }

/-- A table without the entries that hold 0, which an unlisted entry means. -/
def setInc (t : Tbl Byte) (i : Nat) (v : Byte) : Tbl Byte := if v = 0 then t.erase i else t.set i v

/-- A new incarnation of an end point: the counters between it and this node start again (R203). -/
def setIncOf (x : Xport) (n : Node) (v : Byte) : Xport :=
  if isSwitch n ∨ incOf x.inc n = v then x else forgetNode { x with inc := setInc x.inc (n.toNat % 4096) v } n

/-- This node has a new incarnation: every counter of its own and every window start again (R203). -/
def restartAll (x : Xport) : Xport := { x with src := [], dst := [] }

/-! ### The source -/

/-- Bytes that R225 counts: request payload and READ bytes, on VC0 and VC1 (R226). -/
def ratedBytes (p : Packet) : Nat :=
  if p.vc.val ≤ 1 ∧ p.opcode ≠ opSNOOPINV ∧ p.opcode ≠ opSNOOPRECALL then
    p.payload.length + (if p.opcode = opREAD ∨ p.opcode = opREADOWN then p.lenBytes else 0) else 0

/-- The credit at a tick: 210 GB/s is 84 B in a tick, times rate / 64, with a burst of 4 KiB (R225). -/
def creditNow (d : SrcDst) (now : Time) : Nat :=
  Nat.min (4096 * 64) (d.credit + (now - d.creditAt) * 84 * d.rate)

/-- Whether R204, R214, R218 and R225 let a request be injected. -/
def canInject (x : Xport) (now : Time) (p : Packet) : Bool :=
  let d := x.srcOf now p.dst
  let st := d.streams.getD p.stream.toNat default
  !(x.opFor p.dst (d.next - 4096)).isSome
  && (p.opcode != opATOMIC || decide (d.atomics.length < 64))
  && (!isStreamWrite p.opcode ||
      (st.closers.all (fun c => decide (st.epoch < c.1 + 2)) &&
       st.waits.all (fun w => decide (st.epoch < w.1 + 2 ∨ w.2 ≤ now))))
  && decide (ratedBytes p * 64 ≤ creditNow d now)

/-- Numbers and stamps a request (R36, R203, R216, R219). -/
def numbered (x : Xport) (now : Time) (p : Packet) : Packet :=
  let d := x.srcOf now p.dst
  let st := d.streams.getD p.stream.toNat default
  let tag : BitVec 32 :=
    if isStreamWrite p.opcode then
      (p.tag &&& 0x8000FFFF) ||| BitVec.ofNat 32 ((st.epoch % 4) * 2 ^ 28)
        ||| (if p.close then BitVec.ofNat 32 ((st.writes % 4096) * 2 ^ 16) else 0)
    else p.tag
  Packet.sealed { p with
    seq := d.next, srcInc := incOf x.inc p.src, dstInc := incOf x.inc p.dst
    time := BitVec.ofNat 32 now, tag := tag }

/-- The source's books after an injection. -/
def injected (x : Xport) (now : Time) (p : Packet) (port : Nat) (cause : Cause) : Xport :=
  let d := x.srcOf now p.dst
  let st := d.streams.getD p.stream.toNat default
  let st := if isStreamWrite p.opcode then
      if p.close then { st with epoch := st.epoch + 1, writes := 0, closers := st.closers ++ [(st.epoch, p.seq)] }
      else { st with writes := st.writes + 1 }
    else st
  let d := { d with
    next := d.next + 1
    streams := if isStreamWrite p.opcode then d.streams.set p.stream.toNat st else d.streams
    atomics := if p.opcode = opATOMIC then d.atomics ++ [(p.seq, false)] else d.atomics
    credit := creditNow d now - ratedBytes p * 64
    creditAt := now }
  { x.setSrc p.dst d with
    ops := x.ops ++ [⟨p, port, none, now, now, 1, none, cause⟩] }

/-- Two requests of one stream to one destination that keep their order: what R225 holds back holds nothing back that
it does not govern (R226). -/
def sameOrder (v w : Packet) : Bool :=
  v.dst == w.dst && v.stream == w.stream && decide (v.vc.val ≤ 1) == decide (w.vc.val ≤ 1)

/-- The atomics that still count under R214: from the oldest unresolved on. -/
def dropResolved : List (BitVec 24 × Bool) → List (BitVec 24 × Bool)
  | (_, true) :: t => dropResolved t
  | l => l

/-- Takes a resolved request out of the source's books (R202). A closing write that ended with DEST_LOST
makes the epoch wait until 1.2 ms after its TIME (R218). -/
def resolved (x : Xport) (now : Time) (o : Op) (st : Status) : Xport :=
  let d := x.srcOf now o.pkt.dst
  let ss := d.streams.getD o.pkt.stream.toNat default
  let d := if isStreamWrite o.pkt.opcode ∧ o.pkt.close then
      { d with streams := d.streams.set o.pkt.stream.toNat { ss with
          closers := ss.closers.filter fun c => c.2 != o.pkt.seq
          waits := if st = stDestLost then
              match ss.closers.find? fun c => c.2 == o.pkt.seq with
              | some c => ss.waits ++ [(c.1, o.first + us 1200)]
              | none => ss.waits
            else ss.waits } }
    else if o.pkt.opcode = opATOMIC then
      { d with atomics := dropResolved (d.atomics.map fun a => if a.1 = o.pkt.seq then (a.1, true) else a) }
    else d
  { x.setSrc o.pkt.dst d with ops := x.ops.erase o }

/-- Halves the permitted rate, at most once per 8 µs; every such response puts off the next raise (R225). -/
def rateHalved (d : SrcDst) (now : Time) : SrcDst :=
  match d.halvedAt with
  | some t => if now < t + us 8 then { d with rateAt := now }
      else { d with credit := creditNow d now, creditAt := now, rate := Nat.max 1 (d.rate / 2), rateAt := now, halvedAt := some now }
  | none => { d with credit := creditNow d now, creditAt := now, rate := Nat.max 1 (d.rate / 2), rateAt := now, halvedAt := some now }

/-- A response that calls for a halving (R225). -/
def echoesCe (p : Packet) : Bool :=
  p.ceEcho || (p.ce && (p.opcode == opREADREPLY || p.opcode == opATOMICREPLY || p.opcode == opCOUNTERREPLY))

/-- Raises the rate by 4/64 when 8 µs have passed since its last change without a response that calls for a
halving (R225). -/
def rateRaised (x : Xport) (n : Node) (now : Time) : Xport :=
  let d := x.srcOf now n
  if d.rate < 64 ∧ d.rateAt + us 8 ≤ now then
    x.setSrc n { d with credit := creditNow d now, creditAt := now, rate := Nat.min 64 (d.rate + 4), rateAt := now }
  else x

/-- The unresolved request that an arriving response answers (R202). -/
def accepts (x : Xport) (me : Node) (p : Packet) : Option Op :=
  if p.crcOk ∧ p.dst = me ∧ p.dstInc = incOf x.inc me then x.opFor p.src p.seq else none

/-- Books of a response: the rate, and for a HOLD the end of retransmission (R209, R225). -/
def heard (x : Xport) (now : Time) (p : Packet) : Xport :=
  let x := if echoesCe p then x.setSrc p.src (rateHalved (x.srcOf now p.src) now) else x
  if p.opcode = opHOLD then
    { x with ops := x.ops.map fun o => if o.pkt.dst = p.src ∧ o.pkt.seq = p.seq then { o with held := some now } else o }
  else x

/-- The status of a final response: a MGMT answer carries none. -/
def finalStatus (p : Packet) : Status := if p.opcode = opMGMT then stOk else p.status

/-- Whether a retransmission is due (R207): 20 µs after a transmission, at most six times, not once held. -/
def retransDue (o : Op) (now : Time) : Bool :=
  o.held.isNone && decide (o.sent < 7) && due now o.last (us 20)

/-- Whether a request ends by give-up (R209, R210). -/
def giveUpDue (o : Op) (now : Time) : Bool :=
  match o.held with
  | some t => due now t (us 300)
  | none => decide (o.sent = 7) && due now o.last (us 20)

/-- The status at give-up (R210). -/
def giveUpStatus (p : Packet) : Status := if p.opcode = opATOMIC then stIndeterminate else stDestLost

/-- A retransmission (R207). -/
def retransmission (p : Packet) : Packet := Packet.sealed { p with flags := p.flags ||| 4 }

/-! ### The destination -/

/-- What steps 1 to 5 of R201 make of an arriving request. -/
inductive Admit
  | discard
  | nack (st : Status)
  | hold
  | ackAgain
  | cached (reply : Packet)
  | go (d : DstSrc)      -- on to step 6, with the source's window
  deriving DecidableEq, Repr, Inhabited

/-- Steps 1, 3 and 4 of R201. -/
def admitHead (inc : Tbl Byte) (now : Time) (p : Packet) : Option Admit :=
  if !p.crcOk then some .discard
  else if (Int.ofNat now) - extendTime now p.time > Int.ofNat (us 130) then some .discard
  else if (!isSwitch p.src ∧ p.srcInc ≠ incOf inc p.src) ∨ (!isSwitch p.dst ∧ p.dstInc ≠ incOf inc p.dst) then
    some (.nack stStaleIncarnation)
  else none

/-- Numbers that have left the window are forgotten (R205). -/
def pruneWin (h : BitVec 24) (t : Tbl SeqSt) : Tbl SeqSt :=
  t.filter fun e => decide (seqSub h (BitVec.ofNat 24 e.1) ≤ 4095)

/-- Step 5 of R201: the window of R205. -/
def window (d : DstSrc) (p : Packet) : Admit :=
  let busy := fun b : SeqSt => { d with st := d.st.set p.seq.toNat b }
  match d.h with
  | none => .go { d with h := some p.seq, st := d.st.set p.seq.toNat .busy }
  | some h =>
    if seqNewer p.seq h then .go { d with h := some p.seq, st := pruneWin p.seq (d.st.set p.seq.toNat .busy) }
    else if seqSub h p.seq > 4095 then .discard
    else match d.st.get? p.seq.toNat with
      | none => .go (busy .busy)
      | some .busy => .hold
      | some (.rebusy _) => .hold
      | some (.refused n) => .go (busy (.rebusy n))
      | some .done =>
        if p.opcode = opREAD ∨ p.opcode = opREADOWN ∨ p.opcode = opCOUNTERREAD then .go (busy .busy)
        else if p.opcode = opATOMIC then
          match d.replies.find? fun r => r.1 == p.seq with
          | some r => .cached r.2
          | none => .nack stIndeterminate
        else if p.opcode = opMGMT then
          match d.replies.find? fun r => r.1 == p.seq with
          | some r => .cached r.2
          | none => .ackAgain
        else .ackAgain

/-- Counts a non-closing write of a stream that first reaches DONE or REFUSED (R217). -/
def epochCounted (d : DstStream) (e : Nat) : DstStream :=
  if e = d.openE then { d with c0 := (d.c0 + 1) % 4096 }
  else if e = (d.openE + 1) % 4 then { d with c1 := (d.c1 + 1) % 4096 }
  else d

/-- The open epoch moves on at the release, discard or refusal of a closing write of it (R217, R793). -/
def epochMoved (d : DstStream) (e : Nat) : DstStream :=
  if e = d.openE then { openE := (d.openE + 1) % 4, c0 := d.c1, c1 := 0 } else d

/-- A request that was REFUSED runs again: it counts nowhere a second time (R205). -/
def reRun (d : DstSrc) (p : Packet) : Bool :=
  match d.st.get? p.seq.toNat with
  | some (.rebusy _) => true
  | _ => false

/-- Bytes that an arrival counter has been given for a request already. -/
def countedFor (d : DstSrc) (p : Packet) : Nat :=
  match d.st.get? p.seq.toNat with
  | some (.rebusy n) => n
  | some (.refused n) => n
  | _ => 0

/-- Keeps what an arrival counter has been given for a request that ended REFUSED. -/
def keepCounted (d : DstSrc) (p : Packet) (n : Nat) : DstSrc :=
  match d.st.get? p.seq.toNat with
  | some (.refused m) => { d with st := d.st.set p.seq.toNat (.refused (Nat.max m n)) }
  | _ => d

/-- A request completes at its destination (R206, R213, R217): DONE with OK, else REFUSED. `reply` is kept
for an atomic and a MGMT answer, the 64 newest of them. A malformed closing write moves no epoch (R200). -/
def dstFinish (d : DstSrc) (p : Packet) (st : Status) (reply : Option Packet) : DstSrc :=
  if !d.st.has p.seq.toNat then d else   -- its window has been forgotten (R221)
  let counted := reRun d p
  let str := d.streams.getD p.stream.toNat default
  let str := if isStreamWrite p.opcode then
      if p.close then (if malformed p fun _ => true then str else epochMoved str p.epoch)
      else if counted then str else epochCounted str p.epoch
    else str
  { d with
    st := d.st.set p.seq.toNat (if st = stOk then .done else .refused (countedFor d p))
    streams := if isStreamWrite p.opcode then d.streams.set p.stream.toNat str else d.streams
    replies := match reply with
      | some r =>
        if st = stOk then
          let l := (d.replies.filter fun x => x.1 != p.seq) ++ [(p.seq, r)]
          if l.length > 64 then
            match l.find? (fun x => l.all fun y => x.1 == y.1 || seqNewer y.1 x.1) with
            | some o => l.erase o
            | none => l.drop 1
          else l
        else d.replies
      | none => d.replies }

/-- Whether a held closing write may be released: the count of its epoch has reached SCOUNT (R217). -/
def closeReady (d : DstSrc) (p : Packet) : Bool :=
  let str := d.streams.getD p.stream.toNat default
  decide (str.openE = p.epoch ∧ str.c0 = p.scount)

/-- A closing write of the same source and stream that has been released, or refused, and is not yet done with. -/
def closePending (x : Xport) (a : Arrival) : Bool :=
  x.busy.any fun b => b.arr.pkt.opcode == opWRITE && b.arr.pkt.close && b.arr.pkt.src == a.pkt.src
    && b.arr.pkt.stream == a.pkt.stream && !(x.cw.any fun c => c.1 == b.arr)

/-- A held closing write may be released: every earlier write of its stream has landed or been refused, closing writes
among them (R138, R217). -/
def mayClose (x : Xport) (a : Arrival) : Bool := closeReady (x.dstOf a.pkt.src) a.pkt && !closePending x a

/-! ### The switch as a source -/

/-- While UNLOCKED, the switch sends only MGMT requests (R601). -/
def sendable (s : State) : Xport :=
  if s.flt.tn.lock = .unlocked then { s.xp with wait := s.xp.wait.filter fun w => w.pkt.opcode == opMGMT } else s.xp

/-- Starts of a Runner's windows within the frame (R259). -/
def windowStarts (slots : BitVec 16) (phase : Nat) : List Nat := (bitList slots.toNat 16).map fun n => (256 * n + phase) % 4096

def runnerEgress (r : Runner) : Fin 64 := Fin.ofNat 64 (r.egress.toNat % 64)

def countBurst (s : State) : State := s.onSwc fun c => { c with runnerDrop := bump c.runnerDrop }

/-- A Runner entry starts at an engine of this switch. -/
def runnerAtEngine (r : Runner) (e : Nat) : Bool := r.ingress.getLsbD 7 && decide (r.ingress.toNat % 16 = e)

/-- The Runner that a waiting packet of a program, to another node, leaves by (R288, R295), while its entry is VALID,
starts at the program's engine and has its tenant. DEDUCED (log entry 186): without such an entry the packet leaves as one
of a program without a Runner. -/
def programRunner (s : State) (w : Submit) : Option (Nat × Runner) :=
  match w.cause with
  | .program p _ _ =>
    if w.pkt.dst = s.dev.nodeId then none
    else match s.cru.progs.get? p with
    | some pr => match pr.runner with
      | some i => ((s.swc.runners.get? i).filter fun r => r.tenant == pr.tenant && runnerAtEngine r (p / 16)).map fun r => (i, r)
      | none => none
    | none => none
  | _ => none

/-- A burst that starts here may carry a packet now: at W + 64 of a window, at most 64 flits a burst (R260). -/
def windowRoom (s : State) (r : Runner) (p : Packet) : Bool :=
  decide (r.active ≤ s.now) && (windowStarts r.slots r.phase).any (fun w => (w + 64) % 4096 == s.now % 4096)
    && decide (p.cells + (if r.leaves = some s.now then r.used else 0) ≤ 64)

/-- The first request that may be injected now, with R295. -/
def nextZs (s : State) : Option Submit :=
  let x := sendable s
  x.wait.find? fun w => canInject x s.now w.pkt
    && decide ((x.wait.find? fun v => sameOrder v.pkt w.pkt) = some w)
    && (match programRunner s w with
        | some (_, r) => windowRoom s r w.pkt
        | none => true)

/-- Runner flits of a packet, to leave by a port at a tick (R182, R261). -/
def packetFlits (port : Fin 64) (t : Time) (vc : Fin 8) (p : Packet) : List BurstFlit :=
  (List.range p.cells).map fun k =>
    ⟨port, t, vc, k == 0, k + 1 == p.cells, (p.bytes.drop (240 * k)).take 240⟩

/-- A packet leaves in its Runner's burst: as a burst, or through the cell buffer while R265 applies; lost where
the egress port is out of service (R264). -/
def burstOut (s : State) (i : Nat) (r : Runner) (quad : Fin 4) (p : Packet) : State :=
  let first := r.leaves != some s.now
  let live := portUp s (runnerEgress r) && !r.lost
  let s := s.onSwc fun c => { c with runners := c.runners.set i { r with
    leaves := some s.now, used := p.cells + (if first then 0 else r.used), bursts := r.bursts + b2n (first && live) } }
  if !live then (if first then countBurst s else s)
  else if s.swc.suspended then originate s quad p.vc (some (runnerEgress r)) p
  else s.onSwc fun c => { c with bursts := c.bursts ++ packetFlits (runnerEgress r) s.now p.vc p }

/-- The switch injects every waiting request that it may (R204, R214, R218, R225). -/
def pumpZs : Nat → State → State
  | 0, s => s
  | n + 1, s =>
    match nextZs s with
    | none => s
    | some w =>
      let p := numbered s.xp s.now w.pkt
      let run := programRunner s w
      let s := s.onXp fun x => injected { x with wait := x.wait.erase w } s.now p w.quad.val w.cause
      pumpZs n (match run with
        | some (i, r) => burstOut s i r w.quad p
        | none => originate s w.quad p.vc none p)

def pump (s : State) : State := pumpZs s.xp.wait.length s

/-- The switch sends a request. -/
def submit (s : State) (quad : Fin 4) (cause : Cause) (p : Packet) : State :=
  pump (s.onXp fun x => { x with wait := x.wait ++ [⟨p, quad, cause⟩] })

/-- A request packet of the switch (R185). -/
def request (s : State) (op : Byte) (dst : Node) (tenant : Tag) (key : BitVec 32) (region off : Nat) (len : Nat)
    (stream : Nat) (flags : Byte) (tag : BitVec 32) (payload : List Byte) : Packet :=
  { opcode := op, flags := flags, stream := BitVec.ofNat 8 stream, srcInc := 0, dstInc := 0, seq := 0
    dst := dst, src := s.dev.nodeId, tenant := tenant, len := BitVec.ofNat 16 len, time := 0
    w20 := key, region := BitVec.ofNat 16 region, offset := BitVec.ofNat 48 off, payload := payload
    tag := tag, crc := 0 }

/-- A management message (R192): TENANT 0x8000 and zero KEY, REGION and OFFSET. -/
def mgmt (s : State) (dst : Node) (payload : List Byte) : Packet :=
  request s opMGMT dst opTag 0 0 0 payload.length 0 0 0 payload

def sendMgmt (s : State) (cause : Cause) (dst : Node) (payload : List Byte) : State :=
  submit s (svcQuad s) cause (mgmt s dst payload)

/-! ### The switch as a destination -/

/-- Sends an answer of the switch. NACKs of writes take VC2 (R190). -/
def respond (s : State) (q : Fin 4) (req : Packet) (p : Packet) : State :=
  originate s q (p.vcFor req.opcode) none p

def ackOf (s : State) (p : Packet) (st : Status) : Packet := answer s.now p opACK st false false []
def nackOf (s : State) (p : Packet) (st : Status) : Packet := answer s.now p opNACK st false false []
def holdOf (s : State) (p : Packet) : Packet := answer s.now p opHOLD stOk false false []

/-- Steps 1 to 5 of R201 at the switch. -/
def admission (s : State) (p : Packet) : Admit :=
  if p.crcOk && p.dst != s.dev.nodeId then .discard
  else match admitHead s.xp.inc s.now p with
    | some r => r
    | none => window (s.xp.dstOf p.src) p

/-- Ends a request at the switch: the window, the books of busy requests and the answer. -/
def finishReq (s : State) (a : Arrival) (st : Status) (ans : Packet) (keep : Bool) : State :=
  let s := s.onXp fun x =>
    { x.setDst a.pkt.src (dstFinish (x.dstOf a.pkt.src) a.pkt st (if keep then some ans else none)) with
      busy := x.busy.filter fun b => b.arr != a }
  respond s (answerQuad s a.port) a.pkt ans

/-- Ends a request with the NACK of a failing check. -/
def refuse (s : State) (a : Arrival) (st : Status) : State := finishReq s a st (nackOf s a.pkt st) false

/-- Runs a request from its arrival at the switch: what the admission says, or on to its execution once
it stands in the books as BUSY (R201, R205). -/
def receive (s : State) (a : Arrival) (go : State → State) : State :=
  let s := consume s a.pkt
  if s.flt.tn.lock = .unlocked ∧ a.pkt.opcode ≠ opMGMT then s else
  let dup := ((s.xp.dstOf a.pkt.src).st.get? a.pkt.seq.toNat).isSome
  let adm := admission s a.pkt
  let s := if dup && !(adm == .discard || adm == .nack stStaleIncarnation) then countRetx s else s
  match adm with
  | .discard => s
  | .nack st => respond s (answerQuad s a.port) a.pkt (nackOf s a.pkt st)
  | .hold => respond s (answerQuad s a.port) a.pkt (holdOf s a.pkt)
  | .ackAgain => respond s (answerQuad s a.port) a.pkt (ackOf s a.pkt stOk)
  | .cached r => respond s (answerQuad s a.port) a.pkt (reanswer s.now a.pkt r)
  | .go d =>
    let s := s.onXp fun x => { x.setDst a.pkt.src d with busy := x.busy ++ [⟨a, s.now, none⟩] }
    if malformed a.pkt mgmtMsgs.contains then refuse s a stFormatUnsupported else go s

end Sys2Proof.Machine
end

