-- ==== Sys2Proof/Machine/EpCore.lean ====
section
/-! DEFINITION. The ZE-208 (12_endpoint_block.md): queues, ports, die-to-die transactions, its line cache, and
how its operations go on. -/

namespace Sys2Proof.Machine

/-! ### Queues and operations -/

def epQ (e : Ep) (i : Nat) : EpQueue := e.queues.getD i default
def onEpQ (s : State) (i : Nat) (f : EpQueue → EpQueue) : State :=
  s.onEp fun e => { e with queues := e.queues.set i (f (epQ e i)) }

/-- Depth of a queue (R553). -/
def epDepth (i : Nat) : Nat := if i < 32 then 256 else 64

def epOp? (e : Ep) (i : Nat) (k : BitVec 32) : Option EpOp := e.ops.find? fun o => o.i == i && o.k == k
def onOp (s : State) (i : Nat) (k : BitVec 32) (f : EpOp → EpOp) : State :=
  s.onEp fun e => { e with ops := e.ops.map fun o => if o.i = i ∧ o.k = k then f o else o }
def dropOp (s : State) (i : Nat) (k : BitVec 32) : State :=
  s.onEp fun e => { e with ops := e.ops.filter fun o => !(o.i == i && o.k == k) }

def badDoorbell (s : State) : State := s.onEp fun e => { e with doorbell := bump e.doorbell }

/-! ### Fields of descriptors (R555, R559) -/

namespace EpDesc

def op (d : Desc) : Nat := Desc.fld d 0 1
def flags (d : Desc) : Nat := Desc.fld d 1 1
def stream (d : Desc) : Nat := Desc.fld d 2 1
def subop (d : Desc) : Nat := Desc.fld d 3 1
def len (d : Desc) : Nat := Desc.fld d 4 2
def rows (d : Desc) : Nat := Desc.fld d 4 2
def counter (d : Desc) : Nat := Desc.fld d 6 2
def handle (d : Desc) : Nat := Desc.fld d 8 8
def off (d : Desc) : Nat := Desc.fld d 16 6
def local_ (d : Desc) : Nat := Desc.fld d 24 8
def operand (d : Desc) : Nat := Desc.fld d 32 8
def operand2 (d : Desc) : Nat := Desc.fld d 40 8
def rowBytes (d : Desc) : Nat := Desc.fld d 32 4
def rStride (d : Desc) : Nat := Desc.fld d 40 8
def lStride (d : Desc) : Nat := Desc.fld d 48 8
/-- TAG, of an operation queue or of a copy channel. -/
def tag (i : Nat) (d : Desc) : Nat := if i < 32 then Desc.fld d 48 4 else Desc.fld d 56 4
def notify (d : Desc) : Bool := bitOf (flags d) 4
def counterValid (i : Nat) (d : Desc) : Bool := bitOf (flags d) (if i < 32 then 3 else 1)
def close (i : Nat) (d : Desc) : Bool := bitOf (flags d) (if i < 32 then 2 else 0)
def cache (d : Desc) : Bool := bitOf (flags d) 0
def own (d : Desc) : Bool := bitOf (flags d) 1

/-- Fields of a handle (R62). -/
def node (d : Desc) : Node := BitVec.ofNat 16 (handle d / 2 ^ 48)
def region (d : Desc) : Nat := handle d / 2 ^ 32 % 65536
def key (d : Desc) : BitVec 32 := BitVec.ofNat 32 (handle d)

end EpDesc

/-! ### Ports (R575 to R577) -/

/-- Port 2 names the ZE-208 itself: a request whose handle names this end point never leaves it (R564). -/
def epLoopPort : Fin 64 := 2

def epPortUp (e : Ep) (p : Nat) : Bool := if p = 0 then e.ep0 else if p = 1 then e.ep1 else true

/-- The port of a request, at its first transmission or, with the previous port, at a later one. -/
def epChoose (e : Ep) (p : Packet) (prev : Option Nat) : Option Nat :=
  if p.dst = e.nodeId then some 2
  else if isSwitch p.dst then (if epPortUp e (planeOf p.dst) then some (planeOf p.dst) else none)
  else match e.ep0, e.ep1 with
    | false, false => none
    | true, false => some 0
    | false, true => some 1
    | true, true =>
      match prev with
      | some q => some (1 - q)
      | none =>
        match e.xp.avoid.find? fun a => decide (a.1 = p.dst ∧ e.now < a.2.2) with
        | some a => some a.2.1
        | none => some (e.xp.rr % 2)

/-- Sends a packet on a port and a VC. -/
def epOutOn (s : State) (port : Nat) (vc : Fin 8) (p : Packet) : State :=
  if port = 2 then s.onEp fun e => { e with loop := e.loop ++ [p] }
  else if epPortUp s.ep port then epLeave s port vc p else s

/-- Sends a packet, which is no NACK, on a port. -/
def epOut (s : State) (port : Nat) (p : Packet) : State := epOutOn s port p.vc p

/-- A request packet of the ZE-208 (R185). -/
def epReq (e : Ep) (op : Byte) (dst : Node) (tenant : Tag) (key : BitVec 32) (region off len : Nat)
    (stream : Nat) (flags : Byte) (tag : BitVec 32) (payload : List Byte) : Packet :=
  { opcode := op, flags := flags, stream := BitVec.ofNat 8 stream, srcInc := 0, dstInc := 0, seq := 0
    dst := dst, src := e.nodeId, tenant := tenant, len := BitVec.ofNat 16 len, time := 0
    w20 := key, region := BitVec.ofNat 16 region, offset := BitVec.ofNat 48 off, payload := payload
    tag := tag, crc := 0 }

/-- Leaves a request to be injected. -/
def epSubmit (s : State) (cause : Cause) (p : Packet) : State :=
  s.onEp fun e => { e with xp := { e.xp with wait := e.xp.wait ++ [⟨p, 0, cause⟩] } }

/-! ### Die-to-die transactions (R545 to R549) -/

/-- Two spans of accelerator memory touch a common 64-byte line. -/
def sameLine (a n b m : Nat) : Bool := decide (a / 64 ≤ (b + m - 1) / 64 ∧ b / 64 ≤ (a + n - 1) / 64)

/-- Issues an MRD. -/
def epMrd (s : State) (addr len : Nat) (use : D2dUse) : State :=
  let t := s.ep.d2dTag
  (s.onEp fun e => { e with
    d2dTag := (t + 1) % 65536, d2d := e.d2d ++ [⟨t, true, addr, len, [], e.now, true, use⟩] }).emit (.mrd t addr len)

/-- Issues an MWR, or leaves it until no earlier MWR touches one of its lines (R548). -/
def epMwr (s : State) (addr : Nat) (data : List Byte) (use : D2dUse) : State :=
  let t := s.ep.d2dTag
  let n := data.length
  let waits := s.ep.d2d.any fun d => !d.isRead && sameLine d.addr d.len addr n
  let s := s.onEp fun e => { e with
    d2dTag := (t + 1) % 65536, d2d := e.d2d ++ [⟨t, false, addr, n, data, e.now, !waits, use⟩] }
  if waits then s else s.emit (.mwr t addr data)

/-- The first MWR that waits and need wait no longer. -/
def nextMwr : List D2d → List D2d → Option D2d
  | _, [] => none
  | before, d :: t =>
    if !d.isRead ∧ !d.sent ∧ before.all (fun b => b.isRead || !sameLine b.addr b.len d.addr d.len) then some d
    else nextMwr (before ++ [d]) t

/-- Sends the MWRs that need wait no longer. -/
def epMwrGo : Nat → State → State
  | 0, s => s
  | n + 1, s =>
    match nextMwr [] s.ep.d2d with
    | none => s
    | some d =>
      epMwrGo n ((s.onEp fun e => { e with
        d2d := e.d2d.map fun x => if x = d then { d with sent := true, issued := e.now } else x }).emit
          (.mwr d.tag d.addr d.data))

/-! ### Completion records (R562, R563) -/

def epRecord (kind : Byte) (st : Status) (i : Nat) (k : BitVec 32) (tag row : Nat) (value : BitVec 64) (t : Time) :
    List Byte :=
  [kind, st, BitVec.ofNat 8 i, BitVec.ofNat 8 ((k.toNat / epDepth i + 1) % 2)] ++ leBytes 4 tag
    ++ leBytes 4 k.toNat ++ leBytes 4 row ++ leBytes 8 value.toNat ++ leBytes 8 t

/-- Writes the record of an abort. -/
def epAbortRecord (s : State) (i : Nat) (k : BitVec 32) (tag : BitVec 32) (st : Status) : State :=
  epMwr s (s.ep.abortBase.toNat * 4096 + 32 * i) (epRecord 3 st i k tag.toNat 0 0 s.ep.now) (.abortRec i)

/-- The completion record of an operation has been written. -/
def recordOut (e : Ep) (o : EpOp) : Bool :=
  o.written && !e.d2d.any fun d => match d.use with
    | .record i k _ => i == o.i && k == o.k
    | _ => false

/-- The final status of an operation is decided: it sends nothing further. -/
def epDecide (s : State) (i : Nat) (k : BitVec 32) (st : Status) (row : Nat) : State :=
  onOp s i k fun o =>
    if o.status.isSome then o
    else { o with status := some st, row := row, decided := s.ep.now, stopped := true, toSend := [] }

def isFenceOp (d : Desc) : Bool := EpDesc.op d == 0x04 || EpDesc.op d == 0x14
def isContribOp (d : Desc) : Bool := EpDesc.op d == 0x12

/-- Nothing of an operation is unresolved. A CONTRIB that the round's last result has ended waits for no answer to its
contributions (R573), an aborted one does (R222). -/
def opQuiet (o : EpOp) : Bool :=
  decide (o.flushN = 0) && !o.reading
    && (decide (o.openN = 0) || (isContribOp o.desc && o.status.isSome && o.status != some stAborted))

/-- Every operation placed before an operation of its queue has reached its final status (R127): it is decided, and
nothing of it is unresolved. -/
def fenceReady (e : Ep) (o : EpOp) : Bool :=
  e.ops.all fun p => decide (p.i ≠ o.i) || (p.status.isSome && opQuiet p) || decide (p.k = o.k)
    || decide ((o.k - p.k).toNat ≥ 2 ^ 31)

/-- Operations that send packets without reading accelerator memory first. -/
def sendsDirect (d : Desc) : Bool :=
  EpDesc.op d == 0x01 || EpDesc.op d == 0x03 || EpDesc.op d == 0x07 || EpDesc.op d == 0x11

def counterTag (i : Nat) (d : Desc) : BitVec 32 :=
  BitVec.ofNat 32 (b2n (EpDesc.counterValid i d) * 2 ^ 31 + (if EpDesc.counterValid i d then EpDesc.counter d else 0))

/-- The packet of an operation that sends directly (R556, R560). -/
def directPacket (e : Ep) (i : Nat) (d : Desc) (off len : Nat) : Packet :=
  let mk := fun op (key : BitVec 32) off len flags tag payload =>
    epReq e op (EpDesc.node d) (epQ e i).binding key (EpDesc.region d) off len (EpDesc.stream d) flags tag payload
  if EpDesc.op d = 0x03 then
    let n := EpDesc.len d
    let pay := if EpDesc.subop d = 5 then leBytes (n / 2) (EpDesc.operand d) ++ leBytes (n / 2) (EpDesc.operand2 d)
      else leBytes n (EpDesc.operand d)
    mk opATOMIC (EpDesc.key d) off (n + EpDesc.subop d * 4096) 0 0 pay
  else if EpDesc.op d = 0x07 then
    mk opCOUNTERREAD (EpDesc.key d) 0 0 0 (BitVec.ofNat 32 (EpDesc.counter d)) []
  else if EpDesc.op d = 0x11 then mk opREAD (EpDesc.key d) off len 0 0 []
  else
    let whole := len = 64 ∧ off % 64 = 0
    -- without EP0 every access is uncached (R166)
    mk (if e.ep0 ∧ EpDesc.own d ∧ len = 64 then opREADOWN else opREAD) (EpDesc.key d) off len
      (if e.ep0 ∧ EpDesc.cache d ∧ whole then 8 else 0) (BitVec.ofNat 32 (EpDesc.operand d)) []

/-- The packet that carries local data (R556, R560). -/
def dataPacket (e : Ep) (i : Nat) (d : Desc) (off : Nat) (last : Bool) (data : List Byte) : Packet :=
  epReq e (if EpDesc.op d = 0x02 ∧ !last then opSTORE else opWRITE) (EpDesc.node d) (epQ e i).binding (EpDesc.key d)
    (EpDesc.region d) off data.length (EpDesc.stream d) (if last then 1 else 0) (counterTag i d) data

/-- Submits the packets of an operation that sends directly. -/
def sendDirect (s : State) (o : EpOp) : State :=
  let s := o.toSend.foldl (fun s x =>
    epSubmit s (.queue o.i o.k.toNat x.1 x.2.1 x.2.2.2) (directPacket s.ep o.i o.desc x.2.1 x.2.2.1)) s
  onOp s o.i o.k fun p => { p with toSend := [], openN := p.openN + o.toSend.length }

/-- Goes on with an operation: its packets or its next local read, its final status once everything is resolved,
and then its completion record (R548, R558, R561). -/
def epStep (s : State) (i : Nat) (k : BitVec 32) : State :=
  match epOp? s.ep i k with
  | none => s
  | some o =>
    match o.status with
    | some st =>
      if opQuiet o ∧ !o.written then
        let q := epQ s.ep i
        let kind : Byte := if i < 32 then 0x01 else 0x02
        epMwr (onOp s i k fun o => { o with written := true })
          (q.cqBase.toNat * 4096 + 32 * (k.toNat % epDepth i))
          (epRecord kind st i k (EpDesc.tag i o.desc) o.row o.value o.decided) (.record i k (EpDesc.notify o.desc))
      else s
    | none =>
      if isFenceOp o.desc then (if fenceReady s.ep o then epDecide s i k stOk 0 else s)
      else if isContribOp o.desc ∨ o.flushN ≠ 0 ∨ o.reading then s
      else match o.toSend with
        | (row, off, len, addr) :: rest =>
          if sendsDirect o.desc then sendDirect s o
          else
            epMrd (onOp s i k fun o => { o with toSend := rest, reading := true }) addr len
              (.opData i k row off (rest.isEmpty && EpDesc.close i o.desc))
        | [] =>
          if o.openN = 0 then
            match o.worst with
            | some (row, st) => epDecide s i k st row
            | none => epDecide s i k stOk 0
          else s

/-- Goes on with every operation, again until statuses decided in one pass have had their records written and have
let fences complete. -/
def epStepAll (s : State) : State :=
  let go := fun s : State => s.ep.ops.foldl (fun s o => epStep s o.i o.k) s
  go (go (go s))

/-- The worst outcome so far: the failing row of lowest index (R149). -/
def worse (w : Option (Nat × Status)) (row : Nat) (st : Status) : Option (Nat × Status) :=
  match w with
  | some (r, x) => if row < r then some (row, st) else some (r, x)
  | none => some (row, st)

/-! ### The line cache (R156 to R159, R569) -/

def epCacheKey (home : Node) (region off : Nat) : Nat := (home.toNat * 2 ^ 16 + region) * 2 ^ 48 + off / 64 * 64
def epCacheSet (c : CacheLine) : Nat := Config.cacheSet (epCacheKey c.home c.region.toNat c.offset) % 16384

def epLine? (e : Ep) (home : Node) (region off : Nat) : Option CacheLine :=
  e.cache.find? fun c => decide (c.home = home ∧ c.region.toNat = region ∧ c.offset = off / 64 * 64)

/-- The WRITEBACK of a line: its dirty bytes, or none (R169, R792). -/
def epWriteback (s : State) (c : CacheLine) (cause : Cause) (stream : Nat) : State :=
  epSubmit s cause (epReq s.ep opWRITEBACK c.home c.tenant c.key c.region.toNat c.offset 72 stream 0 0
    (leBytes 8 c.dirty.toNat ++ padTo 64 c.data))

/-- The same line of memory. -/
def CacheLine.same (c x : CacheLine) : Bool := decide (x.home = c.home ∧ x.region = c.region ∧ x.offset = c.offset)

/-- A line as it is entered: bytes that the cache holds dirty of it stay the newest. -/
def refilled (e : Ep) (c : CacheLine) : CacheLine :=
  match e.cache.find? fun x => c.same x && x.dirty != 0 with
  | some x => { c with data := maskMerge x.dirty.toNat c.data x.data, dirty := x.dirty ||| c.dirty }
  | none => c

/-- Enters a line, evicting the oldest of a full set of 16 (R569). -/
def epInsert (s : State) (c : CacheLine) : State :=
  let c := refilled s.ep c
  let s := s.onEp fun e => { e with
    cache := e.cache.filter fun x => !c.same x }
  let set := s.ep.cache.filter fun x => epCacheSet x == epCacheSet c
  let s := if set.length < 16 then s
    else match set with
      | [] => s
      | v :: _ =>
        let s := s.onEp fun e => { e with cache := e.cache.erase v }
        let s := if v.dirty ≠ 0 then s.onEp fun e => { e with evict := bump e.evict } else s
        if v.dirty ≠ 0 ∨ v.owned then epWriteback s v (.writeback 96 0 v) 0 else s
  s.onEp fun e => { e with cache := e.cache ++ [c] }

/-- Whether a cached line touches one of the spans of remote memory that an operation names. -/
def lineInRange (c : CacheLine) (home : Node) (region : Nat) (spans : List (Nat × Nat)) : Bool :=
  decide (c.home = home ∧ c.region.toNat = region) && spans.any fun x => decide (x.1 < c.offset + 64 ∧ c.offset < x.1 + x.2)

/-- Takes lines out of the cache before an operation: dirty bytes are written back and the operation waits for
that; the copies are dropped, or kept clean and SHARED (R158, R159, R168, R792). `zero` sends an all-zero mask
for a line held OWNED and clean. -/
def epTakeOut (s : State) (i : Nat) (k : BitVec 32) (home : Node) (region : Nat) (spans : List (Nat × Nat)) (stream : Nat)
    (keep zero : Bool) : State :=
  let ls := s.ep.cache.filter fun c => lineInRange c home region spans
  let back := ls.filter fun c => c.dirty != 0 || (zero && c.owned)
  let hit := fun c : CacheLine => lineInRange c home region spans
  let cleaned := fun c : CacheLine => if hit c then { c with dirty := 0, owned := false } else c
  let s := s.onEp fun e => { e with cache := if keep then e.cache.map cleaned else e.cache.filter fun c => !hit c }
  let s := back.foldl (fun s c => epWriteback s c (.writeback i k.toNat c) stream) s
  onOp s i k fun o => { o with flushN := o.flushN + back.length }

/-- A line held OWNED, or as a flush-mode copy outside the home cell, absorbs a store (R557, R158). -/
def absorbs (c : CacheLine) : Bool := c.owned || (!c.cell && !c.cast)

/-- The line that absorbs a WRITE of a queue, if any: it is held for the WRITE's tenant and key (log entry 44). Without
EP0 there is none (R166). DESIGN CHOICE (log entry 181): a WRITE that tags a counter is not absorbed, for only at its
destination is it counted (R131). -/
def absorber (e : Ep) (i : Nat) (d : Desc) (off len : Nat) : Option CacheLine :=
  if e.ep0 ∧ !EpDesc.close 0 d ∧ !EpDesc.counterValid 0 d ∧ len ≤ 64 ∧ off / 64 = (off + len - 1) / 64 then
    (epLine? e (EpDesc.node d) (EpDesc.region d) off).filter fun c =>
      absorbs c && c.tenant == (epQ e i).binding && c.key == EpDesc.key d
  else none

/-- Absorbs a store into a line (R120, R121). -/
def epAbsorb (s : State) (c : CacheLine) (off : Nat) (data : List Byte) : State :=
  let at_ := off % 64
  let c' := { c with
    data := patchBytes (padTo 64 c.data) at_ data
    dirty := c.dirty ||| BitVec.ofNat 64 ((2 ^ data.length - 1) <<< at_) }
  s.onEp fun e => { e with cache := e.cache.map fun x => if x = c then c' else x }

end Sys2Proof.Machine
end

