-- ==== Sys2Proof/Machine/EpOps.lean ====
section
/-! DEFINITION. Operations of the ZE-208's queues and channels (R552 to R564): taking, checks, resolution of
their packets and local accesses, aborts, and contributions (R573, R574). -/

namespace Sys2Proof.Machine

/-! ### Checks (R564) -/

def epOpDefined (i op : Nat) : Bool :=
  if i < 32 then decide (1 ≤ op ∧ op ≤ 7) else [0x10, 0x11, 0x12, 0x14].contains op

def epFormatBad (i : Nat) (d : Desc) : Bool :=
  let op := EpDesc.op d
  let n := EpDesc.len d
  !epOpDefined i op ||
  (decide (i < 32) &&
    ((decide (op = 1 ∨ op = 2) && decide (n < 1 ∨ n > 2048)) ||
     (decide (op = 3) && (decide (EpDesc.subop d > 9) ||
       (if EpDesc.subop d = 5 then decide ((n ≠ 8 ∧ n ≠ 16) ∨ EpDesc.off d % (n / 2) ≠ 0)
        else decide ((n ≠ 4 ∧ n ≠ 8) ∨ EpDesc.off d % n ≠ 0))))))

def epReservedBad (i : Nat) (d : Desc) : Bool :=
  if i < 32 then decide (Desc.fld d 22 2 ≠ 0 ∨ bitsOf (EpDesc.flags d) 5 3 ≠ 0 ∨ Desc.fld d 52 12 ≠ 0)
  else decide (((EpDesc.op d = 0x10 ∨ EpDesc.op d = 0x11) ∧ Desc.fld d 22 2 ≠ 0)
    ∨ bitsOf (EpDesc.flags d) 2 2 ≠ 0 ∨ bitsOf (EpDesc.flags d) 5 3 ≠ 0 ∨ Desc.fld d 3 1 ≠ 0 ∨ Desc.fld d 36 4 ≠ 0
    ∨ Desc.fld d 60 4 ≠ 0)

/-- Sizes of a binding's elements (R572). -/
def RBinding.inSize (b : RBinding) : Nat := if b.sizes.toNat % 16 = 0 then 48 else b.sizes.toNat % 16
def RBinding.outSize (b : RBinding) : Nat := if b.sizes.toNat / 16 = 0 then 48 else b.sizes.toNat / 16

/-- E of R381. In tree mode the working format of 2-byte results is FP32; the binding does not say the mode, so it
is a free choice. -/
def RBinding.chunkE (b : RBinding) : Nat :=
  let m := Nat.max b.inSize b.outSize
  let m := if m = 2 ∧ !Config.groupExact b.host.toNat b.group.toNat then 4 else m
  2048 / m

/-- Chunks in a round, and the first g beyond the running round. -/
def RBinding.chunks (b : RBinding) : Nat := (b.elements + b.chunkE - 1) / b.chunkE
def RBinding.limit (b : RBinding) : Nat := b.chunks * (b.round - b.base + 1)

def contribBinding (d : Desc) : Nat := EpDesc.handle d % 64

/-- Bytes of accelerator memory from LOCAL that an operation touches. -/
def localSpan (e : Ep) (i : Nat) (d : Desc) : Nat :=
  let op := EpDesc.op d
  if i < 32 then
    if op = 1 ∨ op = 2 then EpDesc.len d
    else if op = 3 then (if EpDesc.subop d = 5 then EpDesc.len d / 2 else EpDesc.len d)
    else if op = 7 then 8 else 0
  else if op = 0x10 ∨ op = 0x11 then (EpDesc.rows d - 1) * EpDesc.lStride d + EpDesc.rowBytes d
  else if op = 0x12 then
    match e.binds.get? (contribBinding d) with
    | some b => b.elements * b.inSize
    | none => 0
  else 0

/-- Reserved and range checks. DESIGN CHOICE (log entry 182): a FLUSH or INVAL of more than 2^48 bytes (R168) ends
here too, for R564 names no status of its own for it. -/
def epRangeBad (e : Ep) (i : Nat) (d : Desc) : Bool :=
  let op := EpDesc.op d
  epReservedBad i d ||
  (decide (op = 0x05 ∨ op = 0x06) && decide (i < 32) && decide (EpDesc.operand d > 2 ^ 48)) ||
  (!isFenceOp d && !isContribOp d && !nodeLegal (EpDesc.node d)) ||
  (isContribOp d && decide (EpDesc.handle d / 64 ≠ 0)) ||
  (decide (op = 0x10 ∨ op = 0x11) &&
    decide (EpDesc.rows d < 1 ∨ EpDesc.rows d > 4096 ∨ EpDesc.rowBytes d < 1 ∨ EpDesc.rowBytes d > 65536
      ∨ EpDesc.rStride d < EpDesc.rowBytes d ∨ EpDesc.lStride d < EpDesc.rowBytes d
      ∨ EpDesc.off d + (EpDesc.rows d - 1) * EpDesc.rStride d + EpDesc.rowBytes d > 2 ^ 48)) ||
  decide (EpDesc.local_ d + localSpan e i d > 2 ^ 64)

/-- The node that an operation addresses. -/
def epTarget (e : Ep) (d : Desc) : Option Node :=
  if isFenceOp d then none
  else if isContribOp d then (e.binds.get? (contribBinding d)).map RBinding.host
  else some (EpDesc.node d)

def epLost (e : Ep) (d : Desc) : Bool :=
  match epTarget e d with
  | some n => isSwitch n && !epPortUp e (planeOf n)
  | none => false

/-- The failure table of R564. A CONTRIB of a binding that is not VALID ends with KEY_MISMATCH. -/
def epCheck (e : Ep) (i : Nat) (d : Desc) : Option Status :=
  firstFail [
    (epFormatBad i d, stFormatUnsupported),
    (epRangeBad e i d, stOutOfRange),
    (epLost e d, stDestLost),
    (isContribOp d && !e.binds.has (contribBinding d), stKeyMismatch)]

/-! ### Starting -/

/-- Cuts a row at 2 KiB boundaries of the remote offset (R148, R560). -/
def cutRow (row off len addr : Nat) : List (Nat × Nat × Nat × Nat) :=
  if len = 0 then []
  else (List.range ((off + len - 1) / 2048 - off / 2048 + 1)).map fun j =>
    let lo := Nat.max off ((off / 2048 + j) * 2048)
    let hi := Nat.min (off + len) ((off / 2048 + j + 1) * 2048)
    (row, lo, hi - lo, addr + (lo - off))

def tileRows (d : Desc) : List (Nat × Nat × Nat × Nat) :=
  (List.range (EpDesc.rows d)).flatMap fun r =>
    cutRow r (EpDesc.off d + r * EpDesc.rStride d) (EpDesc.rowBytes d) (EpDesc.local_ d + r * EpDesc.lStride d)

/-- The remote spans of a tile. -/
def tileSpans (d : Desc) : List (Nat × Nat) :=
  (List.range (EpDesc.rows d)).map fun r => (EpDesc.off d + r * EpDesc.rStride d, EpDesc.rowBytes d)

/-- The cached line that a READ may be served from (R157). -/
def cacheHit (e : Ep) (i : Nat) (d : Desc) : Option CacheLine :=
  if e.ep0 ∧ EpDesc.cache d ∧ EpDesc.len d = 64 ∧ EpDesc.off d % 64 = 0 then
    (epLine? e (EpDesc.node d) (EpDesc.region d) (EpDesc.off d)).filter fun c =>
      c.tenant == (epQ e i).binding && c.key == EpDesc.key d && c.version == BitVec.ofNat 32 (EpDesc.operand d)
        && (!EpDesc.own d || c.owned)
  else none

/-- Starts an operation that has passed its checks. -/
def epStart (s : State) (i : Nat) (k : BitVec 32) (d : Desc) : State :=
  let op := EpDesc.op d
  let n := EpDesc.node d
  let ri := EpDesc.region d
  let off := EpDesc.off d
  let send := fun (s : State) l => onOp s i k fun o => { o with toSend := l }
  let one := fun len => [(0, off, len, EpDesc.local_ d)]
  if op = 0x01 then
    match cacheHit s.ep i d with
    | some c => epMwr (onOp s i k fun o => { o with openN := 1 }) (EpDesc.local_ d) c.data (.opLand i k 0 64)
    | none => send s (one (EpDesc.len d))
  else if op = 0x02 then
    let s := if (absorber s.ep i d off (EpDesc.len d)).isSome then s
      else epTakeOut s i k n ri [(off, EpDesc.len d)] (EpDesc.stream d) false false
    send s (one (EpDesc.len d))
  else if op = 0x03 then
    send (epTakeOut s i k n ri [(off, localSpan s.ep i d)] (EpDesc.stream d) false false) (one (localSpan s.ep i d))
  else if op = 0x05 then epTakeOut s i k n ri [(off, EpDesc.operand d)] (EpDesc.stream d) true true
  else if op = 0x06 then epTakeOut s i k n ri [(off, EpDesc.operand d)] (EpDesc.stream d) false true
  else if op = 0x07 then send s (one 8)
  else if op = 0x10 ∨ op = 0x11 then
    send (epTakeOut s i k n ri (tileSpans d) (EpDesc.stream d) false false) (tileRows d)
  else if op = 0x12 then
    s.onEp fun e => { e with binds := e.binds.modify (contribBinding d) fun b => { b with lastLand := e.now } }
  else s

/-! ### Contributions (R383, R385, R573) -/

/-- The CONTRIB in progress on a binding. -/
def contribOp (e : Ep) (b : Nat) : Option EpOp :=
  e.ops.find? fun o => isContribOp o.desc && decide (contribBinding o.desc = b) && o.status.isNone

/-- First element, elements of a chunk of a binding's running count. -/
def chunkSpan (b : RBinding) (g : Nat) : Nat × Nat :=
  let c := g % b.chunks
  (c * b.chunkE, Nat.min b.chunkE (b.elements - c * b.chunkE))

/-- Reads the next chunk inside the window from accelerator memory. -/
def contribGo (s : State) (j : Nat) : State :=
  match contribOp s.ep j, s.ep.binds.get? j with
  | some o, some b =>
    if b.chunks ≠ 0 ∧ b.sent < b.limit ∧ b.sent < b.done + b.slots ∧ !o.reading then
      let (el, n) := chunkSpan b b.sent
      epMrd (onOp s o.i o.k fun o => { o with reading := true })
        (EpDesc.local_ o.desc + el * b.inSize) (n * b.inSize) (.contribRd j o.i o.k b.sent false)
    else s
  | _, _ => s

/-- The REDUCE_CONTRIB of a chunk (R383). -/
def contribPacket (e : Ep) (b : RBinding) (o : EpOp) (g : Nat) (data : List Byte) : Packet :=
  let el := (chunkSpan b g).1
  let round := b.base + g / b.chunks
  epReq e opCONTRIB b.host (epQ e o.i).binding b.key (b.group.toNat % 1024)
    (b.rank * 2 ^ 36 + round % 256 * 2 ^ 28 + el) data.length (EpDesc.stream o.desc) 0 0 data

/-- Packets of an operation that wait to be injected. -/
def waitingOf (e : Ep) (i : Nat) (k : BitVec 32) : List Submit :=
  e.xp.wait.filter fun w => match w.cause with
    | .queue a b _ _ _ => a == i && b == k.toNat
    | .writeback a b _ => a == i && b == k.toNat
    | .contrib _ _ a b => a == i && b == k.toNat
    | _ => false

/-- The lines whose write-backs are among waiting packets. -/
def waitingLines (ws : List Submit) : List CacheLine :=
  ws.filterMap fun w => match w.cause with
    | .writeback _ _ c => some c
    | _ => none

/-- Takes back the packets of an operation that wait to be injected (R222, R561); lines that were on their way home are
held again. -/
def dropWaiting (s : State) (i : Nat) (k : BitVec 32) : State :=
  let ws := waitingOf s.ep i k
  let ls := waitingLines ws
  let s := onOp (s.onEp fun e => { e with xp := { e.xp with wait := e.xp.wait.filter fun w => !ws.contains w } }) i k fun o =>
    { o with openN := o.openN - (ws.length - ls.length), flushN := o.flushN - ls.length }
  ls.foldl epInsert s

/-- A chunk's data have come. -/
def contribData (s : State) (j : Nat) (i : Nat) (k : BitVec 32) (g : Nat) (probe ok : Bool) (data : List Byte) : State :=
  let s := if probe then s else onOp s i k fun o => { o with reading := false }
  match epOp? s.ep i k, s.ep.binds.get? j with
  | some o, some b =>
    if o.status.isSome then s
    else if !ok then epDecide s i k stInternal 0
    else
      let s := epSubmit (onOp s i k fun o => { o with openN := o.openN + 1 }) (.contrib j g i k.toNat)
        (contribPacket s.ep b o g data)
      if probe then s
      else contribGo (s.onEp fun e => { e with binds := e.binds.modify j fun b => { b with sent := b.sent + 1 } }) j
  | _, _ => s

/-- A contribution is resolved (R574); one that fails ends its CONTRIB, which sends nothing further. -/
def contribResolved (s : State) (i : Nat) (k : BitVec 32) (st : Status) : State :=
  let s := onOp s i k fun o => { o with openN := o.openN - 1 }
  if st = stOk ∨ st = stAlreadyDone then s else epDecide (dropWaiting s i k) i k st 0

/-- Moves the landed prefix on. -/
def landedOn : Nat → RBinding → RBinding
  | 0, b => b
  | n + 1, b =>
    if b.landed.contains b.done then landedOn n { b with done := b.done + 1, landed := b.landed.filter (· != b.done) } else b

/-- The chunk number that a result's SEQ names, nearest the window (R394, R396). -/
def resultG (b : RBinding) (seq : BitVec 24) : Nat := b.done + (seq - BitVec.ofNat 24 b.done).toNat

/-- A result has landed: the window moves, and the round's last chunk completes the CONTRIB (R573). -/
def resultLanded (s : State) (j : Nat) (p : Packet) : State :=
  match s.ep.binds.get? j with
  | none => s
  | some b =>
    let g := resultG b p.seq
    let fresh := decide (g - b.done < 2 ^ 23) && !b.landed.contains g
    let b := if fresh then landedOn (b.landed.length + 1) { b with landed := b.landed ++ [g] } else b
    let b := { b with lastLand := s.ep.now }
    let past := decide (b.done ≥ b.limit) && (contribOp s.ep j).isSome
    let s := s.onEp fun e => { e with
      counters := if b.counter < 4096 then
          e.counters.set b.counter (bump (e.counters.getD b.counter 0) p.lenBytes) else e.counters
      binds := e.binds.set j (if past then { b with round := b.round + 1 } else b) }
    if past then
      match contribOp s.ep j with
      | some o => epDecide s o.i o.k stOk 0
      | none => s
    else contribGo s j

/-! ### Resolution of an operation's packets -/

def closeOne (s : State) (i : Nat) (k : BitVec 32) (fail : Option (Nat × Status)) : State :=
  onOp s i k fun o => { o with
    openN := o.openN - 1
    worst := match fail with
      | some (row, st) => if o.stopped then o.worst else worse o.worst row st
      | none => o.worst }

/-- A cacheable reply enters the line cache (R157, R166). A line outside the home cell that names a version is a cast copy. -/
def cacheReply (s : State) (d : Desc) (q : EpQueue) (p : Packet) : State :=
  if s.ep.ep0 ∧ EpDesc.cache d ∧ EpDesc.op d = 0x01 ∧ EpDesc.len d = 64 ∧ EpDesc.off d % 64 = 0 ∧ p.cacheable then
    let v : BitVec 32 := BitVec.ofNat 32 (EpDesc.operand d)
    epInsert s {
      home := EpDesc.node d, region := BitVec.ofNat 16 (EpDesc.region d), offset := EpDesc.off d
      tenant := q.binding, key := EpDesc.key d, cell := EpDesc.node d == s.ep.cellNode, owned := p.ownedBit
      flush := !(EpDesc.node d == s.ep.cellNode) && v == 0, version := v, cast := v != 0, data := p.payload, dirty := 0 }
  else s

/-- A packet of a queue's operation is resolved with a status; a reply carries data (R556, R558, R560). -/
def queueResolved (s : State) (i : Nat) (k : BitVec 32) (row laddr : Nat) (st : Status) (p : Packet) : State :=
  match epOp? s.ep i k with
  | none => s
  | some o =>
    if st ≠ stOk then closeOne s i k (some (row, st))
    else if sendsDirect o.desc then
      let s := if o.noFill then s else cacheReply s o.desc (epQ s.ep i) p
      let s := if EpDesc.op o.desc = 0x03 ∨ EpDesc.op o.desc = 0x07 then
          onOp s i k fun o => { o with value := BitVec.ofNat 64 (leNat p.payload) } else s
      epMwr s laddr p.payload (.opLand i k row p.payload.length)
    else closeOne s i k none

/-- A write-back is resolved. FLUSH and INVAL end with its failure. -/
def writebackResolved (s : State) (i : Nat) (k : BitVec 32) (st : Status) : State :=
  onOp s i k fun o => { o with
    flushN := o.flushN - 1
    worst := if st ≠ stOk ∧ (EpDesc.op o.desc = 0x05 ∨ EpDesc.op o.desc = 0x06) then worse o.worst 0 st else o.worst }

/-- Data read from accelerator memory for a packet (R549, R557, R561). -/
def opDataGot (s : State) (i : Nat) (k : BitVec 32) (row off : Nat) (last ok : Bool) (data : List Byte) : State :=
  let s := onOp s i k fun o => { o with reading := false }
  match epOp? s.ep i k with
  | none => s
  | some o =>
    if o.status.isSome then s
    else if !ok then
      onOp (dropWaiting s i k) i k fun o => { o with toSend := [], stopped := true, worst := some (row, stInternal) }
    else
      match (if EpDesc.op o.desc = 0x02 then absorber s.ep i o.desc off data.length else none) with
      | some c => epAbsorb s c off data
      | none =>
        let s := if EpDesc.op o.desc = 0x02 then
            epTakeOut s i k (EpDesc.node o.desc) (EpDesc.region o.desc) [(off, data.length)] (EpDesc.stream o.desc) false false
          else s
        epSubmit (onOp s i k fun o => { o with openN := o.openN + 1 }) (.queue i k.toNat row off 0)
          (dataPacket s.ep i o.desc off last data)

/-- Data written to accelerator memory for an operation (R558, R560). -/
def opLanded (s : State) (i : Nat) (k : BitVec 32) (row bytes : Nat) (ok : Bool) : State :=
  match epOp? s.ep i k with
  | none => s
  | some o =>
    if !ok then closeOne s i k (some (row, stInternal))
    else
      let c := EpDesc.counter o.desc
      let s := if EpDesc.op o.desc = 0x11 ∧ EpDesc.counterValid i o.desc ∧ c < 4096 then
          s.onEp fun e => { e with counters := e.counters.set c (bump (e.counters.getD c 0) bytes) } else s
      closeOne s i k none

/-- An operation's completion record has been written: it leaves the table, or, aborted before its slot was taken,
stays until the slot is passed. NOTIFY and a waiting abort follow. -/
def recordDone (s : State) (i : Nat) (k : BitVec 32) (notify : Bool) : State :=
  let o := (epOp? s.ep i k).getD default
  let s := if (k - (epQ s.ep i).taken).toNat < epDepth i then s else dropOp s i k
  let s := if notify then s.emit (.intr i) else s
  match o.abortTag with
  | some t => epAbortRecord s i k t stAlreadyDone
  | none => s

/-! ### Taking a slot (R552 to R554) -/

/-- Whether an operation lets the next one of its queue start: nothing of it is left to send, and it is no fence
that has yet to complete. -/
def opInjected (e : Ep) (o : EpOp) : Bool :=
  o.status.isSome ||
    (!isFenceOp o.desc && o.toSend.isEmpty && !o.reading
      && (decide (o.flushN = 0) || decide (EpDesc.op o.desc = 0x05 ∨ EpDesc.op o.desc = 0x06))
      && (!isContribOp o.desc || (match e.binds.get? (contribBinding o.desc) with
          | some b => decide (b.sent ≥ b.limit)
          | none => true)))

def epTakeable (e : Ep) (i : Nat) : Bool :=
  let q := epQ e i
  let n := (q.prod - q.taken).toNat
  q.state == .enabled && decide (1 ≤ n ∧ n ≤ epDepth i)
    && (epOp? e i (q.taken - BitVec.ofNat 32 (epDepth i))).isNone
    && e.ops.all fun o => decide (o.i ≠ i) || o.k == q.taken || opInjected e o

def EpOp.fresh (i : Nat) (k : BitVec 32) (d : Desc) : EpOp := { (default : EpOp) with i := i, k := k, desc := d }

/-- The descriptor in the slot that is next. -/
def epNext (e : Ep) (i : Nat) : Desc := (epQ e i).slots.getD ((epQ e i).taken.toNat % epDepth i) 0

/-- Takes the next slot of a queue whose OP is `op`, or is undefined: an undefined OP may be taken under any row. -/
def epTake (s : State) (i op : Nat) : State :=
  let q := epQ s.ep i
  let d := epNext s.ep i
  if !epTakeable s.ep i then s
  else if (epOp? s.ep i q.taken).isSome then   -- aborted before it was taken
    let s := if (epOp? s.ep i q.taken).any (recordOut s.ep) then dropOp s i q.taken else s
    epStepAll (onEpQ s i fun q => { q with taken := q.taken + 1 })
  else if EpDesc.op d ≠ op ∧ epOpDefined i (EpDesc.op d) then s
  else if isContribOp d ∧ (contribOp s.ep (contribBinding d)).isSome then s
  else
    let k := q.taken
    let s := onEpQ s i fun q => { q with taken := q.taken + 1 }
    let s := s.onEp fun e => { e with ops := e.ops ++ [EpOp.fresh i k d] }
    match epCheck s.ep i d with
    | some st => epStepAll (epDecide s i k st 0)
    | none =>
      let s := epStart s i k d
      epStepAll (if isContribOp d then contribGo s (contribBinding d) else s)

/-! ### Doorbells (R552, R553, R563) -/

/-- Writes descriptors into the slots from an index on. -/
def writeSlots (q : EpQueue) (depth : Nat) (k : BitVec 32) : List Desc → EpQueue
  | [] => q
  | d :: t => writeSlots { q with slots := q.slots.set (k.toNat % depth) d } depth (k + 1) t

/-- PROD: the slots from the old PROD on were written before it. -/
def prodDoorbell (s : State) (i : Nat) (prod : BitVec 32) (ds : List Desc) : State :=
  let s := onEpQ s i fun q => writeSlots q (epDepth i) q.prod ds
  let q := epQ s.ep i
  if q.state = .disabled then badDoorbell s
  else onEpQ s i fun q => { q with
    prod := prod, state := if (prod - q.taken).toNat > epDepth i then .halted else q.state }

/-- The row of a waiting packet of an operation's own. -/
def waitRow (w : Submit) : Option Nat := match w.cause with
  | .queue _ _ r _ _ => some r
  | _ => none

/-- The first row of an operation not yet injected, when any of it is left (R222). A FLUSH, an INVAL and a CONTRIB name
row 0. -/
def firstRow (e : Ep) (o : EpOp) : Option Nat :=
  let left := !(waitingOf e o.i o.k).isEmpty
  let rows := (waitingOf e o.i o.k).filterMap waitRow ++ o.toSend.map (·.1)
    ++ (e.d2d.filterMap fun d => match d.use with
      | .opData i k row _ _ => if i = o.i ∧ k = o.k then some row else none
      | _ => none)
  if isFenceOp o.desc then some 0
  else if isContribOp o.desc then (if opInjected e o ∧ !left then none else some 0)
  else match rows with
    | [] => if left then some 0 else none
    | r :: t => some (t.foldl Nat.min r)

/-- ABORT (R222, R223, R563). -/
def abortDoorbell (s : State) (i : Nat) (target tag : BitVec 32) : State :=
  let e := s.ep
  let q := epQ e i
  let pending := e.d2d.any (fun d => d.use == .abortRec i) || e.ops.any fun o => o.i == i && o.abortTag.isSome
  let back := (q.prod - target).toNat
  if q.state = .disabled ∨ pending then badDoorbell s
  else if back < 1 ∨ back > epDepth i then epAbortRecord s i target tag stOutOfRange
  else match epOp? e i target with
    | none =>
      if back ≤ (q.prod - q.taken).toNat then
        let d := q.slots.getD (target.toNat % epDepth i) 0
        let s := s.onEp fun e => { e with ops := e.ops ++ [EpOp.fresh i target d] }
        epStepAll (epAbortRecord (epDecide s i target stAborted 0) i target tag stOk)
      else epAbortRecord s i target tag stAlreadyDone
    | some o =>
      if recordOut e o then epAbortRecord s i target tag stAlreadyDone
      else if o.status.isSome then onOp s i target fun o => { o with abortTag := some tag }
      else match firstRow e o with
        | none => onOp s i target fun o => { o with abortTag := some tag }
        | some row =>
          epStepAll (epAbortRecord (epDecide (dropWaiting s i target) i target stAborted row) i target tag stOk)

end Sys2Proof.Machine
end

