-- ==== Sys2Proof/Machine/EpServe.lean ====
section
/-! DEFINITION. Requests that the ZE-208 serves: fabric accesses to accelerator memory, closing writes, snoops and
reduction results (R565, R566, R569, R571, R396). -/

namespace Sys2Proof.Machine

/-! ### Answers -/

/-- Sends an answer on the port on which its request arrived (R575), on its VC (R190). -/
def epRespond (s : State) (a : Arrival) (p : Packet) : State := epOutOn s a.port.val (p.vcFor a.pkt.opcode) p

/-- An answer to a result: an ACK echoes REGION and OFFSET (R396), and every answer comes from this node. -/
def resultAnswer (s : State) (p : Packet) (op : Byte) (st : Status) : Packet :=
  let r := answer s.ep.now p op st false false []
  Packet.sealed { r with
    src := s.ep.nodeId, srcInc := incOf s.ep.xp.inc s.ep.nodeId, dstInc := 0
    region := if op = opACK then p.region else 0, offset := if op = opACK then p.offset else 0 }

def epAck (s : State) (p : Packet) (st : Status) : Packet := answer s.ep.now p opACK st false false []
def epNack (s : State) (p : Packet) (st : Status) : Packet := answer s.ep.now p opNACK st false false []
def epHold (s : State) (p : Packet) : Packet :=
  if p.opcode = opRESULT then resultAnswer s p opHOLD stOk else answer s.ep.now p opHOLD stOk false false []

def onEpXp (s : State) (f : Xport → Xport) : State := s.onEp fun e => { e with xp := f e.xp }

/-- Ends a request at the ZE-208. -/
def epFinish (s : State) (a : Arrival) (st : Status) (ans : Packet) (keep : Bool) : State :=
  let s := onEpXp s fun x =>
    { x.setDst a.pkt.src (dstFinish (x.dstOf a.pkt.src) a.pkt st (if keep then some ans else none)) with
      busy := x.busy.filter fun b => b.arr != a }
  epRespond s a ans

def epRefuse (s : State) (a : Arrival) (st : Status) : State := epFinish s a st (epNack s a.pkt st) false

/-- MSG values that a ZE-208 receives (R192). -/
def epMsgs : List Nat := [0xA0, 0xA1]

/-- Steps 1 to 5 of R201 at the ZE-208. Until it is CONFIGURED it takes only MGMT packets, which name a node ID and
an incarnation that it may not have yet (R582, R601). -/
def epAdmit (s : State) (p : Packet) : Admit :=
  let x := s.ep.xp
  if !s.ep.configured then (if p.crcOk ∧ p.opcode = opMGMT then window (x.dstOf p.src) p else .discard)
  else if p.crcOk && p.dst != s.ep.nodeId then .discard
  else match admitHead x.inc s.ep.now p with
    | some r => r
    | none => window (x.dstOf p.src) p

/-- Steps 1 to 6 of R201 at the ZE-208. -/
def epReceive (s : State) (a : Arrival) (go : State → State) : State :=
    let r := epAdmit s a.pkt
    match r with
    | .discard => s
    | .nack st => epRespond s a (epNack s a.pkt st)
    | .hold => epRespond s a (epHold s a.pkt)
    | .ackAgain => epRespond s a (epAck s a.pkt stOk)
    | .cached r => epRespond s a (reanswer s.ep.now a.pkt r)
    | .go d =>
      let s := onEpXp s fun x => { x.setDst a.pkt.src d with busy := x.busy ++ [⟨a, s.ep.now, none⟩] }
      if malformed a.pkt mgmtMsgs.contains then epRefuse s a stFormatUnsupported else go s

/-! ### Checks (R565, R787) -/

/-- Checks 1 to 5 against the local range entry. -/
def epRights (e : Ep) (p : Packet) (k : Nat) : Except Status EpEntry :=
  match (if p.region.toNat < 4096 then e.ranges.get? p.region.toNat else none) with
  | none => .error stKeyMismatch
  | some r =>
    if r.destroying then .error stKeyMismatch
    else if !(p.key == r.keyCurrent || (r.graceOpen && p.key == r.keyPrevious)) then .error stKeyMismatch
    else if tagOf p.tenant ≠ r.tenant then .error stTenantDenied
    else if k = 0 ∧ !r.rights.getLsbD 0 then .error stTenantDenied
    else if (k = 1 ∧ !r.rights.getLsbD 1) ∨ (k = 2 ∧ !r.rights.getLsbD 2) then .error stReadOnly
    else .ok r

/-- All checks; `k` is 0 for a read, 1 for a write, 2 for an atomic. -/
def epAccess (e : Ep) (p : Packet) (k len : Nat) : Except Status EpEntry :=
  match epRights e p k with
  | .error st => .error st
  | .ok r => if p.off + len > r.length then .error stOutOfRange else .ok r

/-! ### Accesses (R566) -/

/-- Kind and length of an access, for its checks. -/
def accessOf (p : Packet) : Nat × Nat :=
  if p.opcode = opREAD ∨ p.opcode = opREADOWN then (0, p.lenBytes)
  else if p.opcode = opATOMIC then (2, atomicSize p)
  else if p.opcode = opWRITEBACK then (1, 64)
  else (1, p.lenBytes)

/-- The 64-byte line of an atomic's operand. -/
def atomLine (addr : Nat) : Nat := addr / 64 * 64

/-- Whether an access must wait: for the pair of an atomic on a line of it, and an atomic also for writes
outstanding to its line. -/
def mustWait (e : Ep) (p : Packet) (addr len : Nat) : Bool :=
  e.atomLines.any (fun l => sameLine l 64 addr len) ||
    (p.opcode == opATOMIC && e.d2d.any fun d => !d.isRead && sameLine d.addr d.len addr len)

/-- Contiguous runs of a byte mask within a line: first byte and length. -/
def maskRuns (m : Nat) : List (Nat × Nat) :=
  (bitList m 64).foldl (fun acc i =>
    match acc.getLast? with
    | some (a, n) => if a + n = i then acc.dropLast ++ [(a, n + 1)] else acc ++ [(i, 1)]
    | none => [(i, 1)]) []

/-- A write has landed, or failed (R119, R549): the count, and the answer. DESIGN CHOICE (log entry 183): a write that
tags a counter of 4,096 or more, which the ZE-208 does not hold, counts nowhere. -/
def epWriteDone (s : State) (a : Arrival) (ok : Bool) (bytes : Nat) : State :=
  let p := a.pkt
  if !ok then epRefuse s a stInternal
  else
    let s := if p.counterValid ∧ p.counter < 4096 then
        s.onEp fun e => { e with counters := e.counters.set p.counter (bump (e.counters.getD p.counter 0) bytes) }
      else s
    epFinish s a stOk (epAck s p stOk) false

/-- Bytes that a write names. -/
def writeBytes (p : Packet) : Nat := if p.opcode = opWRITEBACK then maskCount64 (fieldAt p.payload 0 8) else p.lenBytes
where maskCount64 (m : Nat) : Nat := (bitList m 64).length

/-- Runs an access that has passed its checks, at an accelerator address. -/
def epRun (s : State) (a : Arrival) (addr : Nat) : State :=
  let p := a.pkt
  let (_, len) := accessOf p
  if mustWait s.ep p addr len then s.onEp fun e => { e with waitReqs := e.waitReqs ++ [a] }
  else if p.opcode = opREAD ∨ p.opcode = opREADOWN then epMrd s addr len (.serveRead a)
  else if p.opcode = opATOMIC then
    epMrd (s.onEp fun e => { e with atomLines := e.atomLines ++ [atomLine addr] }) (atomLine addr) 64 (.serveAtomRd a)
  else if p.opcode = opWRITEBACK then
    let runs := maskRuns (fieldAt p.payload 0 8)
    if runs = [] then epWriteDone s a true 0
    else runs.foldl (fun s r => epMwr s (addr + r.1) ((p.payload.drop (8 + r.1)).take r.2) (.serveWrite a runs.length)) s
  else epMwr s addr p.payload (.serveWrite a 1)

/-- A request from step 7 on. -/
def epServe (s : State) (a : Arrival) : State :=
  let (k, len) := accessOf a.pkt
  match epAccess s.ep a.pkt k len with
  | .error st => epRefuse s a st
  | .ok r => epRun s a (r.base.toNat + a.pkt.off)

/-- Goes on with a request that waited; it keeps the address of its lookup, its entry being there until it is done. -/
def epRerun (s : State) (a : Arrival) : State :=
  match s.ep.ranges.get? a.pkt.region.toNat with
  | none => epRefuse s a stKeyMismatch
  | some r => epRun s a (r.base.toNat + a.pkt.off)

/-- Retries every request that waits on an atomic, in order. -/
def epWaitGo (s : State) : State :=
  let l := s.ep.waitReqs
  l.foldl epRerun (s.onEp fun e => { e with waitReqs := [] })

/-- COUNTER_READ at the ZE-208 (R787). -/
def epCounterRead (s : State) (a : Arrival) : State :=
  match epRights s.ep a.pkt 0 with
  | .error st => epRefuse s a st
  | .ok _ =>
    if a.pkt.counter ≥ 4096 then epRefuse s a stOutOfRange
    else epFinish s a stOk (answer s.ep.now a.pkt opCOUNTERREPLY stOk false false
      (leBytes 8 (s.ep.counters.getD a.pkt.counter 0).toNat)) false

/-- A closing write at the ZE-208: refused at once, or held with a HOLD (R208, R571, R793). -/
def epClosing (s : State) (a : Arrival) : State :=
  let (k, len) := accessOf a.pkt
  match epAccess s.ep a.pkt k len with
  | .error st => epRefuse s a st
  | .ok _ =>
    let s := onEpXp s fun x => { x with cw := x.cw ++ [(a, s.ep.now)] }
    if mayClose s.ep.xp a then s
    else
      epRespond (onEpXp s fun x => { x with
        busy := x.busy.map fun b => if b.arr = a then { b with lastHold := some s.ep.now } else b }) a (epHold s a.pkt)

/-! ### Local accesses that end -/

/-- An MRD of a served request ends (R549, R566). -/
def serveMrd (s : State) (a : Arrival) (atom ok : Bool) (data : List Byte) : State :=
  let p := a.pkt
  if !atom then
    if ok then epFinish s a stOk (answer s.ep.now p opREADREPLY stOk false false data) false
    else epRefuse s a stInternal
  else
    let addr := match s.ep.ranges.get? p.region.toNat with
      | some r => r.base.toNat + p.off
      | none => 0
    if !ok then
      epWaitGo ((epRefuse s a stInternal).onEp fun e => { e with atomLines := e.atomLines.erase (atomLine addr) })
    else
      let n := atomicSize p
      let old := (data.drop (addr % 64)).take n
      let new := leBytes n (atomicNew p.subop n (leNat old) p.payload)
      epMwr s (atomLine addr) (patchBytes (padTo 64 data) (addr % 64) new) (.serveAtomWr a old)

/-- An MWR of a served request ends. A WRITEBACK of several runs ends with its last. -/
def serveMwr (s : State) (a : Arrival) (ok : Bool) : State :=
  let others := s.ep.d2d.any fun d => match d.use with
    | .serveWrite b _ => b == a
    | _ => false
  if ok then (if others then s else epWaitGo (epWriteDone s a true (writeBytes a.pkt)))
  else
    let mine := fun d : D2d => match d.use with
      | .serveWrite b _ => b == a
      | _ => false
    epWaitGo (epWriteDone (s.onEp fun e => { e with d2d := e.d2d.filter fun d => !mine d }) a false 0)

def serveAtomDone (s : State) (a : Arrival) (old : List Byte) (line : Nat) (ok : Bool) : State :=
  let s := s.onEp fun e => { e with atomLines := e.atomLines.erase line }
  epWaitGo (if ok then epFinish s a stOk (answer s.ep.now a.pkt opATOMICREPLY stOk false false old) true
    else epRefuse s a stInternal)

/-! ### Snoops (R161, R191, R569) -/

/-- The operations whose READ of a line is on its way. -/
def fillsOf (e : Ep) (hit : Node → Nat → Nat → Bool) : List (Nat × Nat) :=
  e.xp.ops.filterMap fun o => match o.cause with
    | .queue i k _ _ _ => if hit o.pkt.dst o.pkt.region.toNat (o.pkt.off / 64 * 64) then some (i, k) else none
    | _ => none

/-- A write-back of a line with dirty bytes that is not resolved. -/
def backOf (e : Ep) (hit : Node → Nat → Nat → Bool) : Option Packet :=
  ((e.xp.ops.map fun o => (o.cause, o.pkt)) ++ (e.xp.wait.map fun w => (w.cause, w.pkt))).findSome? fun x => match x.1 with
    | .writeback _ _ c => if hit x.2.dst x.2.region.toNat x.2.off && c.dirty != 0 then some x.2 else none
    | _ => none

/-- A snoop at the ZE-208: steps 1, 2 and 4 of R201, then its answer, at once. A fill that it overtakes is not kept: its
reply may be older than what the snoop makes way for (R152). DEDUCED (log entry 180): a line counts as held until its
write-back is resolved, so that its bytes are in the answer (R152, R569). -/
def epSnoop (s : State) (a : Arrival) : State :=
  let p := a.pkt
  if !s.ep.configured ∨ !p.crcOk ∨ p.dst ≠ s.ep.nodeId ∨ p.dstInc ≠ incOf s.ep.xp.inc p.dst then s
  else
    let at_ := fun (n : Node) (ri off : Nat) => decide (n = p.src ∧ ri = p.region.toNat ∧ off = p.off)
    let hit := fun c : CacheLine => at_ c.home c.region.toNat c.offset
    let fills := fillsOf s.ep at_
    let pay := match s.ep.cache.find? fun c => hit c && c.dirty != 0 with
      | some c => leBytes 8 c.dirty.toNat ++ padTo 64 c.data
      | none => ((backOf s.ep at_).map Packet.payload).getD []
    let s := s.onEp fun e => { e with
      cache := e.cache.filter fun c => !hit c
      ops := e.ops.map fun o => if fills.contains (o.i, o.k.toNat) then { o with noFill := true } else o }
    let r := { answer s.ep.now p opSNOOPRESP stOk false false pay with region := p.region, offset := p.offset }
    epOut s 0 (Packet.sealed r)

/-! ### Results (R396) -/

/-- The binding that a result names. -/
def resultBinding (e : Ep) (p : Packet) : Option (Nat × RBinding) :=
  e.binds.find? fun b => decide (b.2.host = p.src ∧ b.2.group.toNat = p.region.toNat % 1024 ∧ b.2.key = p.key)

def rwinKey (p : Packet) : Nat := p.src.toNat * 1024 + p.region.toNat % 1024

def setRwin (s : State) (p : Packet) (d : DstSrc) : State := s.onEp fun e => { e with rwin := e.rwin.set (rwinKey p) d }

/-- Ends a result in its window of host and group. -/
def resultEnd (s : State) (a : Arrival) (st : Status) : State :=
  let d := dstFinish (s.ep.rwin.getD (rwinKey a.pkt) default) a.pkt st none
  let s := onEpXp (setRwin s a.pkt d) fun x => { x with busy := x.busy.filter fun b => b.arr != a }
  epRespond s a (resultAnswer s a.pkt (if st = stOk then opACK else opNACK) st)

/-- REDUCE_RESULT at the ZE-208. -/
def epResult (s : State) (a : Arrival) : State :=
  let p := a.pkt
  let cast := decide (bitsOf p.dst.toNat 14 2 = 3)
  let b := resultBinding s.ep p
  if !s.ep.configured ∨ !p.crcOk then s
  else if (if cast then b.isNone else p.dst != s.ep.nodeId) then s
  else if (Int.ofNat s.ep.now) - extendTime s.ep.now p.time > Int.ofNat (us 130) then s
  else if !cast ∧ p.dstInc ≠ incOf s.ep.xp.inc p.dst then epRespond s a (resultAnswer s p opNACK stStaleIncarnation)
  else match window (s.ep.rwin.getD (rwinKey p) default) p with
    | .discard => s
    | .hold => epRespond s a (resultAnswer s p opHOLD stOk)
    | .ackAgain => epRespond s a (resultAnswer s p opACK stOk)
    | .nack st => epRespond s a (resultAnswer s p opNACK st)
    | .cached r => epRespond s a r
    | .go d =>
      let s := onEpXp (setRwin s p d) fun x => { x with busy := x.busy ++ [⟨a, s.ep.now, none⟩] }
      if malformed p mgmtMsgs.contains then resultEnd s a stFormatUnsupported
      else match b with
        | none => resultEnd s a stKeyMismatch
        | some (j, b) =>
          epMwr s (b.result.toNat + bitsOf p.off 0 28 * b.outSize) p.payload (.resultLand j a)

/-- A result's bytes have been written to accelerator memory, or not (R549). -/
def resultWritten (s : State) (j : Nat) (a : Arrival) (ok : Bool) : State :=
  if ok then resultLanded (resultEnd s a stOk) j a.pkt else resultEnd s a stInternal

/-! ### Die-to-die completions -/

/-- An MRD ends with its data, or with an error or a timeout (R549). -/
def mrdEnd (s : State) (d : D2d) (ok : Bool) (data : List Byte) : State :=
  let s := s.onEp fun e => { e with d2d := e.d2d.erase d, d2dErr := if ok then e.d2dErr else bump e.d2dErr }
  match d.use with
  | .opData i k row off last => opDataGot s i k row off last ok data
  | .contribRd j i k g probe => contribData s j i k g probe ok data
  | .serveRead a => serveMrd s a false ok data
  | .serveAtomRd a => serveMrd s a true ok data
  | _ => s

/-- An MWR ends (R548, R549). A record that cannot be written is given up. -/
def mwrEnd (s : State) (d : D2d) (ok : Bool) : State :=
  let s := s.onEp fun e => { e with d2d := e.d2d.erase d, d2dErr := if ok then e.d2dErr else bump e.d2dErr }
  let s := match d.use with
    | .opLand i k row n => opLanded s i k row n ok
    | .record i k n => recordDone s i k (n && ok)
    | .abortRec _ => if ok then s.emit (.intr 96) else s
    | .serveWrite a _ => serveMwr s a ok
    | .serveAtomWr a old => serveAtomDone s a old d.addr ok
    | .resultLand j a => resultWritten s j a ok
    | _ => s
  epMwrGo s.ep.d2d.length (epWaitGo s)

/-- The transaction that a completion answers. -/
def d2dOf (e : Ep) (tag : Nat) (isRead : Bool) : Option D2d :=
  e.d2d.find? fun d => d.tag == tag && d.isRead == isRead && d.sent

end Sys2Proof.Machine
end

