-- ==== Sys2Proof/Machine/EpNet.lean ====
section
/-! DEFINITION. The ZE-208 as a source: injection, ports, responses, timers; its configuration over VC6, and the
loss of it (R554, R575 to R585). -/

namespace Sys2Proof.Machine

/-! ### Resolution -/

/-- What the resolution of a request means at the ZE-208. -/
def epResolved (s : State) (c : Cause) (st : Status) (p : Packet) : State :=
  match c with
  | .queue i k row _ laddr => queueResolved s i (BitVec.ofNat 32 k) row laddr st p
  | .writeback i k _ => if i = 96 then s else writebackResolved s i (BitVec.ofNat 32 k) st
  | .contrib _ _ i k => contribResolved s i (BitVec.ofNat 32 k) st
  | _ => s

/-! ### Injection (R204, R214, R218, R225, R554, R575, R580) -/

/-- Two waiting requests keep their order: those of one queue, and those of one stream to one destination (R226). -/
def sameFlow (a b : Submit) : Bool :=
  match a.cause, b.cause with
  | .queue i _ _ _ _, .queue j _ _ _ _ => i == j
  | _, _ => sameOrder a.pkt b.pkt

/-- The Runner entry that a packet must leave by: a COPY_OUT of a channel bound to one (R580). -/
def runnerOf (e : Ep) (w : Submit) : Option (Nat × EpRunner) :=
  match w.cause with
  | .queue i _ _ _ _ =>
    if 32 ≤ i ∧ w.pkt.opcode = opWRITE then
      match (epQ e i).runner with
      | some r => (e.runners.get? r).map fun x => (r, x)
      | none => none
    else none
  | _ => none

/-- A burst may carry a packet now: at W + 64 of a window, at most 64 flits a burst (R260). -/
def burstRoom (e : Ep) (r : EpRunner) (p : Packet) : Bool :=
  (windowStarts r.slots r.phase).any (fun w => (w + 64) % 4096 == e.now % 4096) &&
    decide (p.cells + (if r.last = e.now then r.used else 0) ≤ 64)

/-- An operation's packet that no line of the cache may stay behind: one of a WRITE, an ATOMIC or a copy (R158, R159). -/
def yields (w : Submit) : Option (Nat × BitVec 32) :=
  match w.cause with
  | .queue i k _ _ _ =>
    if 32 ≤ i ∨ w.pkt.opcode = opWRITE ∨ w.pkt.opcode = opSTORE ∨ w.pkt.opcode = opATOMIC then some (i, BitVec.ofNat 32 k) else none
  | _ => none

/-- Its operation has lines on their way home. -/
def yieldWaits (e : Ep) (w : Submit) : Bool :=
  match yields w with
  | some (i, k) => (epOp? e i k).any fun o => o.flushN != 0
  | none => false

/-- Takes the lines out of the cache that packets waiting to be injected touch (R158, R159). -/
def epYield (s : State) : State :=
  s.ep.xp.wait.foldl (fun s w =>
    match yields w with
    | some (i, k) =>
      let n := if w.pkt.opcode = opATOMIC then atomicSize w.pkt else w.pkt.lenBytes
      epTakeOut s i k w.pkt.dst w.pkt.region.toNat [(w.pkt.off, n)] w.pkt.stream.toNat false false
    | none => s) s

/-- The port by which a waiting request may go now. -/
def epGoes (e : Ep) (w : Submit) : Option Nat :=
  if canInject e.xp e.now w.pkt ∧ e.xp.ops.length < 8192 ∧ !yieldWaits e w then
    match runnerOf e w with
    | some (_, r) => if burstRoom e r w.pkt && epPortUp e r.port then some r.port else none
    | none => epChoose e w.pkt none
  else none

def epNextInject (e : Ep) : Option Submit :=
  e.xp.wait.find? fun w => (epGoes e w).isSome && decide ((e.xp.wait.find? (sameFlow w)) = some w)

/-- A waiting request to a switch whose plane has no port in service (R577). -/
def epUnreachable (e : Ep) (w : Submit) : Bool := isSwitch w.pkt.dst && !epPortUp e (planeOf w.pkt.dst)

/-- Injects one request. -/
def epInject (s : State) (w : Submit) (port : Nat) : State :=
  let p := numbered s.ep.xp s.ep.now w.pkt
  let both := s.ep.ep0 && s.ep.ep1 && !isSwitch p.dst
  let s := match runnerOf s.ep w with
    | some (r, x) => s.onEp fun e => { e with runners := e.runners.set r { x with
        last := e.now, used := p.cells + (if x.last = e.now then x.used else 0) } }
    | none => s
  let s := onEpXp s fun x => injected { x with wait := x.wait.erase w, rr := if both then x.rr + 1 else x.rr } s.ep.now p port w.cause
  epOut s port p

/-- Injects every request that may go; a request that no port reaches ends with DEST_LOST. -/
def epPump : Nat → State → State
  | 0, s => s
  | n + 1, s =>
    match s.ep.xp.wait.find? (epUnreachable s.ep) with
    | some w =>
      epPump n (epResolved (onEpXp s fun x => { x with wait := x.wait.erase w }) w.cause stDestLost w.pkt)
    | none =>
      match epNextInject s.ep with
      | none => s
      | some w => epPump n (epInject s w ((epGoes s.ep w).getD 0))

/-- An entry that is DESTROYING is freed once no accepted request of it remains (R568, R109). -/
def epFree (s : State) : State :=
  s.onEp fun e => { e with ranges := e.ranges.filter fun r =>
    !(r.2.destroying && e.xp.busy.all fun b => b.arr.pkt.region.toNat != r.1 || b.arr.pkt.opcode == opMGMT
      || b.arr.pkt.opcode == opRESULT) }

/-- Lets everything at the ZE-208 go on that can. -/
def epSettle (s : State) : State :=
  let s := epYield (epStepAll s)
  let s := epPump s.ep.xp.wait.length s
  epFree (epStepAll s)

/-! ### Responses (R202, R209, R576) -/

/-- Avoidance (R576): the answer came on another port than an earlier transmission that went unanswered. -/
def epAvoid (x : Xport) (now : Time) (o : Op) (port : Nat) : Xport :=
  match o.prev with
  | some q =>
    if !isSwitch o.pkt.dst ∧ q ≠ port ∧ o.port = port then
      { x with avoid := (x.avoid.filter fun a => a.1 != o.pkt.dst) ++ [(o.pkt.dst, port, now + ms 10)] }
    else x
  | none => x

/-- A response at the ZE-208. -/
def epResponse (s : State) (a : Arrival) : State :=
  match accepts s.ep.xp s.ep.nodeId a.pkt with
  | none => s
  | some o =>
    let s := onEpXp s fun x => heard x s.ep.now a.pkt
    if a.pkt.opcode = opHOLD then s
    else
      let st := finalStatus a.pkt
      epResolved (onEpXp s fun x => resolved (epAvoid x s.ep.now o a.port.val) s.ep.now o st) o.cause st a.pkt

/-- RETRANSMIT at the ZE-208 (R207, R575): on the other port to an end point; by no port that is out of service. -/
def epRetransmit (s : State) (o : Op) : State :=
  let p := retransmission o.pkt
  let port := (epChoose s.ep o.pkt (some o.port)).getD o.port
  let o' := { o with pkt := p, sent := o.sent + 1, last := s.ep.now, port := port, prev := some o.port }
  epOut (onEpXp s fun x => { x with ops := x.ops.map fun q => if q = o then o' else q }) port p

/-- GIVE_UP at the ZE-208 (R210). -/
def epGiveUp (s : State) (o : Op) : State :=
  let st := giveUpStatus o.pkt
  let s := reportGiveUp s .ze o.pkt.dst
  epResolved (onEpXp s fun x => resolved x s.ep.now o st) o.cause st o.pkt

/-! ### Requests that the ZE-208 sends to itself (R564) -/

/-- An access or response that never leaves the ZE-208. -/
def epSelf (s : State) (p : Packet) : State :=
  let a : Arrival := ⟨.ze, epLoopPort, p⟩
  if isResponseOp p.opcode then epResponse s a
  else epReceive s a fun s =>
    if p.opcode = opCOUNTERREAD then epCounterRead s a
    else if p.opcode = opWRITE ∧ p.close then epClosing s a
    else epServe s a

/-- A request to this end point itself may be served: a closing write waits while 256 are held (R140). -/
def loopGoes (s : State) (p : Packet) : Bool := !(p.opcode == opWRITE && p.close) || decide (s.ep.xp.cw.length < 256)

/-- Serves what the ZE-208 has sent to itself, and lets it go on. -/
def epLoop : Nat → State → State
  | 0, s => s
  | n + 1, s =>
    let s := epSettle s
    match s.ep.loop.find? (loopGoes s) with
    | none => s
    | some p => epLoop n (epSelf (s.onEp fun e => { e with loop := e.loop.erase p }) p)

/-- A step at the ZE-208, and what follows of it at once. -/
def atEp (s : State) (k : State → State) : State := epLoop 64 (epSettle (k s))

/-! ### Configuration space (R588 to R594) -/

def epEntryBytes (r : EpEntry) : List Byte :=
  leBytes 8 r.base.toNat ++ leBytes 6 r.length ++ leBytes 2 r.tenant.toNat ++ leBytes 4 r.keyCurrent.toNat
    ++ leBytes 4 r.keyPrevious.toNat ++ [r.rights, BitVec.ofNat 8 (1 + 2 * b2n r.prevValid + 4 * b2n r.graceOpen
      + 8 * b2n r.destroying)] ++ zeros 6 ++ leBytes 8 r.rotateTime ++ zeros 24

def epEntryOf (b : List Byte) : EpEntry :=
  let f := fieldAt b 25 1
  { base := BitVec.ofNat 64 (fieldAt b 0 8), length := fieldAt b 8 6, tenant := tagOf (BitVec.ofNat 16 (fieldAt b 14 2))
    keyCurrent := BitVec.ofNat 32 (fieldAt b 16 4), keyPrevious := BitVec.ofNat 32 (fieldAt b 20 4)
    rights := BitVec.ofNat 8 (fieldAt b 24 1 % 8), prevValid := bitOf f 1, graceOpen := bitOf f 2, destroying := bitOf f 3
    rotateTime := fieldAt b 32 8 }

def bindBytes (b : RBinding) : List Byte :=
  leBytes 2 b.host.toNat ++ leBytes 2 b.group.toNat ++ leBytes 4 b.key.toNat ++ leBytes 2 b.rank
    ++ [BitVec.ofNat 8 b.slots, b.sizes] ++ leBytes 4 b.elements ++ leBytes 8 b.result.toNat ++ leBytes 2 b.counter
    ++ [1, 0] ++ leBytes 4 b.round ++ zeros 32

/-- A binding as it is written: its window starts at its ROUND. -/
def bindOf (now : Time) (b : List Byte) : RBinding :=
  { host := BitVec.ofNat 16 (fieldAt b 0 2), group := BitVec.ofNat 16 (fieldAt b 2 2), key := BitVec.ofNat 32 (fieldAt b 4 4)
    rank := fieldAt b 8 2, slots := fieldAt b 10 1, sizes := BitVec.ofNat 8 (fieldAt b 11 1), elements := fieldAt b 12 4
    result := BitVec.ofNat 64 (fieldAt b 16 8), counter := fieldAt b 24 2, round := fieldAt b 28 4, base := fieldAt b 28 4
    sent := 0, done := 0, landed := [], lastLand := now }

/-- A Runner entry, laid out as R266 with EGRESS naming the port. DESIGN CHOICE (log entry 16). -/
def epRunnerBytes (i : Nat) (r : EpRunner) : List Byte :=
  [BitVec.ofNat 8 i, 0, BitVec.ofNat 8 r.port, 1] ++ leBytes 2 r.slots.toNat ++ [BitVec.ofNat 8 r.phase, 0]
    ++ leBytes 2 r.tenant.toNat ++ zeros 22

def epRunnerOf (b : List Byte) : EpRunner :=
  { port := fieldAt b 2 1 % 2, slots := BitVec.ofNat 16 (fieldAt b 4 2), phase := fieldAt b 6 1
    tenant := tagOf (BitVec.ofNat 16 (fieldAt b 8 2)), last := 0, used := 0 }

def epStatusWord (e : Ep) : Nat :=
  e.nodeId.toNat * 2 ^ 48 + e.incarnation.toNat * 2 ^ 40 + e.temp % 256 * 2 ^ 32 + b2n e.trip * 64 + b2n e.m1 * 32
    + b2n e.m0 * 16 + b2n e.ep1 * 8 + b2n e.ep0 * 4 + b2n e.configured

def ringCode : RingSt → Nat
  | .disabled => 0
  | .enabled => 1
  | .halted => 2

def epQWord (q : EpQueue) : Nat :=
  (match q.runner with
    | some r => (128 + r) * 2 ^ 56
    | none => 0) + ringCode q.state * 2 ^ 48 + q.binding.toNat * 2 ^ 32 + q.taken.toNat

/-- The object that a word of EPC lies in: its first offset and its bytes. -/
def epcObject (e : Ep) (off : Nat) : Nat × List Byte :=
  if 0x100000 ≤ off ∧ off < 0x140000 then
    let i := (off - 0x100000) / 64
    (0x100000 + 64 * i, match e.ranges.get? i with
      | some r => epEntryBytes r
      | none => zeros 64)
  else if 0x140000 ≤ off ∧ off < 0x141000 then
    (off / 8 * 8, (List.range 8).map fun j => e.xp.inc.getD (off / 8 * 8 - 0x140000 + j) 0)
  else if 0x150000 ≤ off ∧ off < 0x151000 then
    let j := (off - 0x150000) / 64
    (0x150000 + 64 * j, match e.binds.get? j with
      | some b => bindBytes b
      | none => zeros 64)
  else if 0x151000 ≤ off ∧ off < 0x151100 then
    let r := (off - 0x151000) / 32
    (0x151000 + 32 * r, match e.runners.get? r with
      | some x => epRunnerBytes r x
      | none => zeros 32)
  else
    let o := off / 8 * 8
    (o, leBytes 8 (
      if o = 0x0000 then 0x0208A100
      else if o = 0x0008 then Config.epSerial.toNat
      else if o = 0x0010 then epStatusWord e
      else if o = 0x0018 then e.override_.toNat * 4 + e.enable.toNat
      else if o = 0x0020 then e.abortBase.toNat * 4096
      else if o = 0x0028 then e.doorbell.toNat * 2 ^ 48 + e.d2dErr.toNat * 2 ^ 32 + e.evict.toNat
      else if o = 0x0040 then e.eq0.toNat % 2 ^ 64
      else if o = 0x0048 then e.eq0.toNat / 2 ^ 64
      else if o = 0x0050 then e.eq1.toNat % 2 ^ 64
      else if o = 0x0058 then e.eq1.toNat / 2 ^ 64
      else if 0x1000 ≤ o ∧ o < 0x1300 then (epQ e ((o - 0x1000) / 8)).cqBase.toNat * 4096
      else if 0x1400 ≤ o ∧ o < 0x1700 then epQWord (epQ e ((o - 0x1400) / 8))
      else 0))

/-- `n` bytes of EPC from an offset on. -/
def epcRead (e : Ep) (off : Nat) : Nat → List Byte
  | 0 => []
  | n + 1 =>
    let (o, b) := epcObject e off
    b.getD (off - o) 0 :: epcRead e (off + 1) n

/-- Unresolved operations of a queue. -/
def queueBusy (e : Ep) (i : Nat) : Bool := e.ops.any fun o => o.i == i && !recordOut e o

/-- Puts an object of EPC back with bytes changed. A base is kept while a queue concerned is bound (R592). -/
def epcPut (e : Ep) (o : Nat) (b : List Byte) : Ep :=
  let w := leNat (b.take 8)
  if 0x100000 ≤ o ∧ o < 0x140000 then
    let i := (o - 0x100000) / 64
    if bitOf (fieldAt b 25 1) 0 then
      let r := epEntryOf b
      let turned := match e.ranges.get? i with
        | some x => r.graceOpen && decide (x.keyCurrent ≠ r.keyCurrent)
        | none => false
      { e with ranges := e.ranges.set i (if turned then { r with rotateTime := e.now } else r) }
    else { e with ranges := e.ranges.erase i }
  else if 0x140000 ≤ o ∧ o < 0x141000 then
    { e with xp := (List.range 8).foldl (fun x j => setIncOf x (BitVec.ofNat 16 (o - 0x140000 + j)) (b.getD j 0)) e.xp }
  else if 0x150000 ≤ o ∧ o < 0x151000 then
    let j := (o - 0x150000) / 64
    if bitOf (fieldAt b 26 1) 0 then
      let r := bindOf e.now b
      -- the member's window of results restarts with the binding (R399)
      { e with binds := e.binds.set j r, rwin := e.rwin.erase (r.host.toNat * 1024 + r.group.toNat % 1024) }
    else { e with binds := e.binds.erase j }
  else if 0x151000 ≤ o ∧ o < 0x151100 then
    let r := (o - 0x151000) / 32
    if bitOf (fieldAt b 3 1) 0 then { e with runners := e.runners.set r (epRunnerOf b) }
    else { e with
      runners := e.runners.erase r
      queues := e.queues.map fun q => if q.2.runner = some r then (q.1, { q.2 with runner := none }) else q }
  else if o = 0x0010 then
    let n : Node := BitVec.ofNat 16 (w / 2 ^ 48)
    let inc : Byte := BitVec.ofNat 8 (w / 2 ^ 40)
    let same := decide (n = e.nodeId ∧ inc = e.incarnation)
    -- a spare starts with every window and cache empty (R221)
    { e with
      nodeId := n, incarnation := inc, xp := if same then e.xp else restartAll e.xp
      rwin := if same then e.rwin else [], cache := if same then e.cache else []
      cellNode := if e.nodeId = 0 then BitVec.ofNat 16 (0x8000 + rackOf n * 256 + epSwOf n * 2) else e.cellNode }
  else if o = 0x0018 then { e with override_ := BitVec.ofNat 2 (w / 4), enable := BitVec.ofNat 2 w }
  else if o = 0x0020 then
    if e.queues.any fun q => q.2.state != .disabled then e else { e with abortBase := BitVec.ofNat 52 (w / 4096) }
  else if o = 0x0028 then
    { e with doorbell := BitVec.ofNat 16 (w / 2 ^ 48), d2dErr := BitVec.ofNat 16 (w / 2 ^ 32), evict := BitVec.ofNat 32 w }
  else if o = 0x0040 then { e with eq0 := BitVec.ofNat 128 (e.eq0.toNat / 2 ^ 64 * 2 ^ 64 + w) }
  else if o = 0x0048 then { e with eq0 := BitVec.ofNat 128 (w * 2 ^ 64 + e.eq0.toNat % 2 ^ 64) }
  else if o = 0x0050 then { e with eq1 := BitVec.ofNat 128 (e.eq1.toNat / 2 ^ 64 * 2 ^ 64 + w) }
  else if o = 0x0058 then { e with eq1 := BitVec.ofNat 128 (w * 2 ^ 64 + e.eq1.toNat % 2 ^ 64) }
  else if 0x1000 ≤ o ∧ o < 0x1300 then
    let i := (o - 0x1000) / 8
    if (epQ e i).state != .disabled then e
    else { e with queues := e.queues.set i { epQ e i with cqBase := BitVec.ofNat 52 (w / 4096) } }
  else if 0x1400 ≤ o ∧ o < 0x1700 then
    let i := (o - 0x1400) / 8
    { e with
      ops := e.ops.filter fun o => !(o.i == i && recordOut e o)
      queues := e.queues.set i { epQ e i with
        prod := 0, taken := BitVec.ofNat 32 w, binding := tagOf (BitVec.ofNat 16 (w / 2 ^ 32))
        state := if bitsOf w 48 2 = 1 then .enabled else if bitsOf w 48 2 = 2 then .halted else .disabled
        runner := if bitOf w 63 then some (bitsOf w 56 3) else none } }
  else e

/-- Writes bytes to EPC, object by object. -/
def epcWrite (e : Ep) (off : Nat) (data : List Byte) : Nat → Ep
  | 0 => e
  | n + 1 =>
    if data = [] then e
    else
      let (o, b) := epcObject e off
      let room := o + b.length - off
      epcWrite (epcPut e o (patchBytes b (off - o) (data.take room))) (off + room) (data.drop room) n

/-- Whether a write to EPC would bind a queue that has operations unresolved (R587). -/
def epcBusy (e : Ep) (off n : Nat) : Bool :=
  (List.range 96).any fun i => decide (off < 0x1400 + 8 * i + 8 ∧ 0x1400 + 8 * i < off + n) && queueBusy e i

/-- EPC_WRITE at the ZE-208 (R585): at once, or staged until its activation tick. -/
def epcWriteZe (s : State) (a : Arrival) : State :=
  let y := a.pkt.payload
  let n := fieldAt y 2 2
  let off := fieldAt y 4 4
  if epcBusy s.ep off n then epRefuse s a stResourceRefused
  else
    let s := if bitOf (fieldAt y 1 1) 0 ∧ s.ep.now < fieldAt y 8 8 then
        s.onEp fun e => { e with staged := e.staged ++ [(fieldAt y 8 8, a.pkt)] }
      else s.onEp fun e => epcWrite e off ((y.drop 16).take n) 2048
    epFinish s a stOk (epAck s a.pkt stOk) false

/-- Staged EPC_WRITEs whose tick has come (R585). -/
def epStagedGo (s : State) : State :=
  let due := (s.ep.staged.filter fun x => decide (x.1 ≤ s.ep.now)).mergeSort fun x y => decide (x.1 ≤ y.1)
  let s := s.onEp fun e => { e with staged := e.staged.filter fun x => !decide (x.1 ≤ e.now) }
  due.foldl (fun s x =>
    let y := x.2.payload
    s.onEp fun e => epcWrite e (fieldAt y 4 4) ((y.drop 16).take (fieldAt y 2 2)) 2048) s

def epcDataPayload (off n : Nat) (data : List Byte) : List Byte :=
  [0xA2, 0] ++ leBytes 2 n ++ leBytes 4 off ++ zeros 8 ++ data

/-- EPC_READ at the ZE-208. -/
def epcReadZe (s : State) (a : Arrival) : State :=
  let y := a.pkt.payload
  let n := fieldAt y 2 2
  let off := fieldAt y 4 4
  let r := answer s.ep.now a.pkt opMGMT stOk false false (epcDataPayload off n (epcRead s.ep off n))
  epFinish s a stOk (Packet.sealed { r with w20 := 0, tenant := opTag }) true

/-! ### Losing a port or the configuration (R166, R576, R584, R595) -/

/-- Ends every unresolved request, sent or waiting (R221). -/
def epEndAll (s : State) (sel : Packet → Bool) : State :=
  let ops := s.ep.xp.ops.filter fun o => sel o.pkt
  let ws := s.ep.xp.wait.filter fun w => sel w.pkt
  let s := onEpXp s fun x => { x with wait := x.wait.filter fun w => !sel w.pkt }
  let s := ops.foldl (fun s o =>
    let st := giveUpStatus o.pkt
    epResolved (onEpXp s fun x => resolved x s.ep.now o st) o.cause st o.pkt) s
  ws.foldl (fun s w => epResolved s w.cause (giveUpStatus w.pkt) w.pkt) s

/-- Drops the cell lines, dirty bytes and all (R166). -/
def epDropCell (s : State) : State := s.onEp fun e => { e with cache := e.cache.filter fun c => !c.cell }

/-- Every queue DISABLED, every table empty (R582, step 6, R584). -/
def epEmptied (e : Ep) : Ep := { e with
  ranges := [], binds := [], runners := []
  queues := e.queues.map fun q => (q.1, { (default : EpQueue) with slots := q.2.slots, cqBase := q.2.cqBase }) }

/-- A local access for a request of the fabric. -/
def D2dUse.serves : D2dUse → Bool
  | .serveRead _ | .serveWrite .. | .serveAtomRd _ | .serveAtomWr .. | .resultLand .. => true
  | _ => false

/-- The configuration is lost: every operation ends, every table is cleared (R584), and an EP_DOWN report with
CAUSE 4 is originated (R610). -/
def epUnconfigure (s : State) : State :=
  let s := reportEpDown s 4
  let s := epEndAll s fun _ => true
  let s := s.ep.ops.foldl (fun s o =>
    epDecide s o.i o.k (if EpDesc.op o.desc = 0x03 then stIndeterminate else stDestLost) 0) s
  let s := s.onEp fun e => { epEmptied e with
    configured := false, counters := [], cache := [], rwin := [], staged := []
    waitReqs := [], atomLines := [], loop := [], outq := [], relay := []
    d2d := e.d2d.filter fun d => !d.use.serves
    xp := { (default : Xport) with rr := e.xp.rr } }
  epStepAll (s.emit (.intr 97))

end Sys2Proof.Machine
end

