-- ==== Sys2Proof/Machine/Wire.lean ====
section
/-! DEFINITION. What a link carries: the bytes of a flit with its LCRC (R180, R473 to R475), its blocks and symbols on
the four lanes (R452, R453), and training blocks (R462). -/

namespace Sys2Proof.Flit

open Sys2Proof.Machine

/-- LCTL (R180). -/
def lctl (f : Flit) : Byte := BitVec.ofNat 8 (f.vc.val + 8 * b2n f.first + 16 * b2n f.last + 32 * b2n f.idle)

/-- LSEQ_ACK (R474). -/
def lseqAck (f : Flit) : Nat :=
  f.lseq.toNat + 4096 * f.ack.toNat + 16777216 * b2n f.seqd + 33554432 * b2n f.nak

/-- Bytes 0 to 251 of the flit (R180, R473). -/
def body (f : Flit) : List Byte :=
  padTo 240 f.data ++ [f.lctl, f.fill, f.xoff, f.mtype] ++ leBytes 4 f.mdata.toNat ++ leBytes 4 f.lseqAck

/-- LCRC over bytes 0 to 251 (R180, R475). -/
def lcrcOf (f : Flit) : BitVec 32 := crc32c f.body
def lcrcOk (f : Flit) : Bool := f.lcrc == f.lcrcOf
def sealed (f : Flit) : Flit := { f with lcrc := f.lcrcOf }

/-- The flit's 256 bytes. -/
def bytes (f : Flit) : List Byte := f.body ++ leBytes 4 f.lcrc.toNat

/-- The 512-bit block of lane `k` of the port (R452). -/
def laneBlock (f : Flit) (k : Nat) : List Byte := (f.bytes.drop (64 * k)).take 64

end Sys2Proof.Flit

namespace Sys2Proof.Machine

/-- One step of the sequence x^31 + x^28 + 1 (R453): bit 0 of the register is the bit that it gives. -/
def prbsNext (x : BitVec 31) : BitVec 31 := (x <<< 1) ||| (if x.getLsbD 30 != x.getLsbD 27 then 1 else 0)

/-- The next `n` bits of a lane's sequence, and the register after them. -/
def prbsBits : Nat → BitVec 31 → List Bool × BitVec 31
  | 0, x => ([], x)
  | n + 1, x =>
    let y := prbsNext x
    let r := prbsBits n y
    (y.getLsbD 0 :: r.1, r.2)

def bitsOfBytes (bs : List Byte) : List Bool := bs.flatMap fun b => (List.range 8).map b.getLsbD

def bytesOfBits : Nat → List Bool → List Byte
  | 0, _ => []
  | n + 1, l => BitVec.ofNat 8 (((l.take 8).mapIdx fun i b => b2n b * 2 ^ i).sum) :: bytesOfBits n (l.drop 8)

/-- The level of a bit pair (R453): 00, 01, 11 and 10 are levels 0 to 3. -/
def grayLevel (hi lo : Bool) : BitVec 2 :=
  match hi, lo with
  | false, false => 0
  | false, true => 1
  | true, true => 2
  | true, false => 3

/-- Bits 2i + 1 and 2i form symbol i, sent in ascending i (R453). -/
def symbolsOf : List Bool → List (BitVec 2)
  | lo :: hi :: t => grayLevel hi lo :: symbolsOf t
  | _ => []

/-- The symbols of a lane's block, its bits XORed with the lane's sequence (R453), and the register after them. -/
def scrambled (x : BitVec 31) (block : List Byte) : List (BitVec 2) × BitVec 31 :=
  let r := prbsBits 512 x
  (symbolsOf (List.zipWith (fun a b => a != b) (bitsOfBytes block) r.1), r.2)

/-- The marker of a training block (R462). -/
def trainingMarker (lane port block : Nat) : Nat :=
  0x7E817E81 * 4294967296 + lane % 4 * 1073741824 + port % 64 * 16777216 + block % 65536

/-- A training block of a lane: its marker, then 448 bits of its sequence (R462). -/
def trainingBlock (x : BitVec 31) (lane port block : Nat) : List Byte :=
  leBytes 8 (trainingMarker lane port block) ++ bytesOfBits 56 (prbsBits 448 x).1

/-- What a lane's receiver has found of the markers of its training blocks (R465). -/
def skewOf (l : List LaneMark) : Nat :=
  let d := fun (a b : LaneMark) => (a.block - b.block).toNat
  (l.map fun a => (l.map fun b => Nat.min (d a b) (d b a)).foldl Nat.max 0).foldl Nat.max 0

/-- LANE and PORT of a port's four lanes agree (R465). -/
def marksAgree (l : List LaneMark) : Bool :=
  (l.map LaneMark.lane == [0, 1, 2, 3]) && l.all fun m => some m.port == l.head?.map LaneMark.port

end Sys2Proof.Machine
end

