-- ==== Sys2Proof/Machine/EpRows.lean ====
section
/-! DEFINITION. The commands of the ZE-208 that are no packets: its queues, its window, die-to-die completions,
and its ports and configuration. -/

namespace Sys2Proof.Machine

/-! ### Operations (R556, R559) -/

def execOpRead (q : Fin 32) (s : State) : Host.Outcome State Fault Refusal := .next (atEp s fun s => epTake s q 0x01)
def execOpWrite (q : Fin 32) (s : State) : Host.Outcome State Fault Refusal := .next (atEp s fun s => epTake s q 0x02)
def execOpAtomic (q : Fin 32) (s : State) : Host.Outcome State Fault Refusal := .next (atEp s fun s => epTake s q 0x03)
def execOpFence (q : Fin 32) (s : State) : Host.Outcome State Fault Refusal := .next (atEp s fun s => epTake s q 0x04)
def execOpFlush (q : Fin 32) (s : State) : Host.Outcome State Fault Refusal := .next (atEp s fun s => epTake s q 0x05)
def execOpInval (q : Fin 32) (s : State) : Host.Outcome State Fault Refusal := .next (atEp s fun s => epTake s q 0x06)
def execOpCounterRead (q : Fin 32) (s : State) : Host.Outcome State Fault Refusal :=
  .next (atEp s fun s => epTake s q 0x07)

/-- Copy channel `c` is queue 32 + c (R550). -/
def chan (c : Fin 64) : Nat := 32 + c.val

def execCopyOut (c : Fin 64) (s : State) : Host.Outcome State Fault Refusal := .next (atEp s fun s => epTake s (chan c) 0x10)
def execCopyIn (c : Fin 64) (s : State) : Host.Outcome State Fault Refusal := .next (atEp s fun s => epTake s (chan c) 0x11)
def execContrib (c : Fin 64) (s : State) : Host.Outcome State Fault Refusal := .next (atEp s fun s => epTake s (chan c) 0x12)
def execTileFence (c : Fin 64) (s : State) : Host.Outcome State Fault Refusal :=
  .next (atEp s fun s => epTake s (chan c) 0x14)

/-! ### The window (R550 to R553, R563) -/

/-- PROD doorbell (R553). -/
def execProdDoorbell (i : Fin 96) (prod : BitVec 32) (slots : List Desc) (s : State) : Host.Outcome State Fault Refusal :=
  .next (prodDoorbell s i prod slots)

/-- ABORT doorbell (R222, R563). -/
def execAbortDoorbell (i : Fin 96) (target tag : BitVec 32) (s : State) : Host.Outcome State Fault Refusal :=
  .next (atEp s fun s => abortDoorbell s i target tag)

/-- What a WIN_RD of 8 bytes returns (R550). -/
def winWord (e : Ep) (off : Nat) : BitVec 64 :=
  let slot := fun (i k : Nat) => BitVec.ofNat 64 (Desc.fld ((epQ e i).slots.getD k 0) (off % 64) 8)
  if off < 0x80000 then slot (off / 0x4000) (off % 0x4000 / 64)
  else if off < 0xC0000 then slot (32 + (off - 0x80000) / 0x1000) (off % 0x1000 / 64)
  else if 0x100000 ≤ off ∧ off < 0x108000 ∧ off % 8 = 0 then e.counters.getD ((off - 0x100000) / 8) 0
  else 0

/-- WIN_RD (R551). -/
def execWinRd (offset : BitVec 24) (tag : BitVec 16) (s : State) : Host.Outcome State Fault Refusal :=
  .next (s.emit (.winCpl offset.toNat tag (winWord s.ep offset.toNat)))

/-- A window write of an arrival counter (R550). -/
def execWinCounterWrite (k : Fin 4096) (value : BitVec 64) (s : State) : Host.Outcome State Fault Refusal :=
  .next (s.onEp fun e => { e with counters := e.counters.set k value })

/-! ### Die-to-die completions (R546, R549) -/

def execMrdCpl (tag : Nat) (ok : Bool) (data : List Byte) (s : State) : Host.Outcome State Fault Refusal :=
  .next (match d2dOf s.ep tag true with
    | some d => atEp s fun s => mrdEnd s d ok (padTo d.len data)
    | none => s)

def execMwrCpl (tag : Nat) (ok : Bool) (s : State) : Host.Outcome State Fault Refusal :=
  .next (match d2dOf s.ep tag false with
    | some d => atEp s fun s => mwrEnd s d ok
    | none => s)

/-- D2D_TIMEOUT (R549): an MRD or MWR unanswered for 10 µs. -/
def execD2dTimeout (tag : Nat) (t : Time) (s : State) : Host.Outcome State Fault Refusal :=
  let s := s.epAt t
  .next (match s.ep.d2d.find? fun d => d.tag == tag && d.sent && due s.ep.now d.issued (us 10) with
    | some d => atEp s fun s => if d.isRead then mrdEnd s d false [] else mwrEnd s d false
    | none => s)

/-! ### Ports and configuration (R166, R576, R582 to R584, R595) -/

def execAvoidanceExpire (dst : Node) (t : Time) (s : State) : Host.Outcome State Fault Refusal :=
  .next (atEp (s.epAt t) fun s => onEpXp s fun x => { x with avoid := x.avoid.filter fun a => !decide (a.1 = dst ∧ a.2.2 ≤ s.ep.now) })

/-- Both ports out of service: the configuration is lost. -/
def epPortsGone (s : State) : State := if !s.ep.ep0 ∧ !s.ep.ep1 ∧ s.ep.configured then epUnconfigure s else s

/-- A port that is no longer in service: what waits to leave by it is lost, and its XOFF bits with it. -/
def epLosePort (s : State) (p : Nat) : State :=
  let s := (onTn s .ze fun n => { n with nbrs := n.nbrs.erase p }).onEp fun e => { e with
    xoff := e.xoff.erase p, outq := e.outq.filter fun x => x.1 != p, relay := e.relay.filter fun x => x.1 != p }
  let s := if p = 0 then epDropCell (s.onEp fun e => { e with ep0 := false }) else s.onEp fun e => { e with ep1 := false }
  epPortsGone s

/-- A register that the accelerator writes through the sideband: ABORT_BASE, the EQ profiles and the Q_BASEs (R591,
R592). It writes nothing else. -/
def epSideband (e : Ep) (w : Nat × BitVec 64) : Ep :=
  if w.1 % 8 = 0 ∧ (w.1 = 0x20 ∨ (0x40 ≤ w.1 ∧ w.1 < 0x60) ∨ (0x1000 ≤ w.1 ∧ w.1 < 0x1300)) then
    epcPut e w.1 (leBytes 8 w.2.toNat)
  else e

/-- The equalisation of an end-point port (R583): its straps choose a built-in profile, unless the accelerator has
written a profile and set OVERRIDE. -/
def epEqualiser (e : Ep) (p : Nat) : Equaliser :=
  if e.override_.getLsbD p then .profile (leBytes 16 (if p = 0 then e.eq0 else e.eq1).toNat)
  else .builtIn (BitVec.ofNat 2 (bitsOf Config.epStraps.toNat (2 * p) 2))

/-- What the ZE-208 says of itself at the identity exchange of a port (R2, R467, R589): its serial number, part 0x0208,
stepping A1, the EP number and node ID 0. -/
def epIdentity (p : Nat) : List (Byte × BitVec 32) :=
  [(1, Config.epSerial.setWidth 32), (2, (Config.epSerial >>> 32).setWidth 32),
   (3, BitVec.ofNat 32 (0x0208 * 65536 + 0xA1 * 256 + p)), (4, 0)]

/-- An end-point port begins to train (R462, R582): the record shows each lane's first training block; its flits, once
its lanes are deskewed, repeat the identity until it is echoed (R467). -/
def epTrain (s : State) (p : Nat) : State :=
  (s.emit (.training (64 + p) [epEqualiser s.ep p] ((List.range 4).map fun k => trainingBlock Config.prbsStart k p 0))).emit
    (.linkMgmt (64 + p) (epIdentity p))

/-- PORT_ENABLE (R582, step 1): the die-to-die link has trained with the modules named, one of them at degraded width
(R543), and the ports named begin to train; with no module trained none does. A port no longer named leaves service.
`regs` are the registers that the accelerator has written through the sideband before it. -/
def execPortEnable (on : EpOn) (override_ : BitVec 2) (regs : List (Nat × BitVec 64)) (s : State) :
    Host.Outcome State Fault Refusal :=
  let s := s.onEp fun e => { regs.foldl epSideband e with
    enable := on.ports, override_ := override_, m0 := on.modules.getLsbD 0, m1 := on.modules.getLsbD 1 }
  let s := if on.ports.getLsbD 0 ∨ !s.ep.ep0 then s else epLosePort s 0
  let s := if on.ports.getLsbD 1 ∨ !s.ep.ep1 then s else epLosePort s 1
  let s := if on.ports.getLsbD 0 ∧ on.modules ≠ 0 then epTrain s 0 else s
  .next (if on.ports.getLsbD 1 ∧ on.modules ≠ 0 then epTrain s 1 else s)

/-- EP_CONFIGURE (R582, steps 2 to 6): the enabled ports are up. The first switch writes node ID, incarnation and
tables, and with the time base locked the ZE-208 is CONFIGURED; a second switch changes nothing of that. -/
def execEpConfigure (node : Node) (inc : Byte) (locked : Bool) (s : State) : Host.Outcome State Fault Refusal :=
  let e := s.ep
  .next (
    if e.trip ∨ e.enable = 0 ∨ isSwitch node ∨ (e.configured ∧ e.nodeId ≠ node) then s
    else
      let s := s.onEp fun e => { e with ep0 := e.enable.getLsbD 0, ep1 := e.enable.getLsbD 1 }
      if e.configured then s
      else s.onEp fun e => { if locked then epEmptied e else e with
        nodeId := node, incarnation := inc, configured := locked
        cellNode := BitVec.ofNat 16 (0x8000 + rackOf node * 256 + epSwOf node * 2)
        xp := setIncOf e.xp node inc
        tn := if locked then { e.tn with lock := .locked } else e.tn })

/-- EP0_LINK_LOSS (R166). -/
def execEp0LinkLoss (s : State) : Host.Outcome State Fault Refusal := .next (atEp s fun s => epLosePort s 0)

/-- EP_CONFIG_LOSS (R584): both ports are out of service. -/
def execEpConfigLoss (s : State) : Host.Outcome State Fault Refusal := .next (atEp s fun s => epLosePort (epLosePort s 1) 0)

/-- The junction temperature of the ZE-208; THERM_N is asserted at 105 °C (R596), and so is low. -/
def epTemp (s : State) (temp : Nat) : State :=
  let on := decide (105 ≤ temp)
  let s' := s.onEp fun e => { e with temp := temp, thermN := on }
  if s.ep.thermN = on then s' else s'.emit (.pin "EP THERM_N" (!on))

/-- EP_THERMAL_TRIP (R595): at 115 °C both ports stop transmitting and the configuration is lost. Its EP_DOWN report
(R610) goes out before the ports stop. -/
def execEpThermalTrip (temp : Nat) (s : State) : Host.Outcome State Fault Refusal :=
  let s := epTemp s temp
  .next (if temp < 115 then s
    else atEp s fun s =>
      let s := ((reportEpDown s 3).emit (.lanesOff 64)).emit (.lanesOff 65)
      epLosePort (epLosePort (s.onEp fun e => { e with trip := true }) 1) 0)

/-- Cells of the relayed packets that wait to leave by a port on a VC. -/
def relayCells (e : Ep) (port : Nat) (vc : Fin 8) : Nat :=
  ((e.relay.filter fun x => x.1 == port && x.2.1 == vc).map fun x => x.2.2.cells).sum

/-- The XOFF bits of a port for the relayed packets that it brings (R240, R241): a VC's is asserted while its buffer has
room for fewer than 128 cells, and kept until it has room for 192. How many cells a relay buffer has is free. -/
def relayBits (e : Ep) (port : Nat) : Byte :=
  BitVec.ofNat 8 ((List.range 8).map fun v =>
    let u := relayCells e (1 - port) (Fin.ofNat 8 v)
    let on := if (e.relayXoff.getD port 0).getLsbD v then decide (Config.relayRoom < u + 192)
      else decide (Config.relayRoom ≤ u + 128)
    b2n on * 2 ^ v).sum

/-- The flits of both ports carry the XOFF bits as they are now. -/
def relayTell (s : State) : State :=
  [0, 1].foldl (fun s p =>
    let b := relayBits s.ep p
    if b = s.ep.relayXoff.getD p 0 then s
    else (s.onEp fun e => { e with relayXoff := e.relayXoff.set p b }).emit (.epXoff p b)) s

/-- RELAY (R579): from one port of the ZE-208 to the other, unchanged and on the same VC, through buffers of its own; what
a switch sends to another is answered by an ACK, so a NACK came on VC2. -/
def execRelay (port : Fin 64) (pkt : Packet) (s : State) : Host.Outcome State Fault Refusal :=
  let other := 1 - port.val
  let vc := pkt.vcFor opMGMT
  .next (
    if port.val < 2 ∧ s.ep.configured ∧ epPortUp s.ep other ∧ isSwitch pkt.dst ∧ isSwitch pkt.src
      ∧ planeOf pkt.dst ≠ planeOf pkt.src then
      if epStopped s.ep other vc then relayTell (s.onEp fun e => { e with relay := e.relay ++ [(other, vc, pkt)] })
      else s.emit (epFlits other vc pkt)
    else s)

/-- A flit of an end-point port: its XOFF bits hold VCs back, or let go what waits (R242, R579). The packets that its
flits carry arrive by the rows of the packets. -/
def epFlitIn (s : State) (port : Nat) (f : Flit) : State :=
  if port < 2 ∧ epPortUp s.ep port ∧ f.lcrcOk then
    let s := s.onEp fun e => { e with xoff := e.xoff.set port f.xoff }
    let goes := fun x : Nat × Fin 8 × Packet => x.1 == port && !f.xoff.getLsbD x.2.1.val
    let out := s.ep.relay.filter goes ++ s.ep.outq.filter goes
    let s := s.onEp fun e => { e with relay := e.relay.filter fun x => !goes x, outq := e.outq.filter fun x => !goes x }
    relayTell (out.foldl (fun s x => s.emit (epFlits x.1 x.2.1 x.2.2)) s)
  else s

/-- CONTRIB_PROBE (R574): after 1 ms without a result, the lowest outstanding chunk is sent again. -/
def execContribProbe (binding : Fin 64) (t : Time) (s : State) : Host.Outcome State Fault Refusal :=
  let s := s.epAt t
  .next (match contribOp s.ep binding, s.ep.binds.get? binding with
    | some o, some b =>
      if b.done < b.sent ∧ due s.ep.now b.lastLand (ms 1) then
        let (el, n) := chunkSpan b b.done
        let s := s.onEp fun e => { e with binds := e.binds.set binding { b with lastLand := e.now } }
        epMrd s (EpDesc.local_ o.desc + el * b.inSize) (n * b.inSize) (.contribRd binding o.i o.k b.done true)
      else s
    | _, _ => s)

end Sys2Proof.Machine
end

