-- ==== Sys2Proof/Machine/Records.lean ====
section
/-! DEFINITION. Records: completion, fault and event rings with their markers and MSI-X (R512 to R533), DMA
(R510), and what every record carries. -/

namespace Sys2Proof.Machine

/-! ### Ring region lines (R513) -/

def cmdRingOff (n k : Nat) : Nat := n * 0x100000 + k % 4096 * 64
def cplRingOff (n k : Nat) : Nat := n * 0x100000 + 0x40000 + k % 4096 * 64
def idxLineOff (n : Nat) : Nat := n * 0x100000 + 0x80000
def faultRingOff (k : Nat) : Nat := 0x3E00000 + k % 32768 * 64
def eventRingOff (k : Nat) : Nat := 0x4000000 + k % 32768 * 64
def faultIdxOff : Nat := 0x4200000
def eventIdxOff : Nat := 0x4200040

/-- Writes one line of a port's ring region, taking the copies of it back (R512, R515). -/
def putRingLine (s : State) (p off : Nat) (data : List Byte) : State :=
  match lineHome s (ringIndex p) off with
  | none => s
  | some h => if lineServed s h then storeLine (takeBack s h) h (padTo 64 data) false else s

/-- The bytes of one line of a port's ring region. -/
def ringLine (s : State) (p off : Nat) : List Byte :=
  match lineHome s (ringIndex p) off with
  | none => zeros 64
  | some h => currentData s h

def ringLinePoisoned (s : State) (p off : Nat) : Bool :=
  match lineHome s (ringIndex p) off with
  | none => false
  | some h => currentPoison s h || !lineServed s h

/-- An index line (R514). -/
def indexLine (taken written now : Nat) : List Byte := leBytes 4 taken ++ leBytes 4 written ++ leBytes 8 now

/-! ### Hosts (R529) -/

def hostAttached (h : HostPort) : Bool := h.host != .detached

/-- An ATTACHED host is LIVE for 20 ms from each sign of life (R529). -/
def hostLive (s : State) (p : Nat) : Bool := (s.hp p).host == .live && !due s.now (s.hp p).beat (ms 20)

/-- The tick since which a host has not been LIVE, T0 of R531; one that never was has not been since reset. -/
def notLiveSince (h : HostPort) : Time := h.silentAt.getD (if h.host = .live then h.beat + ms 20 else 0)

/-- No host is LIVE 50 ms after T0 of a port's host: faults of its tenants complete at once, until a move (R532). -/
def overdueNow (s : State) (p : Nat) : Bool :=
  let h := s.hp p
  h.overdue || (!hostLive s 0 && !hostLive s 1 && due s.now (notLiveSince h) (ms 50))

/-- The owning host of a tenant tag (R81). DESIGN CHOICE (log entry 171): the operator domain has none, and its fault
records, which R98 sends to an owning host, go to HP0. -/
def ownerOf (s : State) (t : Tag) : Nat := (s.tenant t.toNat).owner.val

/-- A stream of CXL.io has failed: the port discards every TLP (R508). -/
def ioFailed (h : HostPort) : Bool := (h.ide.getD 0 default).failed || (h.ide.getD 1 default).failed

/-! ### MSI-X (R528) -/

/-- Sends a vector's message, or leaves it for the end of the 2 µs holdoff. -/
def msix (s : State) (p v : Nat) : State :=
  let h := s.hp p
  let free := match h.msixLast.get? v with
    | some t => due s.now t (us 2)
    | none => true
  if free then
    let s := s.setHp p { h with msixLast := h.msixLast.set v s.now, msixPend := h.msixPend.filter (· != v) }
    if ioFailed h then s else s.emit (.msix (Fin.ofNat 2 p) v)
  else s.setHp p { h with msixPend := if h.msixPend.contains v then h.msixPend else h.msixPend ++ [v] }

/-! ### Losses and markers (R526, R527) -/

def ringRecords : Nat := 32768

def Losses.add (l : Losses) (now : Time) (refused : Bool) : Losses :=
  { lost := Nat.min (l.lost + 1) 0xFFFFFFFF
    refused := Nat.min (l.refused + b2n refused) 0xFFFFFFFF
    first := if l.lost = 0 then now else l.first
    last := now }

def loseFault (s : State) (p : Nat) (refused : Bool) : State :=
  s.onHp p fun h => { h with faultLoss := h.faultLoss.add s.now refused }
def loseEvent (s : State) (p : Nat) : State :=
  s.onHp p fun h => { h with eventLoss := h.eventLoss.add s.now false }

def faultFull (h : HostPort) : Bool := decide ((h.faultWritten - h.faultCons).toNat ≥ ringRecords)
def eventFull (h : HostPort) : Bool := decide ((h.eventWritten - h.eventCons).toNat ≥ ringRecords)

/-- The overflow marker (R527). -/
def marker (s : State) (p : Nat) (kind : Byte) (l : Losses) : List Byte :=
  [kind, stFaultOverflow] ++ zeros 2 ++ leBytes 2 s.dev.nodeId.toNat ++ [BitVec.ofNat 8 (1 + p), 0]
    ++ leBytes 8 s.now ++ leBytes 4 l.lost ++ leBytes 4 (if kind = 0x0F then l.refused else 0)
    ++ leBytes 8 l.first ++ leBytes 8 l.last

/-- Writes a record into the next slot of the fault ring and then its index line. -/
def writeFault (s : State) (p : Nat) (r : List Byte) : State :=
  let k := (s.hp p).faultWritten
  let s := putRingLine s p (faultRingOff k.toNat) r
  let s := s.onHp p fun h => { h with faultWritten := k + 1 }
  msix (putRingLine s p faultIdxOff (indexLine 0 (k + 1).toNat s.now)) p 62

def writeEvent (s : State) (p : Nat) (r : List Byte) : State :=
  let k := (s.hp p).eventWritten
  let s := putRingLine s p (eventRingOff k.toNat) r
  let s := s.onHp p fun h => { h with eventWritten := k + 1 }
  msix (putRingLine s p eventIdxOff (indexLine 0 (k + 1).toNat s.now)) p 63

/-- Writes the marker that is due, as soon as the ring of an ATTACHED host has a free slot. -/
def faultMarker (s : State) (p : Nat) : State :=
  let h := s.hp p
  if h.faultLoss.lost ≠ 0 ∧ hostAttached h ∧ !faultFull h then
    writeFault (s.setHp p { h with faultLoss := default }) p (marker s p 0x0F h.faultLoss)
  else s

def eventMarker (s : State) (p : Nat) : State :=
  let h := s.hp p
  if h.eventLoss.lost ≠ 0 ∧ hostAttached h ∧ !eventFull h then
    writeEvent (s.setHp p { h with eventLoss := default }) p (marker s p 0x0E h.eventLoss)
  else s

/-- A record is lost; the marker is due at once while the ring of an ATTACHED host has a free slot (R527). -/
def faultLost (s : State) (p : Nat) (refused : Bool) : State := faultMarker (loseFault s p refused) p
def eventLost (s : State) (p : Nat) : State := eventMarker (loseEvent s p) p

/-- A queued event record may be written: one of the operator domain while its host is ATTACHED, a tenant's
while its OWNER is LIVE (R526, R531). -/
def eventDue (s : State) (p : Nat) (tag : Tag) : Bool := hostLive s p || (hostAttached (s.hp p) && isOp tag)

/-- Writes queued event records as space allows, in order (R526, R531). -/
def drainEvents : Nat → State → Nat → State
  | 0, s, _ => s
  | n + 1, s, p =>
    let h := s.hp p
    match h.eventQ.find? fun e => eventDue s p e.1 with
    | some e =>
      if eventFull h then s else drainEvents n (writeEvent (s.setHp p { h with eventQ := h.eventQ.erase e }) p e.2) p
    | none => s

/-- Queues up to 256 event records of a port; any further one is lost (R526). -/
def queueEvent (s : State) (p : Nat) (tag : Tag) (r : List Byte) : State :=
  if (s.hp p).eventQ.length < 256 then s.onHp p fun h => { h with eventQ := h.eventQ ++ [(tag, padTo 64 r)] }
  else eventLost s p

/-- Posts an event record on a port (R526): lost while its host is DETACHED, queued while the ring is full. -/
def postEvent (s : State) (p : Nat) (tag : Tag) (r : List Byte) : State :=
  if !hostAttached (s.hp p) then loseEvent s p
  else
    let s := eventMarker s p
    if eventFull (s.hp p) ∨ ((s.hp p).eventQ.any fun e => eventDue s p e.1) then queueEvent s p tag r
    else writeEvent s p (padTo 64 r)

/-- Posts an event record to the host that owns a tenant; while that host is not LIVE it is queued (R531).
A record of the operator domain goes to both hosts. -/
def ownerEvent (s : State) (tag : Tag) (r : List Byte) : State :=
  if isOp tag then postEvent (postEvent s 0 tag r) 1 tag r
  else
    let p := ownerOf s tag
    if hostLive s p then postEvent s p tag r else queueEvent s p tag r

def bothEvent (s : State) (r : List Byte) : State := postEvent (postEvent s 0 opTag r) 1 opTag r

/-- The job-step mark of a tenant (R628). -/
def stepOf (s : State) (t : Tag) : Nat := (s.flt.step.getD t.toNat 0).toNat

/-! ### Memory event records (R443) -/

def memEvent (s : State) (kind st : Byte) (tag : Tag) (stack : Nat) (cause : Byte) (region off granule : Nat)
    (source : Byte) (count : Nat) : List Byte :=
  [kind, st] ++ leBytes 2 tag.toNat ++ [BitVec.ofNat 8 stack, cause] ++ leBytes 2 region ++ leBytes 8 s.now
    ++ leBytes 8 off ++ leBytes 4 granule ++ [source] ++ zeros 3 ++ leBytes 8 (stepOf s tag) ++ leBytes 4 count

/-- Posts a memory event record, and its trace entry. -/
def memPost (s : State) (tag : Tag) (r : List Byte) : State := traceMemory (ownerEvent s tag r) tag r
def memPostBoth (s : State) (r : List Byte) : State := traceMemory (bothEvent s r) opTag r

/-! ### DMA by the switch (R510) -/

/-- DMA through a port is possible: Bus Master Enable is 1, the link is up, and IDE lets it (R509, R510). -/
def ideSecure (h : HostPort) : Bool :=
  (h.ide.getD 0 default).secure && (h.ide.getD 2 default).secure

def dmaOk (s : State) (p : Nat) : Bool :=
  let h := s.hp p
  h.linkUp && h.bme && (!s.cfg.ideRequired || ideSecure h)

/-- A write by DMA; a port whose stream of CXL.io has failed discards it (R508). -/
def dmaWrite (s : State) (p addr : Nat) (data : List Byte) : State :=
  if ioFailed (s.hp p) then s else s.emit (.dmaWrite (Fin.ofNat 2 p) addr data)

/-- DMA reads that a port keeps outstanding (R510). -/
def dmaLimit : Nat := 64

/-- The stage of a PROGRAM_LOAD's read whose data wait for the LOADER compartment of its quadrant (R35, R711). -/
def loadWaits : Nat := 8

/-- A read of the list is outstanding: it has been issued, and its data have not come. -/
def dmaOut (r : DmaRead) : Bool := r.sent && r.stage != loadWaits

/-- The reads of a port that wait are issued in order as far as its limit goes (R510). -/
def dmaPump : Nat → State → Nat → State
  | 0, s, _ => s
  | n + 1, s, p =>
    let h := s.hp p
    if dmaLimit ≤ (h.dma.filter dmaOut).length then s
    else match h.dma.find? fun r => !r.sent with
      | none => s
      | some r =>
        let s := s.onHp p fun h => { h with dma := h.dma.map fun x => if x = r then { r with sent := true, issued := s.now } else x }
        dmaPump n (if ioFailed h then s else s.emit (.dmaRead (Fin.ofNat 2 p) r.id r.addr r.len)) p

/-! ### Completions (R518, R521, R198) -/

/-- The host port of the commanding ring. -/
def originPort : Origin → Nat
  | .ring r => r.port.val
  | .carried _ _ _ p _ => p.val

def inFlight? (s : State) (r : CmdRef) : Option InFlight :=
  (s.hp r.port).inflight.find? fun f => decide (f.ring = r.ring ∧ f.slot = r.slot)

/-- The credentials of a command: the binding of its ring as it was taken, or the BINDING it was carried with
(R198, R523). -/
def credOf (s : State) : Origin → Tag
  | .ring r =>
    match inFlight? s r with
    | some f => f.cred
    | none => (State.ringOf (s.hp r.port) r.ring).binding
  | .carried _ b _ _ _ => b

/-- The effect of a command begins. -/
def effectBegins (s : State) (o : Origin) : State := s.onHif fun f => { f with
  begun := (o, s.now) :: f.begun.filter fun x => x.1 != o }

def effectEnds (s : State) (o : Origin) : State := s.onHif fun f => { f with begun := f.begun.filter fun x => x.1 != o }

/-- TIME of a completion: the tick at which the effect began, or at which the command failed (R518). -/
def effectTime (s : State) (o : Origin) (st : Status) : Time :=
  match s.hif.begun.find? fun x => x.1 == o with
  | some x => if st = stOk then x.2 else s.now
  | none => s.now

/-- The completion record (R518). -/
def cplRecord (time : Time) (d : Desc) (ring slot : Nat) (st : Status) (data : List Byte) : List Byte :=
  [BitVec.ofNat 8 (Desc.opcode d), st, BitVec.ofNat 8 ring, 0] ++ leBytes 4 (Desc.tag d) ++ leBytes 4 slot ++ zeros 4
    ++ leBytes 8 time ++ zeros 8 ++ padTo 32 data

/-- Writes a completion record to a ring, then its index line, and signals it when NOTIFY is set (R515,
R528). A command that is no longer in flight has had its completion discarded (R530). -/
def writeCompletion (s : State) (r : CmdRef) (rec : List Byte) (notify : Bool) : State :=
  let s := effectEnds s (.ring r)
  match inFlight? s r with
  | none => s
  | some f =>
    if f.orphan then s.onHp r.port fun h => { h with inflight := h.inflight.erase f } else
    let g := State.ringOf (s.hp r.port) r.ring
    let s := traceCommand s f.cred r.port r.ring r.slot.toNat f.desc (rec.getD 1 0)
    let s := putRingLine s r.port (cplRingOff r.ring g.written.toNat) rec
    let s := s.onHp r.port fun h => { h with
      inflight := h.inflight.erase f
      rings := h.rings.set r.ring { g with written := g.written + 1 } }
    let s := putRingLine s r.port (idxLineOff r.ring) (indexLine g.taken.toNat (g.written + 1).toNat s.now)
    if notify then msix s r.port r.ring.val else s

/-- CARRY_CPL (R195). -/
def carryCplPayload (id : BitVec 32) (rec : List Byte) : List Byte :=
  [0xB2] ++ zeros 3 ++ leBytes 4 id.toNat ++ zeros 8 ++ padTo 64 rec

/-- Completes a command, at its ring or at the switch that carried it here (R198, R521). -/
def complete (s : State) (o : Origin) (d : Desc) (st : Status) (data : List Byte) : State :=
  match o with
  | .ring r => writeCompletion s r (cplRecord (effectTime s o st) d r.ring r.slot.toNat st data) (Desc.notify d)
  | .carried src _ id _ ring =>
    let s := s.onHif fun f => { f with carriedIn := f.carriedIn.filter fun c => c.origin != o }
    sendMgmt (effectEnds s o) .carryCpl src (carryCplPayload id (cplRecord (effectTime s o st) d ring 0 st data))

/-- A DMA read for a command: it is issued once the port has one fewer than 64 outstanding (R510). -/
def dmaRead (s : State) (o : Origin) (d : Desc) (k : Pick) (stage addr len : Nat) (got : List Byte) : State :=
  let p := originPort o
  let id := s.hif.dmaId
  let s := s.onHif fun f => { f with dmaId := id + 1 }
  let s := s.onHp p fun h => { h with dma := h.dma ++ [⟨id, addr, len, s.now, o, d, k, stage, got, false⟩] }
  dmaPump (s.hp p).dma.length s p

/-! ### Page faults (R98 to R100, R531, R532) -/

/-- The translation fault record (R100). -/
structure MissInfo where
  window  : Bool
  tenant  : Tag
  source  : Node
  kind    : Byte
  engine  : Nat
  region  : Nat
  seq     : Nat
  addr    : Nat
  len     : Nat
  access  : Byte
  deriving DecidableEq, Repr, Inhabited

def missRecord (s : State) (m : MissInfo) : List Byte :=
  [if m.window then 0x02 else 0x01, if m.window then stOutOfRange else stTranslationFault]
    ++ leBytes 2 m.tenant.toNat ++ leBytes 2 m.source.toNat ++ [m.kind, BitVec.ofNat 8 m.engine] ++ leBytes 8 s.now
    ++ leBytes 2 m.region ++ zeros 2 ++ leBytes 4 m.seq ++ leBytes 8 m.addr ++ leBytes 4 m.len ++ [m.access]
    ++ zeros 3 ++ leBytes 8 (if m.window then 0 else stepOf s m.tenant)

/-- What becomes of a request that misses a page: completed with a status, or parked. -/
inductive MissRes
  | done (st : Status)
  | park
  deriving DecidableEq, Repr, Inhabited

/-- Region and page of a miss. -/
def missPage (m : MissInfo) : Nat × Nat := (m.region, m.addr / 65536)

/-- Enters a page in the pending-page table (R99): once, and while the table has space. -/
def pendPage (s : State) (page : Nat × Nat) : State :=
  if s.rgn.pendingPages.contains page ∨ s.rgn.pendingPages.length ≥ 1024 then s
  else s.onRgn fun g => { g with pendingPages := g.pendingPages ++ [page] }

/-- Parks a request with the record of its miss (R100). -/
def park (s : State) (isLine : Bool) (a : Arrival) (lineId : Nat) (m : MissInfo) (fs : List ReadFault) : State :=
  s.onRgn fun g => { g with
    parked := g.parked ++ [⟨m.tenant, isLine, a, lineId, s.now, missPage m, missRecord s m, fs⟩] }

/-- A parked request misses again: its record is written (R100). A miss on a further page writes a record of its own,
unless one is outstanding for that page (R99). DESIGN CHOICE (log entry 172): the record of the page that parked it
carries TIME and STEP of that first miss. -/
def missAgain (s : State) (p : Nat) (q : Parked) (m : MissInfo) : State :=
  if missPage m = q.page then writeFault (pendPage s q.page) p q.first
  else if s.rgn.pendingPages.contains (missPage m) then s
  else writeFault (pendPage s (missPage m)) p (missRecord s m)

/-- A miss at check 7 of a request that can be parked or not (R98 to R100, R526, R531, R532). -/
def pageMiss (s : State) (m : MissInfo) (canPark : Bool) : State × MissRes :=
  let s := s.onRgn fun g => { g with faults := bump g.faults }
  let page := missPage m
  if s.rgn.pendingPages.contains page then (s, .done stTranslationFault)
  else
    let owner := match s.region? m.region with
      | some r => r.tenant
      | none => m.tenant
    let p := ownerOf s owner
    let s := faultMarker s p
    if overdueNow s p then (faultLost s p true, .done stFaultOverflow)
    else if hostLive s p ∧ !faultFull (s.hp p) then (writeFault (pendPage s page) p (missRecord s m), .done stTranslationFault)
    else if !canPark then (faultLost s p false, .done stFaultOverflow)
    else if ((s.rgn.parked.filter fun q => decide (q.tenant = m.tenant)).length) < 256 then (pendPage s page, .park)
    else (faultLost s p true, .done stFaultOverflow)

/-- Counts a refusal at the checks of R82 and R95 (R112). -/
def countDeny (s : State) (st : Status) : State :=
  s.onRgn fun g =>
    if st = stKeyMismatch then { g with denyKey := bump g.denyKey }
    else if st = stTenantDenied then { g with denyTenant := bump g.denyTenant }
    else if st = stReadOnly then { g with denyWrite := bump g.denyWrite }
    else if st = stOutOfRange then { g with denyRange := bump g.denyRange }
    else g

end Sys2Proof.Machine
end

