-- ==== Sys2Proof/Machine/PwrCore.lean ====
section
/-! DEFINITION. The caps, the floor and the records of the power governor (R648, R652 to R659, R675), which links and
the host interface use too. -/

namespace Sys2Proof.Machine

/-- The rate factor is 0.80 or more (R28, R261, R265). -/
def rateFull (s : State) : Bool := decide (s.pwr.rate * 100 ≥ 80 * 1024)

/-- The cap in force: the least of the three (R652). -/
def capInForce (s : State) : Nat := Nat.min s.pwr.host (Nat.min s.pwr.row s.pwr.thermal)

/-- Awake directions of in-service ports (R658). -/
def awake (s : State) : Nat :=
  ((List.range 64).map fun p => if portUp s p then b2n (!(linkOf s p).sleepTx) + b2n (!(linkOf s p).sleepRx) else 0).sum

/-- F, in W (R658). Before Dawn has ended the register holds its reset value (R678). -/
def floorOf (s : State) : Nat := if s.dev.dawnDone then 140 + 110 * awake s / 128 else 250

/-- An estimate, in mW, meets the target of R654; a cap below F is held at F (R659). -/
def meets (s : State) (est : Nat) : Bool :=
  decide (est ≤ 10 * Nat.max (capInForce s) (floorOf s) * (100 - s.pwr.guard))

/-- The present estimate in whole watts (log entry 23). -/
def estimateW (s : State) : Nat := s.pwr.estimate / 1000

/-- Hottest logic sensor, and hottest stack, in °C. -/
def hotLogic (s : State) : Nat := (s.pwr.qtemp.map Prod.snd).foldl Nat.max 0
def hotStack (s : State) : Nat := (s.pool.stk.map fun e => e.2.temp).foldl Nat.max 0

/-- Sensors of a mask, as SENSORS counts them. -/
def maskSize (m : Nat) : Nat := (bitList m 64).length

/-- A supply entry (R670). -/
def supplyBytes (x : Supply) (open_ : Bool) : List Byte :=
  leBytes 8 x.start ++ leBytes 4 x.duration ++ leBytes 2 x.depth ++ leBytes 2 x.setpoint ++ leBytes 2 x.vinBefore
    ++ leBytes 2 x.vinMin ++ [x.quads, BitVec.ofNat 8 (maskSize x.sensors), x.flags ||| (if open_ then 0x20 else 0),
        BitVec.ofNat 8 x.temp] ++ leBytes 4 x.index ++ zeros 4

/-- A power event record (R675), to both hosts. -/
def powerEvent (s : State) (kind : Byte) (entry : Option Supply) : State :=
  bothEvent s ([kind, stOk] ++ leBytes 2 0x8000 ++ leBytes 2 (capInForce s) ++ leBytes 2 (floorOf s) ++ leBytes 8 s.now
    ++ (match entry with
        | some x => supplyBytes x false
        | none => zeros 32)
    ++ leBytes 2 (estimateW s) ++ [BitVec.ofNat 8 (hotLogic s), BitVec.ofNat 8 (hotStack s)] ++ zeros 12)

/-- UNMET against F (R659). `changed` says that the cap in force has changed. -/
def capCheck (s : State) (changed : Bool) : State :=
  if capInForce s < floorOf s then
    if s.pwr.unmet ∧ !changed then s
    else powerEvent (s.onPwr fun p => { p with unmet := true, unmetN := bump p.unmetN }) 0x71 none
  else s.onPwr fun p => { p with unmet := false }

/-- What a completion of PWR_CAP reports: the cap in force and F (R659). -/
def capData (s : State) : List Byte := leBytes 2 (capInForce s) ++ leBytes 2 (floorOf s)

/-- Changes a cap: a change of the cap in force starts a demand window (R656, R659, R661). -/
def setCap (s : State) (f : Pwr → Pwr) : State :=
  let c := capInForce s
  let s := s.onPwr f
  if capInForce s = c then s else capCheck (s.onPwr fun p => { p with capSince := some s.now }) true

/-- The ROW caps whose activation tick has come take effect, in the order of their ticks. -/
def rowCapsGo : Nat → State → State
  | 0, s => s
  | n + 1, s =>
    match (s.pwr.rowStaged.filter fun x => x.1 ≤ s.now).mergeSort (fun a b => a.1 ≤ b.1) with
    | [] => s
    | x :: _ => rowCapsGo n (setCap (s.onPwr fun p => { p with rowStaged := p.rowStaged.erase x }) fun p => { p with row := x.2 })

/-- Stages a ROW cap for its activation tick. -/
def stageRowCap (s : State) (activate cap : Nat) : State :=
  let s := s.onPwr fun p => { p with rowStaged := p.rowStaged ++ [(activate, cap)] }
  rowCapsGo s.pwr.rowStaged.length s

end Sys2Proof.Machine
end

