-- ==== Sys2Proof/Machine/Ladder.lean ====
section
/-! DEFINITION. The read ladder (R416 to R420), poisoning (R419), lost stacks (R430 to R432, R786) and the
checks of a region access (R82, R172). -/

namespace Sys2Proof.Machine

/-! ### Losing a stack (R430, R443, R786) -/

/-- Lowest granule of a list of spans on one stack, and how many there are. -/
def spansOn (xs : List Span) (k : Nat) : Nat × Nat :=
  let l := xs.filter fun x => decide (x.stack = k ∧ x.count ≠ 0)
  ((l.map fun x => mkGranule x.stack x.start).foldl Nat.min (2 ^ 24), (l.map Span.count).sum)

/-- Protection granules of a region on a stack. -/
def protSpans (r : Region) : List Span := (regionSpans r).drop (regionSpans { r with modes := r.modes &&& 0xFC }).length

/-- The lowest data granule index whose protection lies on a stack. -/
def firstProtected (s : State) (ri : Nat) (r : Region) (k : Nat) : Nat :=
  ((List.range r.dataGranules).find? fun i =>
    if r.protection = 1 then
      match granuleOf s ri r i with
      | some g => gStack (mirrorGranule r i g) == k
      | none => false
    else r.protection == 2 && gStack (parityGranule r (i / 4)) == k).getD 0

/-- Declares a stack lost: its record to both hosts, and one record for each region whose protection lay
there. -/
def declareStackLost (s : State) (k : Nat) : State :=
  if (s.stack k).lost then s
  else
    let s := s.onStack k fun t => { t with lost := true, failRun := 0 }
    let s := memPostBoth s (memEvent s 0x62 stDestLost opTag k 6 0 0 0 3 1)
    s.rgn.regions.foldl (fun s e =>
      let (g, n) := spansOn (protSpans e.2) k
      if n = 0 then s
      else memPost s e.2.tenant
        (memEvent s 0x63 stDestLost e.2.tenant k 6 e.1 (firstProtected s e.1 e.2 k * 65536) g 3 n)) s

/-! ### Poison (R419, R431, R785) -/

/-- The region index that records name; the ring regions are in no table. -/
def recRegion (h : LineHome) : Nat := if h.ri < 65536 then h.ri else 0

def poisonEvent (s : State) (h : LineHome) (cause source : Byte) (count : Nat) : State :=
  memPost s h.r.tenant
    (memEvent s 0x61 stPoisoned h.r.tenant (lineStack h.line) cause (recRegion h) h.off (h.line / 1024) source count)

/-- Poisons a line and its protection, and takes the cell's copies back. A partner copy is written by a
PARTNER_WRITE (R424), which the caller sends. -/
def poisonLine (s : State) (h : LineHome) (data : List Byte) : State := storeLine (takeBack s h) h data true

/-- LOSS_FATAL (R431): on the region's first access to a lost line, ERR_FATAL on both ports, AER, and a
record of KIND 0x64. -/
def escalate (s : State) (h : LineHome) (source : Byte) : State :=
  if h.r.lossFatal ∧ h.ri < 65536 ∧ !h.r.escalated then
    let s := s.onRegion h.ri fun r => { r with escalated := true }
    let s := (s.emit (.errFatal 0)).emit (.errFatal 1)
    let s := s.onHp 0 fun p => { p with aer := "Uncorrectable Internal Error" :: p.aer }
    let s := s.onHp 1 fun p => { p with aer := "Uncorrectable Internal Error" :: p.aer }
    memPostBoth s (memEvent s 0x64 stPoisoned h.r.tenant (lineStack h.line) 6 (recRegion h) h.off (h.line / 1024) source 1)
  else s

/-- An access to a line on a lost stack that nothing serves (R431, R432, R794): POISONED, with one record
for the line, and the escalation that the region asks for. -/
def lostAccess (s : State) (h : LineHome) (source : Byte) : State :=
  let md := lineMeta s h.line h.r.tenant
  let s := if md.poison then s
    else poisonEvent (s.onPool fun p => { p with lmeta := p.lmeta.set h.line { md with poison := true } }) h 6 source 1
  escalate s h source

/-! ### The ladder (R416 to R418) -/

inductive LineRes
  | data (d : List Byte)
  | poisoned
  | partner                -- a PARTNER_READ of the line is needed first
  deriving DecidableEq, Repr, Inhabited

def faultOf (fs : List ReadFault) (line : Nat) : Option ReadFault := fs.find? fun f => f.line == line

/-- One line read on a stack extends its run of reads that fail all three times, or breaks it; the 64th in a row
declares the stack lost (R430). -/
def noteRead (s : State) (k : Nat) (good : Bool) : State :=
  if good then s.onStack k fun t => { t with failRun := 0 }
  else
    let run := (s.stack k).failRun + 1
    let s := s.onStack k fun t => { t with failRun := run }
    if run ≥ 64 then declareStackLost s k else s

/-- A piece of a rebuild is good: its stack in service, its CRC good on one of three reads, its TENANT right. -/
def pieceOk (s : State) (fs : List ReadFault) (line : Nat) (tag : Tag) : Bool :=
  lineUp s line && (match faultOf fs line with
    | some f => decide (f.fails < 3)
    | none => true) && (lineMeta s line tag).tenant == tag

def pieceTagBad (s : State) (fs : List ReadFault) (line : Nat) (tag : Tag) : Bool :=
  lineUp s line && ((lineMeta s line tag).tenant != tag || (match faultOf fs line with
    | some f => decide (f.fails ≥ 3) && f.tag.isSome
    | none => false))

/-- The reads of pieces count in the runs of their stacks (R430). -/
def notePieces (s : State) (fs : List ReadFault) (lines : List Nat) (tag : Tag) : State :=
  lines.foldl (fun s l => if lineUp s l then noteRead s (lineStack l) (pieceOk s fs l tag) else s) s

def bumpCorrected (s : State) : State := s.onCol fun c => { c with evCorrected := Nat.min 255 (c.evCorrected + 1) }

/-- A line's write-back after its rebuild is due (R417). -/
def writeBackDue (s : State) (w : WriteBack) : State := s.onPool fun p => { p with
  rebuildWb := if p.rebuildWb.any (fun x => x.line == w.line) then p.rebuildWb else p.rebuildWb ++ [w] }

/-- A line rebuilt from its protection stands in its place; its write-back and its counts come with
REBUILD_WRITEBACK (R417). -/
def rebuilt (s : State) (h : LineHome) (data : List Byte) (epoch : Byte) (poison : Bool) (cause source : Byte) :
    State × LineRes :=
  let s := setLine s h.line data ⟨h.r.tenant, epoch, poison, false, false, 0⟩
  (writeBackDue s ⟨h.line, cause, source⟩, if poison then .poisoned else .data data)

/-- Step 5: the line is poisoned, counted and recorded. `tag` says that a TENANT failed. -/
def ladderPoison (s : State) (h : LineHome) (tag : Bool) (cause source : Byte) : State × LineRes :=
  let s := s.onStack (lineStack h.line) fun t => { t with
    poisoned := bump t.poisoned, tag := if tag then bump t.tag else t.tag }
  (poisonEvent (poisonLine s h (lineData s h.line)) h cause source 1, .poisoned)

/-- The pieces in this switch from which a line is rebuilt, or by which a line of a lost stack is served (R418,
R431). -/
def LineHome.parts (s : State) (h : LineHome) : List Nat :=
  if h.r.protection = 1 then [h.mirror] else if h.r.protection = 2 then h.parity :: h.peers s else []

/-- Steps 4 and 5 for a line of a stack in service whose three reads failed. -/
def rebuild (s : State) (h : LineHome) (fs : List ReadFault) (tagFail : Bool) (source : Byte) :
    State × LineRes :=
  let tag := h.r.tenant
  let why : Byte := if tagFail then 1 else 0
  let s := notePieces s fs (h.parts s) tag
  if h.r.protection = 1 then
    if pieceOk s fs h.mirror tag then
      let md := lineMeta s h.mirror tag
      rebuilt s h (lineData s h.mirror) md.epoch md.poison why source
    else if pieceTagBad s fs h.mirror tag then ladderPoison s h true 1 source
    else ladderPoison s h false 3 source
  else if h.r.protection = 2 then
    let ps := h.parts s
    if ps.all fun l => pieceOk s fs l tag then
      let pm := lineMeta s h.parity tag
      let ep := (h.peers s).foldl (fun e l => e - (lineMeta s l tag).epoch) pm.epoch
      rebuilt s h (parityData s h) ep (pm.dpoison.getLsbD h.lane) why source
    else if ps.any fun l => pieceTagBad s fs l tag then ladderPoison s h true 1 source
    else ladderPoison s h false 3 source
  else if h.r.protection = 3 then
    if h.r.partnerLost then ladderPoison s h false 7 source
    else (s, .partner)
  else ladderPoison s h false why source

/-- A line of a lost stack whose copy fails its checks, by a TENANT or not, is poisoned in its protection (R418, R419,
R431, R785). -/
def lostPoison (s : State) (h : LineHome) (tag : Bool) (source : Byte) : State :=
  let s := if currentPoison s h then s
    else
      let s := s.onStack (lineStack h.line) fun t => { t with
        poisoned := bump t.poisoned, tag := if tag then bump t.tag else t.tag }
      poisonEvent (poisonLine s h (currentData s h)) h 6 source 1
  escalate s h source

/-- What serving a line of a lost stack counts (R409, R417): a read rebuilt from parity, or a mirror copy that needed a
re-read, which counts in REREAD of its stack as well. -/
def lostCounts (s : State) (h : LineHome) (fs : List ReadFault) : State :=
  if h.r.protection = 2 then bumpCorrected s
  else match faultOf fs h.mirror with
    | some f => if f.fails = 0 then s
        else bumpCorrected (s.onStack (lineStack h.mirror) fun t => { t with reread := bump t.reread })
    | none => s

/-- A read of a line of a lost stack (R431, R432). -/
def readLost (s : State) (h : LineHome) (fs : List ReadFault) (got : List Nat) (source : Byte) : State × LineRes :=
  let ps := h.parts s
  let ok := ps.all fun l => pieceOk s fs l h.r.tenant
  let bad := ps.any fun l => pieceTagBad s fs l h.r.tenant
  let s := if lineServed s h then notePieces s fs ps h.r.tenant else s
  if !lineServed s h then (lostAccess s h source, .poisoned)
  else if h.r.protection = 3 then
    if !got.contains h.line then (s, .partner)
    else (s, if currentPoison s h then .poisoned else .data (currentData s h))
  else if ok then (lostCounts s h fs, if currentPoison s h then .poisoned else .data (currentData s h))
  else (lostPoison s h bad source, .poisoned)

/-- One read of a pool line (R416). `got` names the lines that the partner has just given for this read: they have
climbed the ladder. -/
def readLine (s : State) (h : LineHome) (fs : List ReadFault) (got : List Nat) (source : Byte) : State × LineRes :=
  let k := lineStack h.line
  let md := lineMeta s h.line h.r.tenant
  let good := fun s : State => (s, if md.poison then LineRes.poisoned else .data (lineData s h.line))
  if !lineUp s h.line then readLost s h fs got source
  else
    let bad := md.tenant != h.r.tenant
    let f := (faultOf fs h.line).getD ⟨h.line, 0, none⟩
    if h.r.protection = 3 ∧ got.contains h.line then good s
    else if f.fails = 0 ∧ !bad then good (noteRead s k true)
    else if f.fails < 3 ∧ !bad then
      good (bumpCorrected ((noteRead s k true).onStack k fun t => { t with reread := bump t.reread }))
    else
      let s := noteRead s k false
      if (s.stack k).lost then readLost s h fs got source
      else rebuild s h fs (f.tag.isSome || bad) source

/-! ### The checks of an access (R82, R95, R172, R787) -/

inductive AccKind
  | read | write | atomic
  deriving DecidableEq, Repr, Inhabited

/-- An access to be checked. `version` is the version a fabric read names; hosts and Crucible programs read
the current one. -/
structure Acc where
  region  : Nat
  key     : Option (BitVec 32)   -- hosts carry no key (R91)
  tag     : Tag
  kind    : AccKind
  engine  : Bool
  host    : Bool
  off     : Nat
  len     : Nat
  version : Option Nat
  deriving DecidableEq, Repr, Inhabited

inductive CheckRes
  | pass (r : Region) (off : Nat)   -- the region and the offset with the bank of a cast region added
  | fail (st : Status)
  | miss (off : Nat)                -- check 7: the first missing byte
  deriving DecidableEq, Repr, Inhabited

def versionServed (r : Region) (v : Nat) : Bool :=
  (decide (r.version ≠ 0) && decide (v % 2 ^ 32 = r.version % 2 ^ 32))
    || (decide (r.version ≥ 2) && r.prevServed && decide (v % 2 ^ 32 = (r.version - 1) % 2 ^ 32))

/-- Checks 1 to 5 of R82 (R787: a counter read needs no more than the first four). -/
def checkRights (s : State) (a : Acc) : Except Status Region :=
  match s.region? a.region with
  | none => .error stKeyMismatch
  | some r =>
    if r.destroying then .error stKeyMismatch
    else if (match a.key with
        | some k => !(k == r.keyCurrent || (r.graceOpen && k == r.keyPrevious))
        | none => false) then .error stKeyMismatch
    else if a.tag ≠ r.tenant ∨ (!isOp r.tenant ∧ !tagActive s r.tenant) then .error stTenantDenied
    else if (a.kind = .read ∧ !r.canRead) ∨ (a.engine ∧ !r.canEngine) ∨ (a.host ∧ a.kind = .read ∧ !r.canHost) then
      .error stTenantDenied
    else if (a.kind = .write ∧ (!r.canWrite ∨ r.isCast ∨ r.sealedNow)) ∨
        (a.kind = .atomic ∧ (!r.canAtomic ∨ r.isCast ∨ r.sealedNow)) then
      .error stReadOnly
    else .ok r

/-- The pages that an access touches. -/
def pagesOf (off len : Nat) : List Nat :=
  if len = 0 then [] else (List.range ((off + len - 1) / 65536 - off / 65536 + 1)).map (off / 65536 + ·)

def checkAcc (s : State) (a : Acc) : CheckRes :=
  match checkRights s a with
  | .error st => .fail st
  | .ok r =>
    let v := a.version.getD r.version
    if r.isCast ∧ !versionServed r v then .fail stVersionConflict
    else if a.off + a.len > r.bytes then .fail stOutOfRange
    else
      match (if r.isBacked then (pagesOf a.off a.len).find? fun p => (pageGranule s a.region p).isNone else none) with
      | some p => .miss (Nat.max a.off (p * 65536))
      | none => .pass r (if r.isCast then v % 2 * r.bytes + a.off else a.off)

/-- The counter check of R133. -/
def counterHeld (s : State) (tag : Tag) (c : Nat) : Bool :=
  match s.coh.counters.get? c with
  | some x => x.holder == tag
  | none => false

/-- A read of a counter of the switch; a free counter reads as 0 (R133). -/
def counterValue (s : State) (c : Nat) : BitVec 64 := (s.coh.counters.getD c default).value

def counterAdd (s : State) (c n : Nat) : State :=
  s.onCoh fun h => { h with counters := h.counters.modify c fun x => { x with value := bump x.value n } }

/-! ### Pieces of an access (R142, R143) -/

/-- One line's part of an access: region offset of its first byte, and bytes. -/
structure Piece where
  off : Nat
  len : Nat
  at_ : Nat   -- first byte within the access
  deriving DecidableEq, Repr, Inhabited

def pieces (off len : Nat) : List Piece :=
  if len = 0 then []
  else (List.range ((off + len - 1) / 64 - off / 64 + 1)).map fun i =>
    let lo := Nat.max off ((off / 64 + i) * 64)
    let hi := Nat.min (off + len) ((off / 64 + i + 1) * 64)
    ⟨lo, hi - lo, lo - off⟩

end Sys2Proof.Machine
end

