-- ==== Sys2Proof/Machine/Access.lean ====
section
/-! DEFINITION. Accesses at the home: recalls before an access (R118, R154, R155, R160), reads, landing writes
and atomics on pool lines and scratchpads, with their protection (R424, R425). -/

namespace Sys2Proof.Machine

/-! ### What an access waits for -/

/-- How an access uses a line: reads it, writes it, or takes it for ownership. -/
inductive Use
  | read | write | own
  deriving DecidableEq, Repr, Inhabited

/-- The copies to take back before an access by a holder, or by none (R118, R160). -/
def toRecall (s : State) (line : Nat) (u : Use) (me : Option (Fin 34)) : List (Fin 34 × Bool) :=
  match dirEntry s line with
  | none => []
  | some e =>
    match e.st with
    | .owned x => if some x = me then [] else [(x, true)]
    | .shared v =>
      if u = .read then []
      else ((holders (.shared v)).filter fun x => decide (some x ≠ me)).map fun x => (x, false)

/-- A read waits for the line's partner copy (R420). -/
def lineWanted (s : State) (line : Nat) : Bool := s.coh.blocked.any fun b => b.wants.contains line

/-- The line has an operation in progress: a recall whose data count, a mirrored write, or a climb of the ladder to the
partner (R123, R420). -/
def lineBusy (s : State) (line : Nat) : Bool :=
  s.coh.recalls.any (fun r => r.line == line && !r.drop) || s.partnerW.any (fun m => m.lines.contains line)
    || lineWanted s line

/-- The line has an access in progress for R154. -/
def lineInUse (s : State) (line : Nat) : Bool :=
  lineBusy s line || s.coh.blocked.any fun b => b.lines.contains line

/-- Sets of a directory slice (R154): 16 entries in each, 4,194,304 in all (R23). -/
def dirSets : Nat := 262144

/-- The directory set of a line: its quadrant's slice and the set in it (R153, R154). -/
def sameSet (a b : Nat) : Bool := lineQuad a == lineQuad b && Config.dirSet a % dirSets == Config.dirSet b % dirSets

/-- Makes room for a new directory entry (R154): the lines to wait for. With the set full the oldest entry
without an access in progress is recalled; with none such, the access tries again when something completes, and so
goes on at the first access of the set that does. -/
def dirRoom (s : State) (line : Nat) (homeOfLine : Nat → Option LineHome) : State × List Nat :=
  if (dirEntry s line).isSome then (s, [])
  else
    let es := s.coh.dir.filter fun e => sameSet e.line line
    if es.length < dirWays then (s, [])
    else
      match es.find? fun e => !lineInUse s e.line with
      | none => (s, [line])
      | some e =>
        match homeOfLine e.line with
        | none => (dirDrop s e.line, [])
        | some h =>
          let own := match e.st with
            | .owned _ => true
            | _ => false
          ((holders e.st).foldl (fun s x => snoop s h x own false) s, [e.line])

/-- The region line that a pool line belongs to, searched over the tables (for evictions). -/
def homeOfLine (s : State) (line : Nat) : Option LineHome :=
  let g := line / 1024
  let inRegion := fun (ri : Nat) (r : Region) =>
    (List.range r.dataGranules).findSome? fun i =>
      if granuleOf s ri r i = some g then some (⟨ri, r, i, line % 1024, line⟩ : LineHome) else none
  match s.rgn.regions.findSome? fun e => if e.2.isBacked then none else inRegion e.1 e.2 with
  | some h => some h
  | none =>
    match (s.rgn.ranges ++ s.rgn.leaving).find? fun e => decide (e.kind = .page) && decide (e.granule.toNat ≤ g) &&
        decide (g < e.granule.toNat + e.length / 65536) with
    | some e => lineHome s e.region (e.start + (g - e.granule.toNat) * 65536 + line % 1024 * 64)
    | none =>
      match s.rgn.pageJobs.find? fun j => j.out && j.granule.toNat == g with
      | some j => lineHome s j.region (j.page * 65536 + line % 1024 * 64)
      | none => (List.range 2).findSome? fun p => if hpPresent s p then inRegion (ringIndex p) (ringRegion s p) else none

/-- Sends the snoops an access needs and answers the lines it must wait for. -/
def prepare (s : State) (hs : List LineHome) (u : Use) (me : Option (Fin 34)) (entry : Bool) : State × List Nat :=
  hs.foldl (fun (s, w) h =>
    let rs := toRecall s h.line u me
    let busy := lineBusy s h.line
    let s := if busy then s else rs.foldl (fun s x => snoop s h x.1 x.2 false) s
    let w := if rs ≠ [] ∨ busy then w ++ [h.line] else w
    if entry ∧ rs = [] ∧ !busy then
      let (s, v) := dirRoom s h.line (homeOfLine s)
      (s, w ++ v)
    else (s, w)) (s, [])

/-- Leaves an access waiting for lines, with the read failures that it will meet. -/
def block (s : State) (w : Waiter) (reg off : Nat) (lines got : List Nat) (fs : List ReadFault) : State :=
  s.onCoh fun c => { c with blocked := c.blocked ++ [⟨w, reg, off, lines, [], got, fs⟩] }

/-- Leaves an access waiting for lines that only the partner holds. Its failures on other lines have been met. -/
def awaitPartner (s : State) (w : Waiter) (reg off : Nat) (wants got : List Nat) : State :=
  s.onCoh fun c => { c with blocked := c.blocked ++ [⟨w, reg, off, [], wants, got, []⟩] }

/-! ### Reading -/

/-- Reads the pieces of an access. Each result is the piece's bytes, poison, or the need of the partner. -/
def readPieces (s : State) (ri : Nat) (ps : List Piece) (fs : List ReadFault) (got : List Nat) (source : Byte) :
    State × List (Nat × LineRes) :=
  ps.foldl (fun (s, out) p =>
    match lineHome s ri p.off with
    | none => (s, out ++ [(0, .poisoned)])
    | some h =>
      let (s, r) := readLine s h fs got source
      (s, out ++ [(h.line, match r with
        | .data d => .data ((d.drop (p.off % 64)).take p.len)
        | x => x)])) (s, [])

def anyPoison (l : List (Nat × LineRes)) : Bool := l.any fun x => x.2 == .poisoned
def wantsOf (l : List (Nat × LineRes)) : List Nat := (l.filter fun x => x.2 == .partner).map Prod.fst
def joinData (l : List (Nat × LineRes)) : List Byte := l.flatMap fun x =>
  match x.2 with
  | .data d => d
  | _ => []

/-! ### Partner traffic (R425) -/

/-- Metadata bytes 68 to 71 of a line image. -/
def metaBytes (m : LineMeta) : List Byte :=
  leBytes 2 m.tenant.toNat ++ [m.epoch,
    BitVec.ofNat 8 (b2n m.poison + 2 * b2n m.copy + 4 * b2n m.parity + 8 * m.dpoison.toNat)]

def imageBytes (data : List Byte) (m : LineMeta) : List Byte := padTo 64 data ++ metaBytes m

/-- The header of partner messages. -/
def partnerHead (msg count granule first : Nat) : List Byte :=
  [BitVec.ofNat 8 msg, BitVec.ofNat 8 count] ++ zeros 2 ++ leBytes 4 granule ++ leBytes 2 first ++ zeros 6

/-- Reads a line from the partner, unless it is being read. -/
def partnerReadReq (s : State) (h : LineHome) : State :=
  if s.xp.ops.any (fun o => o.cause == .partnerRead h.line) || s.xp.wait.any (fun o => o.cause == .partnerRead h.line) then s
  else sendMgmt s (.partnerRead h.line) h.r.partner (partnerHead 0x91 1 (partnerGranule h.r h.gi) h.m)

/-- Sends the PARTNER_WRITEs of a write: one for each run of up to 29 lines of one granule. -/
def partnerWrites (s : State) (wid reg : Nat) (node : Node) (imgs : List (Nat × Nat × List Byte)) : State × Nat :=
  let runs := imgs.foldl (fun (acc : List (Nat × Nat × List (List Byte))) x =>
    match acc.getLast? with
    | some (g, f, l) =>
      if g = x.1 ∧ f + l.length = x.2.1 ∧ l.length < 29 then acc.dropLast ++ [(g, f, l ++ [x.2.2])]
      else acc ++ [(x.1, x.2.1, [x.2.2])]
    | none => [(x.1, x.2.1, [x.2.2])]) []
  (runs.foldl (fun s r => sendMgmt s (.partnerWrite wid reg) node
    (partnerHead 0x90 r.2.2.length r.1 r.2.1 ++ r.2.2.flatten)) s, runs.length)

/-- A region whose writes wait for its partner (R424, R433). -/
def partnered (r : Region) : Bool := r.protection == 3 && !r.partnerLost

/-! ### Landing -/

/-- A line's part of a write: its home, the byte mask and the line's new bytes where the mask is set. -/
structure LineWrite where
  h    : LineHome
  mask : Nat
  data : List Byte
  deriving DecidableEq, Repr, Inhabited

def fullMask : Nat := 2 ^ 64 - 1

/-- The line writes of a write of bytes to a region. -/
def lineWrites (s : State) (ri off : Nat) (bytes : List Byte) : List LineWrite :=
  (pieces off bytes.length).filterMap fun p =>
    (lineHome s ri p.off).map fun h =>
      ⟨h, (2 ^ p.len - 1) <<< (p.off % 64), padTo 64 (zeros (p.off % 64) ++ (bytes.drop p.at_).take p.len)⟩

/-- Whether a line write lands (R165, R431): not on a line that nothing serves, and not in part on poison. -/
def lands (s : State) (w : LineWrite) : Bool :=
  lineServed s w.h && (w.mask == fullMask || !currentPoison s w.h)

/-- The bytes of the line after a line write. -/
def written (s : State) (w : LineWrite) : List Byte := maskMerge w.mask (currentData s w.h) w.data

def maskCount (m : Nat) : Nat := (bitList m 64).length

/-- Lands one line write, with its protection here; the number of bytes that landed, or none where it did
not land. -/
def landLine (s : State) (w : LineWrite) : State × Option Nat :=
  if !lineServed s w.h then (lostAccess s w.h 2, none)
  else if !lands s w then (s, none)
  else if w.mask = 0 then (s, some 0)
  else (storeLine s w.h (written s w) false, some (maskCount w.mask))

/-- Lands the lines of a write; whether all landed, and the bytes landed. -/
def landAll (s : State) (ws : List LineWrite) : State × Bool × Nat :=
  ws.foldl (fun (s, ok, n) w =>
    let (s, r) := landLine s w
    match r with
    | some k => (s, ok, n + k)
    | none => (s, false, n)) (s, true, 0)

/-- Whether a write sends anything to the partner. -/
def mirrorNeeded (s : State) (r : Region) (ws : List LineWrite) : Bool :=
  partnered r && ws.any fun w => lands s w && w.mask != 0

/-- Sends a write to the partner first (R424): the write waits as `who` until it is acknowledged. -/
def mirrorWrite (s : State) (who : Waiter) (reg off : Nat) (r : Region) (ws : List LineWrite) : State :=
  let wid := s.widNext
  let imgs := (ws.filter fun w => lands s w && w.mask != 0).map fun w =>
    (partnerGranule r w.h.gi, w.h.m, imageBytes (written s w)
      ⟨r.tenant, (lineMeta s w.h.line r.tenant).epoch + 1, false, true, false, 0⟩)
  let s := { s with widNext := wid + 1 }
  let (s, n) := partnerWrites s wid reg r.partner imgs
  { s with partnerW := s.partnerW ++ [⟨wid, who, reg, off, ws.map fun w => w.h.line, n⟩] }

/-- Sends lines of a partnered region, as they stand here now, to the partner (R419, R424). They are busy until it has
acknowledged them: what follows on them, and `who`, waits. -/
def partnerKeep (s : State) (who : Waiter) (ri : Nat) (r : Region) (hs : List LineHome) : State :=
  if partnered r ∧ hs ≠ [] then
    let wid := s.widNext
    let imgs := hs.map fun h =>
      (partnerGranule r h.gi, h.m, imageBytes (lineData s h.line) { lineMeta s h.line r.tenant with copy := true })
    let (s, n) := partnerWrites { s with widNext := wid + 1 } wid ri r.partner imgs
    { s with partnerW := s.partnerW ++ [⟨wid, who, ri, 0, hs.map LineHome.line, n⟩] }
  else s

/-- The partner's copy of one line that has just been written or poisoned here. -/
def partnerLine (s : State) (h : LineHome) : State := partnerKeep s .kept h.ri h.r [h]

/-- A region's lines may be owned: writes to it are allowed (R82, R173, R702). A request for ownership of any other line
gets a SHARED copy. DEDUCED (log entry 179). -/
def ownable (r : Region) : Bool := r.canWrite && !r.isCast && !r.sealedNow

/-! ### Scratchpads (R65, R296) -/

def readScratch (s : State) (r : Region) (off n : Nat) : List Byte := s.pool.scratch.readN (scratchAddr r off) n
def writeScratch (s : State) (r : Region) (off : Nat) (bytes : List Byte) : State :=
  s.onPool fun p => { p with scratch := p.scratch.writeN (scratchAddr r off) bytes }

/-- Lines that pieces lie on. -/
def homesOf (s : State) (ri : Nat) (ps : List Piece) : List LineHome := ps.filterMap fun p => lineHome s ri p.off

/-- Whether a line of a region may be cached where a requester is (R156). -/
def cacheableFor (s : State) (r : Region) (cell : Bool) : Bool :=
  !r.isScratch && (cell || r.isCast || (r.sharing == 1 && decide (s.cfg.racks ≤ 4)))

end Sys2Proof.Machine
end

