-- ==== Sys2Proof/Machine/Serve.lean ====
section
/-! DEFINITION. Fabric and host requests at the switch that is their home: the checks at arrival, and the access
itself, which may first wait for recalls (R160), for a partner (R424) or for a page (R100). -/

namespace Sys2Proof.Machine

/-! ### Fabric requests -/

/-- A request of this switch itself is a STORE or SIGNAL of a Crucible program, whose ID is its STREAM (R288,
R348). -/
def ownRequest (s : State) (p : Packet) : Bool := p.src == s.dev.nodeId

def fabricAcc (s : State) (p : Packet) (k : AccKind) (len : Nat) : Acc :=
  ⟨p.region.toNat, some p.key, tagOf p.tenant, k, ownRequest s p, false, p.off, len, some p.tag.toNat⟩

def fabricMiss (s : State) (a : Arrival) (k : AccKind) (off len : Nat) : MissInfo :=
  ⟨false, tagOf a.pkt.tenant, a.pkt.src, if ownRequest s a.pkt then 3 else 0,
    if ownRequest s a.pkt then a.pkt.stream.toNat / 16 else 0, a.pkt.region.toNat,
    if ownRequest s a.pkt then 0 else a.pkt.seq.toNat, off, len,
    match k with
    | .read => 0
    | .write => 1
    | .atomic => 2⟩

/-- Refuses a request at its checks of R82 (R83, R112); one that runs again is counted no second time (R205). -/
def deny (s : State) (a : Arrival) (st : Status) : State :=
  refuse (if reRun (s.xp.dstOf a.pkt.src) a.pkt then s else countDeny s st) a st

/-- Check 7 failed: TRANSLATION_FAULT with its record, or the request is parked (R98 to R100). -/
def fabricPageMiss (s : State) (a : Arrival) (k : AccKind) (off len : Nat) (fs : List ReadFault) : State :=
  let m := fabricMiss s a k off len
  let (s, r) := pageMiss s m true
  match r with
  | .done st => refuse s a st
  | .park => park s false a 0 m fs

/-- The read itself (R118, R123, R155, R416). -/
def readAt (s : State) (a : Arrival) (ri : Nat) (r : Region) (off : Nat) (fs : List ReadFault) (got : List Nat) : State :=
  let p := a.pkt
  let n := p.lenBytes
  if r.isScratch then
    finishReq s a stOk (answer s.now p opREADREPLY stOk false false (readScratch s r off n)) false
  else
    let ps := pieces off n
    let hs := homesOf s ri ps
    let own := p.opcode == opREADOWN && ownable r
    let me := cellHolder s a.port p.src
    let cacheable := cacheableFor s r me.isSome
    let entry := me.isSome && cacheable && (p.opcode == opREADOWN || p.cache)
    let (s, w) := prepare s hs (if own then .own else .read) (if entry then me else none) entry
    if w ≠ [] then block s (.packet a) ri off w got fs
    else
      let (s, res) := readPieces s ri ps fs got 0
      if anyPoison res then refuse s a stPoisoned
      else if wantsOf res ≠ [] then
        awaitPartner ((hs.filter fun h => (wantsOf res).contains h.line).foldl partnerReadReq s) (.packet a) ri off (wantsOf res) got
      else
        let s := match me with
          | some x =>
            if entry then hs.foldl (fun s h => if own then dirPut s h.line (.owned x) else dirShare s h.line x) s else s
          | none => s
        finishReq s a stOk (answer s.now p opREADREPLY stOk (own && entry) cacheable (joinData res)) false

/-- READ and READ_OWN from step 6 on. -/
def serveRead (s : State) (a : Arrival) (fs : List ReadFault) : State :=
  match checkAcc s (fabricAcc s a.pkt .read a.pkt.lenBytes) with
  | .fail st => deny s a st
  | .miss off => fabricPageMiss s a .read off a.pkt.lenBytes fs
  | .pass r off => readAt s a a.pkt.region.toNat r off fs []

/-- COUNTER_READ (R133, R787). -/
def serveCounterRead (s : State) (a : Arrival) : State :=
  let p := a.pkt
  match checkRights s (fabricAcc s p .read 0) with
  | .error st => deny s a st
  | .ok _ =>
    if counterHeld s (tagOf p.tenant) p.counter then
      finishReq s a stOk (answer s.now p opCOUNTERREPLY stOk false false
        (leBytes 8 (counterValue s p.counter).toNat)) false
    else refuse s a stTenantDenied      -- the counter check of R133 is none of R82

/-- The bytes that a write carries, with the mask of a WRITEBACK. -/
def packetWrites (s : State) (p : Packet) (ri off : Nat) : List LineWrite :=
  if p.opcode = opWRITEBACK then
    match lineHome s ri off with
    | some h => [⟨h, fieldAt p.payload 0 8, (p.payload.drop 8).take 64⟩]
    | none => []
  else lineWrites s ri off p.payload

/-- Bytes of region that a write covers, for its checks. -/
def writeSpan (p : Packet) : Nat := if p.opcode = opWRITEBACK then 64 else p.lenBytes

/-- After a WRITEBACK from the holder recorded as OWNED, the home records it as SHARED (R792). -/
def afterWriteback (s : State) (line : Nat) (x : Option (Fin 34)) : State :=
  match x, dirEntry s line with
  | some x, some e => if e.st = .owned x then dirPut s line (.shared (1#34 <<< x.val)) else s
  | _, _ => s

/-- Counts the landed bytes and acknowledges (R122, R131, R165). A request that runs again after a POISONED one counts
only bytes that have not been counted (R205). -/
def writeDone (s : State) (a : Arrival) (ok : Bool) (n : Nat) : State :=
  let p := a.pkt
  let s := if p.counterValid then counterAdd s p.counter (n - countedFor (s.xp.dstOf p.src) p) else s
  let s := finishReq s a (if ok then stOk else stPoisoned) (ackOf s p (if ok then stOk else stPoisoned)) false
  if ok then s else s.onXp fun x => x.setDst p.src (keepCounted (x.dstOf p.src) p n)

/-- What landing does to the directory: the writer leaves a SHARED set (R158), or becomes SHARED (R792). -/
def writerDir (s : State) (p : Packet) (me : Option (Fin 34)) (lines : List Nat) : State :=
  lines.foldl (fun s l =>
    if p.opcode = opWRITEBACK then afterWriteback s l me
    else match me with
      | some x =>
        match dirEntry s l with
        | some ⟨_, .shared _⟩ => dirRemove s l x
        | _ => s
      | none => s) s

/-- The write itself (R118, R424). `acked` says that the partner holds it. -/
def writeAt (s : State) (a : Arrival) (ri : Nat) (r : Region) (off : Nat) (acked : Bool) : State :=
  let p := a.pkt
  if r.isScratch then
    let s := if p.opcode = opWRITEBACK then
        writeScratch s r off (maskMerge (fieldAt p.payload 0 8) (readScratch s r off 64) ((p.payload.drop 8).take 64))
      else writeScratch s r off p.payload
    writeDone s a true (if p.opcode = opWRITEBACK then maskCount (fieldAt p.payload 0 8) else p.lenBytes)
  else
    let ws := packetWrites s p ri off
    let hs := ws.map LineWrite.h
    let me := cellHolder s a.port p.src
    let fromOwner := p.opcode = opWRITEBACK ∧ hs.all fun h =>
      match me, dirEntry s h.line with
      | some x, some e => e.st == .owned x
      | _, _ => false
    -- a WRITEBACK of no byte writes nothing, and so takes no copy back
    let idle := p.opcode = opWRITEBACK ∧ ws.all fun w => w.mask == 0
    let (s, w) := if acked ∨ fromOwner ∨ idle then (s, []) else prepare s hs .write me false
    if w ≠ [] then block s (.packet a) ri off w [] []
    else if !acked ∧ mirrorNeeded s r ws then mirrorWrite s (.packet a) ri off r ws
    else
      let (s, ok, n) := landAll s ws
      writeDone (writerDir s p me (hs.map LineHome.line)) a ok n

/-- A WRITEBACK that is refused still ends the sender's ownership (R792). -/
def refusedWriteback (s : State) (a : Arrival) : State :=
  if a.pkt.opcode = opWRITEBACK then
    match lineHome s a.pkt.region.toNat a.pkt.off with
    | some h => afterWriteback s h.line (cellHolder s a.port a.pkt.src)
    | none => s
  else s

/-- The checks of R82 of a write. -/
def writeCheck (s : State) (p : Packet) : CheckRes := checkAcc s (fabricAcc s p .write (writeSpan p))

/-- The further check of a write that tags a counter fails (R133). -/
def counterDenied (s : State) (p : Packet) : Bool := p.counterValid && !counterHeld s (tagOf p.tenant) p.counter

/-- WRITE, STORE and WRITEBACK from step 7 on. -/
def serveWrite (s : State) (a : Arrival) : State :=
  match writeCheck s a.pkt with
  | .fail st => deny (refusedWriteback s a) a st
  | .miss off => fabricPageMiss (refusedWriteback s a) a .write off (writeSpan a.pkt) []
  | .pass r off =>
    if counterDenied s a.pkt then refuse (refusedWriteback s a) a stTenantDenied
    else writeAt s a a.pkt.region.toNat r off false

/-- A closing write from step 7 on (R793): refused at once with the NACK of its check, or held with a HOLD (R208). A
page miss parks nothing. DESIGN CHOICE (log entry 173): R793 wins over R100 for it. -/
def serveClosing (s : State) (a : Arrival) : State :=
  match writeCheck s a.pkt with
  | .fail st => deny s a st
  | .miss off =>
    refuse (pageMiss s (fabricMiss s a .write off (writeSpan a.pkt)) false).1 a stTranslationFault
  | .pass _ _ =>
    if counterDenied s a.pkt then refuse s a stTenantDenied else
    let s := s.onXp fun x => { x with cw := x.cw ++ [(a, s.now)] }
    if mayClose s.xp a then s
    else
      respond (s.onXp fun x => { x with
        busy := x.busy.map fun b => if b.arr = a then { b with lastHold := some s.now } else b }) (answerQuad s a.port) a.pkt (holdOf s a.pkt)

/-- The atomic itself (R144, R199): the line is read through the ladder, then written. -/
def atomicAt (s : State) (a : Arrival) (ri : Nat) (r : Region) (off : Nat) (fs : List ReadFault) (got : List Nat)
    (acked : Bool) : State :=
  let p := a.pkt
  let n := atomicSize p
  let done := fun (s : State) (old : List Byte) =>
    finishReq s a stOk (answer s.now p opATOMICREPLY stOk false false old) true
  if r.isScratch then
    let old := readScratch s r off n
    done (writeScratch s r off (leBytes n (atomicNew p.subop n (leNat old) p.payload))) old
  else
    match lineHome s ri off with
    | none => refuse s a stPoisoned
    | some h =>
      let me := cellHolder s a.port p.src
      let (s, w) := if acked then (s, []) else prepare s [h] .write me false
      if w ≠ [] then block s (.packet a) ri off w got fs
      else
        let (s, res) := readLine s h fs got 0
        match res with
        | .poisoned => finishReq s a stPoisoned (answer s.now p opATOMICREPLY stPoisoned false false []) false
        | .partner => awaitPartner (partnerReadReq s h) (.packet a) ri off [h.line] got
        | .data d =>
          let old := (d.drop (off % 64)).take n
          let ws := lineWrites s ri off (leBytes n (atomicNew p.subop n (leNat old) p.payload))
          if !acked ∧ mirrorNeeded s r ws then mirrorWrite s (.packet a) ri off r ws
          else
            let (s, _, _) := landAll s ws
            done (writerDir s p me [h.line]) old

def serveAtomic (s : State) (a : Arrival) (fs : List ReadFault) : State :=
  match checkAcc s (fabricAcc s a.pkt .atomic (atomicSize a.pkt)) with
  | .fail st => deny s a st
  | .miss off => fabricPageMiss s a .atomic off (atomicSize a.pkt) fs
  | .pass r off => atomicAt s a a.pkt.region.toNat r off fs [] false

/-- Goes on with a fabric request located at its lookup. -/
def resumePacket (s : State) (a : Arrival) (ri off : Nat) (got : List Nat) (fs : List ReadFault) (acked : Bool) : State :=
  match s.region? ri with
  | none => refuse s a stKeyMismatch
  | some r =>
    if a.pkt.opcode = opREAD ∨ a.pkt.opcode = opREADOWN then readAt s a ri r off fs got
    else if a.pkt.opcode = opATOMIC then atomicAt s a ri r off fs got acked
    else writeAt s a ri r off acked

/-- Repeats a fabric request from its checks (R100). DESIGN CHOICE (log entry 174): every check of R82 is repeated, not
the translation alone. -/
def retryPacket (s : State) (a : Arrival) (fs : List ReadFault) : State :=
  if a.pkt.opcode = opREAD ∨ a.pkt.opcode = opREADOWN then serveRead s a fs
  else if a.pkt.opcode = opATOMIC then serveAtomic s a fs
  else serveWrite s a

/-! ### Host requests (R95, R96, R503) -/

/-- The first address of the ring window (R512, R538). -/
def ringWindow (h : HostPort) : Nat := h.ringBase.toNat * 2 ^ 28

def inDecoder (h : HostPort) (a : Nat) : Bool :=
  h.decoders.any fun d => d.2.committed && decide (d.2.base ≤ a) && decide (a < d.2.base + d.2.size)

/-- The HOST_WINDOW entry that covers an address (R95). -/
def windowOf (s : State) (p : Fin 2) (a : Nat) : Option RangeEntry :=
  s.rgn.ranges.find? fun e => decide (e.kind = .window ∧ e.port = p ∧ e.start ≤ a ∧ a < e.start + e.length)

inductive HostLoc
  | bad                                     -- no window, or a check failed
  | at_ (ri : Nat) (r : Region) (off : Nat)
  deriving DecidableEq, Repr, Inhabited

def hostKind (q : HostReq) : AccKind :=
  match q with
  | .rd _ _ => .read
  | _ => .write

def hostAddr : HostReq → Nat
  | .rd a _ => a
  | .wr a _ => a
  | .wrPtl a _ _ => a

/-- Translates and checks a host request of one line (R95, R96). -/
def hostLocate (s : State) (p : Fin 2) (q : HostReq) : State × HostLoc :=
  let h := s.hp p
  let a := hostAddr q / 64 * 64
  let k := hostKind q
  let miss : MissInfo :=
    ⟨false, 0, s.dev.nodeId, BitVec.ofNat 8 (1 + p.val), 0, 0, 0, a, 64, if k = .read then 0 else 1⟩
  if ringWindow h ≤ a ∧ a - ringWindow h < 2 ^ 28 then
    (s, .at_ (ringIndex p) (ringRegion s p) (a - ringWindow h))
  else
    match windowOf s p a with
    | none =>
      let s := s.onRgn fun g => { g with faults := bump g.faults }
      let s := faultMarker s p
      if hostAttached (s.hp p) ∧ !faultFull (s.hp p) then (writeFault s p (missRecord s { miss with window := true }), .bad)
      else (faultLost s p false, .bad)
    | some e =>
      let off := e.offset + (a - e.start)
      match checkAcc s ⟨e.region, none, e.tenant, k, false, true, off, 64, none⟩ with
      | .pass r off => (s, .at_ e.region r off)
      | .fail st => (countDeny s st, .bad)
      | .miss o => ((pageMiss s { miss with tenant := e.tenant, region := e.region, addr := o } false).1, .bad)

/-- The access of a host at its line. -/
def hostAt (s : State) (p : Fin 2) (q : HostReq) (ri : Nat) (r : Region) (off : Nat) (fs : List ReadFault)
    (got : List Nat) (acked : Bool) : State :=
  let me : Fin 34 := Fin.ofNat 34 p.val
  match lineHome s ri off with
  | none => s
  | some h =>
    match q with
    | .rd a mv =>
      let own := decide (mv = .any) && (ownable r || decide (ri ≥ 65536))
      let u := if own then Use.own else .read
      let entry := decide (mv = .any ∨ mv = .shared) && (s.hp p).biEnable
      let (s, w) := prepare s [h] u (some me) entry
      if w ≠ [] then block s (.host p q) ri off w got fs
      else
        let (s, res) := readLine s h fs got 0
        match res with
        | .poisoned => s.emit (.cxlData p a (zeros 64) true)
        | .partner => awaitPartner (partnerReadReq s h) (.host p q) ri off [h.line] got
        | .data d =>
          let s := if entry then (if own then dirPut s h.line (.owned me) else dirShare s h.line me) else s
          s.emit (.cxlData p a d false)
    | q =>
      let (a, mask, data) := match q with
        | .wrPtl a m d => (a, m.toNat, d)
        | .wr a d => (a, fullMask, d)
        | .rd a _ => (a, 0, [])
      let ws : List LineWrite := [⟨h, mask, padTo 64 data⟩]
      -- the owner's own write lands ahead of what waits for its recall, as a WRITEBACK does
      let owner := (dirEntry s h.line).map DirEntry.st == some (.owned me)
      let (s, w) := if acked ∨ owner then (s, []) else prepare s [h] .write (some me) false
      if w ≠ [] then block s (.host p q) ri off w got []
      else if !acked ∧ mirrorNeeded s r ws then mirrorWrite s (.host p q) ri off r ws
      else ((landAll s ws).1 |> (dirRemove · h.line me)).emit (.cxlCmp p a)

/-- How a host request ends that finds no window or fails a check: poison, or discarded (R96, R509). -/
def hostRefused (s : State) (p : Fin 2) (q : HostReq) : State :=
  match q with
  | .rd a _ => s.emit (.cxlData p a (zeros 64) true)
  | q => s.emit (.cxlCmp p (hostAddr q))

/-- CXL.mem requests of a port waiting at once (R504). -/
def hostWaiting (s : State) (p : Fin 2) : Nat :=
  (s.coh.blocked.filter fun b => match b.who with
    | .host q _ => q == p
    | _ => false).length

/-- A CXL.mem request (R95, R500, R501, R504, R509). -/
def serveHost (s : State) (p : Fin 2) (q : HostReq) (fs : List ReadFault) : State :=
  let h := s.hp p
  if !hpPresent s p ∨ !h.linkUp ∨ !cxlOffered s p ∨ !inDecoder h (hostAddr q) ∨ hostWaiting s p ≥ 512 then s
  else if (h.ide.getD 2 default).failed then s
  else if s.cfg.ideRequired ∧ !ideSecure h then hostRefused s p q
  else
    let (s, l) := hostLocate s p q
    match l with
    | .bad => hostRefused s p q
    | .at_ ri r off => hostAt s p q ri r off fs [] false

def resumeHost (s : State) (p : Fin 2) (q : HostReq) (ri off : Nat) (got : List Nat) (fs : List ReadFault) (acked : Bool) : State :=
  match anyRegion s ri with
  | none => hostRefused s p q
  | some r => hostAt s p q ri r off fs got acked

end Sys2Proof.Machine
end

