-- ==== Sys2Proof/Machine/Cmd.lean ====
section
/-! DEFINITION. How a ring command runs (R37, R106 to R108, R198, R271, R517 to R523): its turn, its checks,
its staging, its carriage to another switch, its effect. -/

namespace Sys2Proof.Machine

/-- A command: where it executes, its failure table, and its effect, which completes it or leaves it
running. -/
structure CmdSpec where
  op : Nat
  /-- What it does first begins at once even when it is staged: the fetch of R175, a Runner at an end point, a DMA read
  whose data the effect needs at its tick (R37; log entry 191). -/
  early : Bool := false
  /-- A bar of R725 or R749 waits for the RESOURCE_REFUSED row of the command's own table (R727). -/
  barLate : Bool := false
  /-- The switch that executes it, when not this one (R194, R271). -/
  dest : Desc → State → Option Node
  chk  : Origin → Desc → State → Option Status
  /-- DATA of a completion that reports a failure. -/
  info : Origin → Desc → Status → State → List Byte := fun _ _ _ _ => []
  eff  : Origin → Desc → Pick → State → State

/-- A command of this switch. -/
def here : Desc → State → Option Node := fun _ _ => none

/-- The objects that a command concerns, the tenant that it names among them (R108, R272, R374, R402, R790): a kind of
object and its number. A command of none of these objects, such as LINK_RETRAIN, waits for no other (R487, R520). -/
def objectsOf (d : Desc) : List (Nat × Nat) :=
  let op := Desc.opcode d
  let f := fun o => Desc.fld d o 2
  if op = 0x03 ∨ op = 0xA8 then [(1, f 16)]
  else if op = 0x20 then [(1, f 18)]
  else if op ≥ 0x21 ∧ op ≤ 0x28 then [(0, f 16)]
  else if op = 0x29 then [(0, f 32), (1, f 34), (5, bitsOf (f 16) 2 1)]
  else if op = 0x2A then [(5, bitsOf (f 16) 2 1)]
  else if op ≥ 0x2B ∧ op ≤ 0x2E then [(1, f 16 % 4096)]
  else if op = 0x30 then [(0, f 16), (0, f 18)]
  else if op ≥ 0x31 ∧ op ≤ 0x34 then [(1, f 16)]
  else if op = 0x50 ∨ op = 0x51 then [(2, 0), (1, f 26)]
  else if op = 0x52 then [(2, 0), (1, f 24)]
  else if op ≥ 0x53 ∧ op ≤ 0x56 then [(2, 0)]
  else if op ≥ 0x61 ∧ op ≤ 0x64 then [(3, Desc.fld d 16 1)]
  else if op = 0x60 then [(1, f 18)]
  else if op ≥ 0x70 ∧ op ≤ 0x73 then [(4, f 16 % 1024), (1, f 18)]
  else if op = 0x80 ∨ op = 0x81 then [(7, f 16 + 65536 * Desc.fld d 24 4)]
  else if op ≥ 0x98 ∧ op ≤ 0x9E then [(6, f 48)]
  else if op = 0xC1 then [(0, f 16)]
  else []

/-- Every command in flight, of both ports. -/
def allInFlight (s : State) : List InFlight := (s.hp 0).inflight ++ (s.hp 1).inflight

/-- Commands taken and not complete, with their places in the order of taking: of the rings, and carried here. -/
def takenNow (s : State) : List (Nat × Desc) :=
  ((allInFlight s).map fun f => (f.order, f.desc)) ++ s.hif.carriedIn.map fun f => (f.order, f.desc)

/-- No earlier command on the same object is unfinished, one staged and not activated among them (R108, R272). DEDUCED
(log entry 40). -/
def turnAt (s : State) (order : Nat) (d : Desc) : Bool :=
  (takenNow s).all fun g => decide (order ≤ g.1) || (objectsOf g.2).all fun o => !(objectsOf d).contains o

def turnOf (s : State) (f : InFlight) : Bool := turnAt s f.order f.desc

/-- Place in the order of taking of a command not yet complete. -/
def orderOf (s : State) (o : Origin) : Nat :=
  match o with
  | .ring r => ((inFlight? s r).map InFlight.order).getD 0
  | _ => ((s.hif.carriedIn.find? fun f => f.origin == o).map CarriedIn.order).getD 0

/-- The activation tick that an end point is given for a change of its own, while it lies ahead (R585). -/
def stagedTick (s : State) (d : Desc) : Option Time :=
  if Desc.staged d ∧ s.now < Desc.activate d then some (Desc.activate d) else none

def markBegun (s : State) (r : CmdRef) (f : InFlight) : State :=
  (effectBegins s (.ring r)).onHp r.port fun h => { h with inflight := h.inflight.map fun g => if g = f then { f with begun := true } else g }

/-- Carries a command to another switch (R194, R198). -/
def carryOut (s : State) (o : Origin) (d : Desc) (dst : Node) : State :=
  let id := s.hif.carryId
  let s := s.onHif fun f => { f with
    carryId := (id + 1) % 2 ^ 32, carries := f.carries ++ [⟨id, o, d, none, s.now, none⟩] }
  let ring := match o with
    | .ring r => r.ring.val
    | .carried _ _ _ _ n => n.val
  sendMgmt s (.carry id) dst ([0xB1, 0] ++ leBytes 2 (credOf s o).toNat ++ leBytes 4 id
    ++ [BitVec.ofNat 8 (originPort o), BitVec.ofNat 8 ring] ++ zeros 6 ++ Desc.bytes d)

/-- The commands that run before DAWN_DONE and in UNVERIFIED: NOP, power, ATTEST_REPORT, SEC_QUERY, debug, image
(R725, R749). -/
def openOps : List Nat := [0x01, 0xB8, 0xB9, 0xBA, 0xBB, 0xC0, 0xC3, 0xC4, 0xC5, 0xC6, 0xC7, 0xC8, 0xD0, 0xD1]

def barred (s : State) (d : Desc) : Bool := (!s.dev.dawnDone || !s.sec.owned) && !openOps.contains (Desc.opcode d)

/-- The executing switch takes no command that names a host address for DMA when it was carried (R198). -/
def carriedHere : Origin → Bool
  | .carried .. => true
  | _ => false

/-- Commands whose bodies name a host address for DMA (R510). -/
def dmaOps : List Nat :=
  [0x25, 0x26, 0x27, 0x34, 0x56, 0x60, 0x61, 0x64, 0x70, 0x73, 0x9E, 0xAE, 0xAF, 0xBA, 0xC0, 0xC2, 0xC5, 0xC6, 0xC8, 0xD0, 0xD1]

/-- The failure of a command: of its table, where a carried command that names a host address is out of range (R198). -/
def failure (c : CmdSpec) (o : Origin) (d : Desc) (s : State) : Option Status :=
  if carriedHere o ∧ dmaOps.contains (Desc.opcode d) then
    some (match c.chk o d s with
      | some st => if st = stTenantDenied ∨ st = stKeyMismatch ∨ st = stFormatUnsupported then st else stOutOfRange
      | none => stOutOfRange)
  else c.chk o d s

/-- Runs a command that has its turn: carried away, refused, staged, or executed (R37, R517). -/
def runCmd (s : State) (o : Origin) (d : Desc) (k : Pick) (order : Nat) (c : CmdSpec) : State :=
  if barred s d ∧ !c.barLate then complete s o d stResourceRefused [] else
  match c.dest d s with
  | some n => carryOut s o d n
  | none =>
    match failure c o d s with
    | some st => complete s o d st (c.info o d st s)
    | none =>
      if Desc.staged d ∧ !c.early ∧ s.now < Desc.activate d then
        s.onRgn fun g => { g with staged := g.staged ++ [⟨Desc.activate d, order, o, d, k, none⟩] }
      else c.eff o d k s

/-- The command of a ring that may begin now: in flight as given, of the opcode given, not begun, with its
turn, while ring service runs (R35). -/
def mayBegin (s : State) (op : Nat) (r : CmdRef) (d : Desc) : Option InFlight :=
  (inFlight? s r).filter fun f =>
    decide (f.desc = d ∧ Desc.opcode d = op) && !f.begun && turnOf s f && ringServed s r.port

/-- A ring command of the table runs. -/
def runRow (c : CmdSpec) (r : CmdRef) (d : Desc) (k : Pick) (s : State) : State :=
  match mayBegin s c.op r d with
  | none => s
  | some f => runCmd (markBegun s r f) (.ring r) d k f.order c

/-! ### Checks common to many commands -/

def isOperator (s : State) (o : Origin) : Bool := isOp (credOf s o)

/-- Credentials of the operator, or of the tenant named, which must be ACTIVE (R106, R788). -/
def credNames (s : State) (o : Origin) (t : Tag) : Bool := covers s (credOf s o) t

/-- TARGET of R270: another switch executes the command. -/
def targetAt (off : Nat) : Desc → State → Option Node := fun d s =>
  let t : Node := BitVec.ofNat 16 (Desc.fld d off 2)
  if t = 0 ∨ t = s.dev.nodeId then none
  else if isSwitch t ∧ nodeLegal t then some t else none

/-- TARGET is 0, this switch, or a legal switch (R273). -/
def targetLegal (s : State) (d : Desc) (off : Nat) : Bool :=
  let t : Node := BitVec.ofNat 16 (Desc.fld d off 2)
  decide (t = 0 ∨ t = s.dev.nodeId) || (isSwitch t && nodeLegal t)

/-- Writes a query's record to HOST_ADDR by DMA; a failing DMA write completes with INTERNAL (R510). -/
def queryOut (s : State) (o : Origin) (d : Desc) (addr : Nat) (rec : List Byte) : State :=
  if dmaOk s (originPort o) then complete (dmaWrite s (originPort o) addr rec) o d stOk []
  else complete s o d stInternal []

/-- A switch without VIO, or held in reset, takes no notice of anything (R772, R773). -/
def up (s : State) (k : State → State) : Host.Outcome State Fault Refusal :=
  .next (if s.dev.vio ∧ !s.dev.held then k s else s)

end Sys2Proof.Machine
end

