-- ==== Sys2Proof/Machine/Regions.lean ====
section
/-! DEFINITION. Regions, tenants, range translation and pages: the meanings of the commands of R106 and of the
events of 02_naming_regions.md. -/

namespace Sys2Proof.Machine

/-! ### Records (R71, R78) -/

def regionFlags (r : Region) : Nat :=
  1 + 2 * b2n r.attested + 4 * b2n r.prevValid + 8 * b2n r.graceOpen + 16 * b2n r.destroying

/-- The 64-byte region record. -/
def regionBytes (r : Region) : List Byte :=
  leBytes 4 r.base.toNat ++ leBytes 4 r.length ++ leBytes 2 r.tenant.toNat ++ [r.rights, r.modes, r.place,
    BitVec.ofNat 8 (regionFlags r)] ++ leBytes 2 r.partner.toNat ++ leBytes 4 r.keyCurrent.toNat
    ++ leBytes 4 r.keyPrevious.toNat ++ leBytes 8 r.rotateTime ++ leBytes 8 r.version ++ leBytes 4 r.protBase.toNat
    ++ leBytes 2 r.stacks_.toNat ++ zeros 2 ++ leBytes 8 r.createTime ++ zeros 8

def tenStateCode : TenState → Byte
  | .free => 0
  | .active => 1
  | .releasing => 2

/-- The 32-byte tenant record. -/
def tenantBytes (s : State) (t : Nat) : List Byte :=
  let r := s.tenant t
  let tag : Tag := BitVec.ofNat 16 t
  leBytes 2 t ++ [tenStateCode r.state, BitVec.ofNat 8 r.owner.val] ++ leBytes 4 r.poolQuota ++ leBytes 2 r.regionQuota
    ++ leBytes 2 r.rangeQuota ++ leBytes 2 r.counterQuota ++ leBytes 2 r.mcastQuota ++ leBytes 2 r.reduceQuota
    ++ leBytes 2 r.cruGroups ++ leBytes 2 r.cruScratch ++ leBytes 2 r.cruAccum
    ++ leBytes 4 (poolInUse s tag) ++ leBytes 2 (regionsInUse s tag) ++ zeros 2

/-! ### Crucible holdings of a tenant (R78, R298, R345) -/

def progHolds (p : Program) : Bool := p.state != .ended
def progsOf (s : State) (t : Tag) : List (Nat × Program) :=
  s.cru.progs.filter fun e => decide (e.2.tenant = t) && progHolds e.2

def groupsInUse (s : State) (t : Tag) : Nat := ((progsOf s t).map fun e => e.2.groupsN).sum
def accumsInUse (s : State) (t : Tag) : Nat := ((progsOf s t).map fun e => e.2.accums).sum
def scratchInUse (s : State) (t : Tag) : Nat :=
  ((progsOf s t).map fun e => slotsOfProg e.2).sum
    + (((regionsOf s t).filter fun e => e.2.isScratch).map fun e => e.2.length).sum

/-! ### Accepted requests (R88, R102, R109) -/

/-- Accepted requests of the fabric to a region: those in progress, those parked (R208) and closing writes that are
held. -/
def busyOn (s : State) (ri : Nat) : List Arrival :=
  (s.xp.busy.filter fun b => b.arr.pkt.region.toNat == ri &&
    (b.arr.pkt.opcode == opREAD || b.arr.pkt.opcode == opREADOWN || isStreamWrite b.arr.pkt.opcode
      || b.arr.pkt.opcode == opATOMIC)).map Busy.arr

def spanHits (off len lo n : Nat) : Bool := decide (off < lo + n ∧ lo < off + len)

def packetSpan (p : Packet) : Nat :=
  if p.opcode = opREAD ∨ p.opcode = opREADOWN then p.lenBytes
  else if p.opcode = opATOMIC then atomicSize p else writeSpan p

/-- Bytes of an access that waits at its home: a host's, or a Crucible program's; a packet's are among `busyOn`. -/
def waiterLen (s : State) : Waiter → Nat
  | .host _ _ => 64
  | .line id => ((s.cru.reqs.find? fun q => q.id == id).map LineReq.len).getD 0
  | _ => 0

/-- A parked request of a Crucible program touches a range of a region. -/
def parkedOn (s : State) (ri lo n : Nat) : Bool :=
  s.rgn.parked.any fun q => q.isLine && s.cru.reqs.any fun l =>
    l.id == q.lineId && l.region == ri && spanHits l.offset l.len lo n

/-- No accepted request touches a range of a region: fabric, host, or Crucible (R102). -/
def rangeIdle (s : State) (ri lo n : Nat) : Bool :=
  !((busyOn s ri).any fun a => spanHits a.pkt.off (packetSpan a.pkt) lo n) && !parkedOn s ri lo n
  && !(s.coh.blocked.any fun b => decide (b.reg = ri ∧ waiterLen s b.who ≠ 0) && spanHits b.off (waiterLen s b.who) lo n)
  && !(s.partnerW.any fun b => decide (b.reg = ri ∧ waiterLen s b.who ≠ 0) && spanHits b.off (waiterLen s b.who) lo n)

/-- No accepted request touches a region, and its partner has acknowledged what was sent to it. -/
def regionIdle (s : State) (ri : Nat) : Bool := rangeIdle s ri 0 (2 ^ 49) && s.partnerW.all fun m => m.reg != ri

/-! ### REGION_CREATE -/

/-- The stacks in service now, as a STACKS field (R66). -/
def stacksNow (s : State) : BitVec 16 :=
  ((List.range 16).filter (stackUp s)).foldl (fun m k => m ||| BitVec.ofNat 16 (2 ^ k)) 0

/-- The placement that a request asks for (R67). -/
def placementOf (d : Desc) : Nat :=
  if Desc.bit d 244 then plSCRATCH
  else if Desc.bit d 245 then plBACKED
  else if bitsOf (Desc.fld d 29 1) 4 2 = 0 ∨ bitsOf (Desc.fld d 29 1) 4 2 = 3 then plSINGLE else plSPREAD

/-- The region that the body of REGION_CREATE describes, not yet placed. -/
def wanted (s : State) (d : Desc) : Region :=
  { (default : Region) with
    length := Desc.fld d 24 4, tenant := BitVec.ofNat 16 (Desc.fld d 18 2)
    rights := BitVec.ofNat 8 (Desc.fld d 28 1), modes := BitVec.ofNat 8 (Desc.fld d 29 1)
    place := BitVec.ofNat 8 (placementOf d + 16 * bitsOf (Desc.fld d 30 1) 0 4)
    attested := Desc.bit d 248, keyCurrent := BitVec.ofNat 32 (Desc.fld d 20 4)
    -- DESIGN CHOICE (log entry 175): PARTNER is read for a partner mirror only
    partner := if bitsOf (Desc.fld d 29 1) 0 2 = 3 then BitVec.ofNat 16 (Desc.fld d 32 2) else 0
    stacks_ := stacksNow s }

/-- LENGTH is within R72 and R171. -/
def lengthOk (r : Region) : Bool :=
  let n := r.dataGranules
  decide (1 ≤ r.length) &&
    (if r.placement = plSINGLE then decide (n ≤ stackGranules)
     else if r.placement = plSPREAD then decide (n ≤ stackGranules * (stackList r.stacks_).length)
     else if r.placement = plSCRATCH then decide (n ≤ 128)
     else decide (n ≤ 0xFFFFFFFF))

/-- Protection is allowed by R73. -/
def protectionOk (r : Region) : Bool :=
  if r.protection = 0 then true
  else if r.placement = plSINGLE then r.protection != 2
  else if r.placement = plSPREAD then
    r.protection != 2 || (decide (r.stacks_ = 0xFFFF) && decide (r.length % 4 = 0))
  else false

/-- PARTNER names another switch of this rack (R75). -/
def partnerOk (s : State) (n : Node) : Bool :=
  isSwitch n && nodeLegal n && decide (rackOf n = rackOf s.dev.nodeId) && decide (n ≠ s.dev.nodeId)

/-- The OUT_OF_RANGE row of R107 for REGION_CREATE. -/
def createBad (s : State) (d : Desc) : Bool :=
  let r := wanted s d
  !tagLegal r.tenant || decide (r.rights &&& 0xE0 ≠ 0) || r.modes.getLsbD 6
    || decide (bitsOf (Desc.fld d 30 1) 6 2 ≠ 0) || decide (bitsOf (Desc.fld d 31 1) 1 7 ≠ 0)
    || decide (Desc.fld d 34 6 ≠ 0) || decide (Desc.fld d 40 8 ≠ 0)
    || (Desc.bit d 244 && Desc.bit d 245)
    || !lengthOk r || decide (r.sharing = 3) || !protectionOk r
    || (decide (r.protection = 3) && !partnerOk s r.partner)
    || (r.isScratch && !quadUp s (r.affinity / 4))
    || (r.isBacked && decide (r.hint ≠ 2))
    || (decide (r.sharing = 1) && decide (s.cfg.racks > 4))
    || (r.isCast && (r.isBacked || r.isScratch))

/-- Places the data and protection of a region (R67, R421, R422, R789): BASE and PROT_BASE. -/
def placeRegion (s : State) (r : Region) (k : Pick) : Option (Nat × Nat) :=
  let l := stackList r.stacks_
  let held := heldSpans s
  let n := r.dataGranules
  let data : Option Nat :=
    if r.placement = plSINGLE then
      let q := r.affinity / 4 * 4
      let tries := if r.hint = 3 then [r.affinity]
        else r.affinity :: ((List.range 4).map (q + ·)).filter (· ≠ r.affinity)
      (tries.filter (stackUp s)).findSome? fun st =>
        (pickSlot held k.slot fun c => [⟨st, c, n⟩]).map fun c => mkGranule st c
    else if r.placement = plSPREAD then
      let b := (l.find? fun st => decide (r.affinity ≤ st)).getD (l.headD 0)
      (pickSlot held k.slot fun c => spreadSpans l (mkGranule b c) n).map fun c => mkGranule b c
    else if r.placement = plSCRATCH then
      (pickScratch s r.affinity r.length k.slot).map fun c => mkGranule r.affinity c
    else some 0
  data.bind fun base =>
    let held := held ++ regionSpans { r with base := BitVec.ofNat 24 base, modes := r.modes &&& 0xFC }
    if r.protection = 1 then
      let st := l.getD ((posIn l (gStack base) + mirrorStep l) % l.length) 0
      (pickSlot held k.prot fun c =>
        if r.placement = plSINGLE then [⟨st, c, n⟩] else spreadSpans l (mkGranule st c) n).map
        fun c => (base, mkGranule st c)
    else if r.protection = 2 then
      let st := l.getD ((posIn l (gStack base) + 8) % 16) 0
      (pickSlot held k.prot fun c => paritySpans { r with
        base := BitVec.ofNat 24 base, protBase := BitVec.ofNat 24 (mkGranule st c) }).map
        fun c => (base, mkGranule st c)
    else some (base, 0)

/-- Region indexes that GRANT_REQs without their GRANTs have named (R196): they are kept for their regions. -/
def keptIndexes (s : State) : List Nat :=
  (s.xp.ops.map Op.cause ++ s.xp.wait.map Submit.cause).filterMap fun c => match c with
    | .grantReq _ _ k => some k.index
    | _ => none

/-- A free region index: the choice of the switch, or the lowest. -/
def freeRegion (s : State) (k : Pick) : Option Nat :=
  let held := (keptIndexes s).foldl (fun (t : Tbl Region) i => t.set i default) s.rgn.regions
  if k.index < 65536 ∧ !held.has k.index then some k.index else held.lowestFree 65536 0

/-- A tenant's quotas cover a new region (R74, R78, R298). The operator domain has none. -/
def quotaOk (s : State) (r : Region) : Bool :=
  isOp r.tenant ||
    (let t := s.tenant r.tenant.toNat
     decide (poolInUse s r.tenant + regionCost r ≤ t.poolQuota)
     && decide (regionsInUse s r.tenant + 1 ≤ t.regionQuota)
     && (!r.isScratch || decide (scratchInUse s r.tenant + r.length ≤ t.cruScratch)))

/-- The failure table of REGION_CREATE (R107). -/
def createChk (o : Origin) (d : Desc) (s : State) : Option Status :=
  let t : Tag := BitVec.ofNat 16 (Desc.fld d 18 2)
  firstFail [
    (!credNames s o t || !activeOrOp s t, stTenantDenied),
    (createBad s d, stOutOfRange),
    ((freeRegion s default).isNone || !quotaOk s (wanted s d) || (placeRegion s (wanted s d) default).isNone,
      stResourceRefused)]

/-- Enters a placed region: its granules zero-filled with fresh metadata (R69, R415), its record VALID. -/
def enterRegion (s : State) (ri : Nat) (r : Region) (base prot : Nat) : State :=
  let r := { r with base := BitVec.ofNat 24 base, protBase := BitVec.ofNat 24 prot, createTime := s.now }
  let s := scrubSpans s (regionSpans r)
  let s := if r.isScratch then zeroScratch s (gStack base) (gSlot base) r.length else s
  s.onRgn fun g => { g with regions := g.regions.set ri r }

/-- Creates the region and completes, or completes with RESOURCE_REFUSED. `part` is the partner's grant. -/
def createNow (s : State) (o : Origin) (d : Desc) (k : Pick) (part : Option (Nat × BitVec 16)) : State :=
  let r := wanted s d
  match freeRegion s k, placeRegion s r k with
  | some ri, some (base, prot) =>
    let r := match part with
      | some (_, st) => { r with partnerStacks := st }
      | none => r
    let s := enterRegion (effectBegins s o) ri r base (match part with
      | some (g, _) => g
      | none => prot)
    complete s o d stOk (leBytes 4 ri)
  | _, _ => complete s o d stResourceRefused []

/-- GRANT_REQ, GRANT and PARTNER_FREE (R196). -/
def grantPayload (msg : Nat) (st : Status) (tag : Tag) (len prot : Nat) (stk : BitVec 16) (region : Nat) : List Byte :=
  [BitVec.ofNat 8 msg, st] ++ leBytes 2 tag.toNat ++ leBytes 4 len ++ leBytes 4 prot ++ leBytes 2 stk.toNat
    ++ leBytes 2 region

/-- REGION_CREATE (R67, R75): a partner-mirror region first asks its partner for granules. -/
def specRegionCreate : CmdSpec where
  op := 0x20
  dest := here
  chk := createChk
  eff o d k s :=
    let r := wanted s d
    if r.protection = 3 then
      let ri := (freeRegion s k).getD 0
      sendMgmt s (.grantReq o d { k with index := ri }) r.partner (grantPayload 0xB3 0 r.tenant r.dataGranules 0 0 ri)
    else createNow s o d k none

def execRegionCreate (r : CmdRef) (d : Desc) (k : Pick) (s : State) := up s (runRow specRegionCreate r d k)

/-! ### Commands on one region -/

def descRegion (d : Desc) : Nat := Desc.fld d 16 2

/-- The tenant of the region named; a region that is not there has none to name. -/
def regionTag (s : State) (d : Desc) : Option Tag := (s.region? (descRegion d)).map Region.tenant

/-- The rows of R107 up to KEY_MISMATCH for a command that reads REGION. A region that is not VALID belongs
to no tenant: operator credentials reach the KEY_MISMATCH row, and so do a tenant's. -/
def regionRows (s : State) (o : Origin) (d : Desc) : List (Bool × Status) :=
  let ok := match regionTag s d with
    | some t => credNames s o t && activeOrOp s t
    | none => isOperator s o || tagActive s (credOf s o)
  [(!ok, stTenantDenied),
   ((match s.region? (descRegion d) with
     | some r => r.destroying
     | none => true), stKeyMismatch)]

def regionChk (rows : Region → Desc → State → List (Bool × Status)) (o : Origin) (d : Desc) (s : State) : Option Status :=
  firstFail (regionRows s o d ++ rows ((s.region? (descRegion d)).getD default) d s)

/-- Fixed reserved bytes of the body of R104. -/
def rsvdBad (d : Desc) : Bool := decide (Desc.fld d 34 6 ≠ 0) || decide (Desc.fld d 40 8 ≠ 0)

/-- A destroyed region leaves the measurement table; a measurement of it ends with KEY_MISMATCH (R701, R703). -/
def dropMeasure (s : State) (ri : Nat) : State :=
  match s.sec.measures.get? ri with
  | none => s
  | some m =>
    let s := (s.onSec fun c => { c with measures := c.measures.erase ri }).onCoh fun c => { c with
      blocked := c.blocked.filter fun b => b.who != .measure ri }
    match m.origin with
    | some (o, d) => complete s o d stKeyMismatch []
    | none => s

/-- Marks a region DESTROYING, and removes its range entries, pending pages and measurement (R99, R109, R701). -/
def destroyRegion (s : State) (ri : Nat) : State :=
  ((dropMeasure s ri).onRegion ri fun r => { r with destroying := true }).onRgn fun g => { g with
    ranges := g.ranges.filter fun e => e.region != ri
    leaving := g.leaving ++ g.ranges.filter fun e => e.region == ri && e.kind == .page
    pendingPages := g.pendingPages.filter fun p => p.1 != ri }

def specRegionDestroy : CmdSpec where
  op := 0x21
  dest := here
  chk := regionChk fun _ d _ => [(rsvdBad d, stOutOfRange)]
  eff o d _ s := complete (destroyRegion s (descRegion d)) o d stOk []

/-- REGION_DESTROY (R109). -/
def execRegionDestroy (r : CmdRef) (d : Desc) (s : State) := up s (runRow specRegionDestroy r d default)

def specRegionSetRights : CmdSpec where
  op := 0x22
  dest := here
  chk := regionChk fun _ d _ => [(rsvdBad d || decide (bitsOf (Desc.fld d 28 1) 5 3 ≠ 0), stOutOfRange)]
  eff o d _ s :=
    complete (s.onRegion (descRegion d) fun r => { r with rights := BitVec.ofNat 8 (Desc.fld d 28 1) }) o d stOk []

/-- REGION_SET_RIGHTS (R106, R110). -/
def execRegionSetRights (r : CmdRef) (d : Desc) (s : State) := up s (runRow specRegionSetRights r d default)

/-- The new key of KEY_ROTATE has the next generation (R86). -/
def nextGen (r : Region) (d : Desc) : Bool :=
  decide (Desc.fld d 20 4 / 2 ^ 30 = (r.keyCurrent.toNat / 2 ^ 30 + 1) % 4)

def specKeyRotate : CmdSpec where
  op := 0x23
  dest := here
  chk := regionChk fun r d _ => [(!nextGen r d, stKeyMismatch), (rsvdBad d, stOutOfRange)]
  eff o d _ s :=
    complete (s.onRegion (descRegion d) fun r => { r with
      keyPrevious := r.keyCurrent, keyCurrent := BitVec.ofNat 32 (Desc.fld d 20 4)
      rotateTime := s.now, prevValid := true, graceOpen := true }) o d stOk []

/-- KEY_ROTATE (R86, R89). -/
def execKeyRotate (r : CmdRef) (d : Desc) (s : State) := up s (runRow specKeyRotate r d default)

/-- Closes a grace window (R88, R90). -/
def closeGrace (s : State) (ri : Nat) : State :=
  s.onRegion ri fun r => { r with graceOpen := false, prevValid := false }

def specKeyRevoke : CmdSpec where
  op := 0x24
  dest := here
  chk := regionChk fun _ d _ => [(rsvdBad d, stOutOfRange)]
  eff o d _ s := complete (closeGrace s (descRegion d)) o d stOk []

/-- KEY_REVOKE (R90). -/
def execKeyRevoke (r : CmdRef) (d : Desc) (s : State) := up s (runRow specKeyRevoke r d default)

def specRegionQuery : CmdSpec where
  op := 0x25
  dest := here
  chk := regionChk fun _ d _ => [(rsvdBad d, stOutOfRange)]
  eff o d _ s := queryOut s o d (Desc.fld d 56 8) (regionBytes ((s.region? (descRegion d)).getD default))

/-- REGION_QUERY (R106, R510). -/
def execRegionQuery (r : CmdRef) (d : Desc) (s : State) := up s (runRow specRegionQuery r d default)

/-- The grace window closes (R88): 10 ms after the rotation, or from 200 µs on when no accepted request of the
region was stamped before it. -/
def graceDue (s : State) (ri : Nat) (r : Region) : Bool :=
  r.graceOpen && (due s.now r.rotateTime (ms 10) ||
    (due s.now r.rotateTime (us 200) &&
      (busyOn s ri).all fun a => decide (Int.ofNat r.rotateTime ≤ extendTime s.now a.pkt.time)))

def graceCloseZs (s : State) (ri : Nat) (t : Time) : State :=
  let s := s.at_ t
  match s.region? ri with
  | some r => if graceDue s ri r then closeGrace s ri else s
  | none => s

/-! ### REGION_FREE (R109) -/

/-- Counts a region that the scrub of its tenant has filled (R705, R707). -/
def countScrub (s : State) (r : Region) (spans : List Span) (recalled : Nat) : State :=
  let n := fun lost : Bool => ((spans.filter fun x => (s.stack x.stack).lost == lost).map Span.count).sum
  s.onSec fun c => { c with scrubs := c.scrubs.modify r.tenant.toNat fun b => { b with
    granules := b.granules + n false, skipped := b.skipped + n true, recalled := b.recalled + recalled
    slots := b.slots + (if r.isScratch then r.length else 0) } }

/-- Frees a destroyed region once its accepted requests are done: its granules are zero-filled, its partner
told (R434), its index free. The granules of a resident page on a lost stack stay out (R794, R707). -/
def freeRegionNow (s : State) (ri : Nat) (r : Region) : State :=
  let pages := s.rgn.leaving.filter fun e => e.region == ri
  let spans := regionSpans r ++ pages.map fun e => singleSpan e.granule.toNat (e.length / 65536)
  let lost := (spans.filter fun x => (s.stack x.stack).lost).flatMap fun x =>
    (List.range x.count).map fun i => BitVec.ofNat 24 (mkGranule x.stack (x.start + i))
  let lines := fun e : DirEntry => spans.any fun x =>
    decide (mkGranule x.stack x.start ≤ e.line / 1024 ∧ e.line / 1024 < mkGranule x.stack x.start + x.count)
  let s := countScrub s r spans (s.coh.dir.filter lines).length
  let s := (s.coh.dir.filter lines).foldl (fun s e =>
    match homeOfLine s e.line with
    | some h => takeBack s h
    | none => dirDrop s e.line) s
  let s := scrubSpans s spans
  let s := if r.isScratch then zeroScratch s (gStack r.base.toNat) (gSlot r.base.toNat) r.length else s
  let s := if r.protection = 3 then
      sendMgmt s (.partnerFree ri) r.partner (grantPayload 0xB5 0 r.tenant 0 r.protBase.toNat 0 ri)
    else s
  s.onRgn fun g => { g with
    regions := g.regions.erase ri
    leaving := g.leaving.filter fun e => e.region != ri
    dead := g.dead ++ lost }

def execRegionFree (region : BitVec 16) (s : State) := up s fun s =>
  match s.region? region.toNat with
  | some r =>
    if r.destroying ∧ regionIdle s region.toNat ∧ (s.rgn.pageJobs.all fun j => j.region != region.toNat)
      ∧ (s.coh.publishes.all fun p => p.region != region.toNat ∧ p.source != region.toNat)
    then freeRegionNow s region.toNat r else s
  | none => s

/-! ### Windows (R92 to R95) -/

/-- The range entry in a descriptor (R105). -/
def descRange (d : Desc) : RangeEntry where
  kind := if bitsOf (Desc.fld d 16 8) 0 2 = 2 then .page else .window
  port := Fin.ofNat 2 (bitsOf (Desc.fld d 16 8) 2 1)
  start := Desc.fld d 16 8 / 4096 * 4096
  length := Desc.fld d 24 8
  region := Desc.fld d 32 2
  tenant := BitVec.ofNat 16 (Desc.fld d 34 2)
  granule := BitVec.ofNat 24 (Desc.fld d 36 4)
  offset := Desc.fld d 40 8

def rangesOverlap (a b : RangeEntry) : Bool := decide (a.start < b.start + b.length ∧ b.start < a.start + a.length)

/-- A tenant commands only windows of its own on the commanding port (R106). -/
def windowCred (s : State) (o : Origin) (e : RangeEntry) : Bool :=
  isOperator s o || (credNames s o e.tenant && decide (e.port.val = originPort o))

def mapChk (o : Origin) (d : Desc) (s : State) : Option Status :=
  let e := descRange d
  let kind := bitsOf (Desc.fld d 16 8) 0 2
  let r := s.region? e.region
  let bad := decide (bitsOf (Desc.fld d 16 8) 3 9 ≠ 0) || decide (kind ≠ 1) || decide (e.length % 4096 ≠ 0 ∨ e.length = 0)
    || !tagLegal e.tenant || decide (Desc.fld d 36 4 ≠ 0) || decide (e.offset % 4096 ≠ 0)
    || decide (Desc.fld d 48 8 ≠ 0) || decide (Desc.fld d 56 8 ≠ 0)
    || (s.rgn.ranges.any fun x => decide (x.kind = .window ∧ x.port = e.port) && rangesOverlap x e)
    || decide (e.start < ringWindow (s.hp e.port) + 2 ^ 28 ∧ ringWindow (s.hp e.port) < e.start + e.length)
  firstFail [
    (!windowCred s o e || !activeOrOp s e.tenant, stTenantDenied),
    ((match r with
      | some r => r.destroying
      | none => true), stKeyMismatch),
    (decide (kind = 1) && (match r with
      | some r => !r.canHost || decide (r.tenant ≠ e.tenant) || r.isScratch
      | none => false), stTenantDenied),
    (bad, stOutOfRange),
    (decide (s.rgn.ranges.length ≥ 16384) ||
      (!isOp e.tenant && decide (rangesInUse s e.tenant + 1 > (s.tenant e.tenant.toNat).rangeQuota)), stResourceRefused)]

def specRangeMap : CmdSpec where
  op := 0x29
  dest := here
  chk := mapChk
  eff o d _ s := complete (s.onRgn fun g => { g with ranges := g.ranges ++ [descRange d] }) o d stOk []

/-- RANGE_MAP (R94, R95, R105). -/
def execRangeMap (r : CmdRef) (d : Desc) (s : State) := up s (runRow specRangeMap r d default)

/-- The entry that RANGE_UNMAP matches: by KIND, PORT and START alone. -/
def unmapEntry (s : State) (d : Desc) : Option RangeEntry :=
  let e := descRange d
  s.rgn.ranges.find? fun x => decide (x.kind = .window ∧ x.port = e.port ∧ x.start = e.start)

/-- The failure table of RANGE_UNMAP (R107). DESIGN CHOICE (log entry 175): a KIND other than HOST_WINDOW is out of
range. -/
def unmapChk (o : Origin) (d : Desc) (s : State) : Option Status :=
  let e := descRange d
  let kind := bitsOf (Desc.fld d 16 8) 0 2
  let m := unmapEntry s d
  firstFail [
    (match m with
      | some x => !windowCred s o x || !activeOrOp s x.tenant
      | none => !(isOperator s o || (tagActive s (credOf s o) && decide (e.port.val = originPort o))), stTenantDenied),
    (decide (bitsOf (Desc.fld d 16 8) 3 9 ≠ 0) || decide (kind ≠ 1) || decide (Desc.fld d 48 8 ≠ 0)
      || decide (Desc.fld d 56 8 ≠ 0), stOutOfRange),
    (m.isNone, stAlreadyDone)]

def specRangeUnmap : CmdSpec where
  op := 0x2A
  dest := here
  chk := unmapChk
  eff o d _ s :=
    match unmapEntry s d with
    | some x => complete (s.onRgn fun g => { g with ranges := g.ranges.erase x }) o d stOk []
    | none => complete s o d stAlreadyDone []

/-- RANGE_UNMAP (R105). -/
def execRangeUnmap (r : CmdRef) (d : Desc) (s : State) := up s (runRow specRangeUnmap r d default)

/-! ### Tenants (R78 to R80) -/

def descTenant (d : Desc) : Nat := Desc.fld d 16 2 % 4096

/-- The quotas that a tenant record in a descriptor gives. -/
def quotasOf (d : Desc) (t : Tenant) : Tenant :=
  { t with
    poolQuota := Desc.fld d 20 4, regionQuota := Desc.fld d 24 2, rangeQuota := Desc.fld d 26 2
    counterQuota := Desc.fld d 28 2, mcastQuota := Desc.fld d 30 2, reduceQuota := Desc.fld d 32 2
    cruGroups := Desc.fld d 34 2, cruScratch := Desc.fld d 36 2, cruAccum := Desc.fld d 38 2 }

/-- Reserved fields of a tenant record in a descriptor. DESIGN CHOICE (log entry 175): bytes 48 to 63 are outside the
record and are not read. -/
def tenantRsvd (d : Desc) : Bool :=
  decide (bitsOf (Desc.fld d 16 2) 12 4 ≠ 0) || decide (Desc.fld d 46 2 ≠ 0)

/-- Reserved fields and ranges of the record's quota fields. -/
def tenantBad (d : Desc) : Bool :=
  tenantRsvd d || decide (Desc.fld d 34 2 > 256) || decide (Desc.fld d 36 2 > 2048) || decide (Desc.fld d 38 2 > 1024)

def specTenantCreate : CmdSpec where
  op := 0x2B
  dest := here
  chk o d s := firstFail [
    (!isOperator s o, stTenantDenied),
    (tenantBad d || decide (bitsOf (Desc.fld d 19 1) 1 7 ≠ 0), stOutOfRange),
    (decide ((s.tenant (descTenant d)).state ≠ .free), stResourceRefused)]
  eff o d _ s :=
    let t : Tenant := quotasOf d { (default : Tenant) with
      state := .active, owner := Fin.ofNat 2 (bitsOf (Desc.fld d 19 1) 0 1) }
    let s := s.onFlt fun c => { c with step := c.step.erase (descTenant d) }
    complete (s.onRgn fun g => { g with tenants := g.tenants.set (descTenant d) t }) o d stOk []

/-- TENANT_CREATE (R78, R106); the step mark starts at 0 (R628). -/
def execTenantCreate (r : CmdRef) (d : Desc) (s : State) := up s (runRow specTenantCreate r d default)

/-- A new quota is below the amount in use (R107). -/
def quotaBelow (s : State) (d : Desc) : Bool :=
  let t : Tag := BitVec.ofNat 16 (descTenant d)
  let q := quotasOf d default
  decide (q.poolQuota < poolInUse s t ∨ q.regionQuota < regionsInUse s t ∨ q.rangeQuota < rangesInUse s t
    ∨ q.counterQuota < countersInUse s t ∨ q.mcastQuota < mcastInUse s t ∨ q.reduceQuota < reduceInUse s t
    ∨ q.cruGroups < groupsInUse s t ∨ q.cruScratch < scratchInUse s t ∨ q.cruAccum < accumsInUse s t)

def specTenantSetQuota : CmdSpec where
  op := 0x2C
  dest := here
  chk o d s := firstFail [
    (!isOperator s o || decide ((s.tenant (descTenant d)).state ≠ .active), stTenantDenied),
    (tenantBad d || quotaBelow s d, stOutOfRange)]
  eff o d _ s :=
    complete (s.onRgn fun g => { g with tenants := g.tenants.modify (descTenant d) (quotasOf d) }) o d stOk []

/-- TENANT_SET_QUOTA (R78, R106). -/
def execTenantSetQuota (r : CmdRef) (d : Desc) (s : State) := up s (runRow specTenantSetQuota r d default)

def specTenantQuery : CmdSpec where
  op := 0x2E
  dest := here
  chk o d s := firstFail [
    (!credNames s o (BitVec.ofNat 16 (descTenant d)), stTenantDenied),
    (tenantRsvd d, stOutOfRange)]
  eff o d _ s := complete s o d stOk (tenantBytes s (descTenant d))

/-- TENANT_QUERY (R106). -/
def execTenantQuery (r : CmdRef) (d : Desc) (s : State) := up s (runRow specTenantQuery r d default)

/-! ### Pages (R99 to R103) -/

def descPage (d : Desc) : Nat := Desc.fld d 48 8 / 65536

/-- The OUT_OF_RANGE row of R103. -/
def pageBad (r : Region) (d : Desc) : Bool :=
  rsvdBad d || !r.isBacked || decide (Desc.fld d 48 8 ≥ r.bytes) || decide (Desc.fld d 48 8 % 65536 ≠ 0)

/-- The granule a page-in takes: after the page before it when that is free, else the lowest free granule of
the stacks from the region's affinity on. DESIGN CHOICE (log entry 13). -/
def pageSlot (s : State) (ri : Nat) (r : Region) (page : Nat) : Option Nat :=
  let held := heldSpans s
  let next := match (if page = 0 then none else pageGranule s ri (page - 1)) with
    | some g => if spanFree held ⟨gStack (g + 1), gSlot (g + 1), 1⟩ && gStack (g + 1) == gStack g && stackUp s (gStack g)
        then some (g + 1) else none
    | none => none
  next.or (((List.range 16).map fun i => (r.affinity + i) % 16).findSome? fun k =>
    if stackUp s k then (pickSlot held 0 fun c => [⟨k, c, 1⟩]).map fun c => mkGranule k c else none)

/-- Whether a page at a granule extends an existing PAGE entry (R101). -/
def extendsEntry (s : State) (ri page g : Nat) : Option RangeEntry :=
  s.rgn.ranges.find? fun e => decide (e.kind = .page ∧ e.region = ri ∧ e.start + e.length = page * 65536
    ∧ e.granule.toNat + e.length / 65536 = g ∧ gStack e.granule.toNat = gStack g)

/-- No range entry is free for a page, or its tenant has none left (R78, R92, R103): a page that extends an entry needs
none. -/
def entryRefused (s : State) (ri : Nat) (r : Region) (page g : Nat) : Bool :=
  (extendsEntry s ri page g).isNone && (decide (s.rgn.ranges.length ≥ 16384)
    || (!isOp r.tenant && decide (rangesInUse s r.tenant + 1 > (s.tenant r.tenant.toNat).rangeQuota)))

def pageInRows (r : Region) (d : Desc) (s : State) : List (Bool × Status) :=
  let ri := descRegion d
  let g := pageSlot s ri r (descPage d)
  [(pageBad r d || decide (Desc.fld d 56 8 % 65536 ≠ 0), stOutOfRange),
   ((pageGranule s ri (descPage d)).isSome, stAlreadyDone),
   (g.isNone || entryRefused s ri r (descPage d) (g.getD 0)
     || (s.rgn.pageJobs.any fun j => decide (j.region = ri ∧ j.page = descPage d))
     || (!isOp r.tenant && decide (poolInUse s r.tenant + 1 > (s.tenant r.tenant.toNat).poolQuota)), stResourceRefused)]

def specPageIn : CmdSpec where
  op := 0x26
  dest := here
  chk := regionChk pageInRows
  eff o d k s :=
    let ri := descRegion d
    let r := (s.region? ri).getD default
    match pageSlot s ri r (descPage d) with
    | none => complete s o d stResourceRefused []
    | some g =>
      if !dmaOk s (originPort o) then complete s o d stInternal []
      else
        let s := scrubSpan s (singleSpan g 1)
        let s := s.onRgn fun x => { x with
          pageJobs := x.pageJobs ++ [⟨false, ri, descPage d, BitVec.ofNat 24 g, o, d, []⟩] }
        dmaRead s o d k 0 (Desc.fld d 56 8) 65536 []

/-- PAGE_IN (R101, R103). -/
def execPageIn (r : CmdRef) (d : Desc) (s : State) := up s (runRow specPageIn r d default)

def dropJob (s : State) (j : PageJob) : State := s.onRgn fun g => { g with pageJobs := g.pageJobs.erase j }

/-- Installs a page's mapping (R101): it extends the entry before it, or takes a new one. -/
def installPage (s : State) (ri : Nat) (r : Region) (page g : Nat) : State :=
  match extendsEntry s ri page g with
  | some e => s.onRgn fun x => { x with
      ranges := x.ranges.map fun y => if y = e then { e with length := e.length + 65536 } else y }
  | none => s.onRgn fun x => { x with
      ranges := x.ranges ++ [⟨.page, 0, page * 65536, 65536, ri, r.tenant, BitVec.ofNat 24 g, 0⟩] }

/-- The page's lines, written from host data: each a write of its line (R415). -/
def fillPage (s : State) (r : Region) (ri page g : Nat) (data : List Byte) : State :=
  (List.range 1024).foldl (fun s i =>
    storeLine s ⟨ri, r, page, i, g * 1024 + i⟩ (padTo 64 ((data.drop (64 * i)).take 64)) false) s

/-- The DMA read of a PAGE_IN has ended (R101, R103, R790). -/
def pageInData (s : State) (j : PageJob) (ok : Bool) (data : List Byte) : State :=
  let g := j.granule.toNat
  let fail := fun st : Status => complete (scrubSpan (dropJob s j) (singleSpan g 1)) j.origin j.desc st []
  match s.region? j.region with
  | none => fail stKeyMismatch
  | some r =>
    if r.destroying then fail stKeyMismatch
    else if !ok then fail stInternal
    else if entryRefused s j.region r j.page g then fail stResourceRefused     -- taken meanwhile (R92)
    else
      let s := fillPage (dropJob s j) r j.region j.page g data
      let s := installPage s j.region r j.page g
      let s := s.onRgn fun x => { x with pendingPages := x.pendingPages.filter fun p => p != (j.region, j.page) }
      complete s j.origin j.desc stOk []

/-- Removes a page from its entry, splitting the entry when the page lies inside it (R102). -/
def removePage (s : State) (ri page : Nat) : State :=
  s.onRgn fun x => { x with ranges := x.ranges.flatMap fun e =>
    if e.kind = .page ∧ e.region = ri ∧ e.start ≤ page * 65536 ∧ page * 65536 < e.start + e.length then
      let before := page * 65536 - e.start
      let after := e.length - before - 65536
      (if before = 0 then [] else [{ e with length := before }]) ++
      (if after = 0 then [] else [{ e with
        start := page * 65536 + 65536, length := after
        granule := BitVec.ofNat 24 (e.granule.toNat + before / 65536 + 1) }])
    else [e] }

def pageOutRows (r : Region) (d : Desc) (s : State) : List (Bool × Status) :=
  let ri := descRegion d
  let inside := s.rgn.ranges.any fun e => decide (e.kind = .page ∧ e.region = ri ∧ e.start < descPage d * 65536
    ∧ descPage d * 65536 + 65536 < e.start + e.length)
  [(pageBad r d, stOutOfRange),
   ((pageGranule s ri (descPage d)).isNone, stAlreadyDone),
   ((s.rgn.pageJobs.any fun j => decide (j.region = ri ∧ j.page = descPage d))
     || (inside && (decide (s.rgn.ranges.length ≥ 16384) || (!isOp r.tenant &&
          decide (rangesInUse s r.tenant + 1 > (s.tenant r.tenant.toNat).rangeQuota)))), stResourceRefused)]

/-- Lines of the cell's directory in a granule. -/
def cachedLines (s : State) (g : Nat) : List DirEntry := s.coh.dir.filter fun e => e.line / 1024 == g

/-- The bytes that a page leaves with, each line read through the ladder (R102, R416, R429, R794), and the events
of its poisoned lines. -/
def pageBytes (s : State) (r : Region) (ri page g : Nat) (fs : List ReadFault) : State × List Byte :=
  if (s.stack (gStack g)).lost then
    (memPost s r.tenant (memEvent s 0x61 stPoisoned r.tenant (gStack g) 6 ri (page * 65536) g 0 1024), zeros 65536)
  else
    (List.range 1024).foldl (fun (s, out) i =>
      let h : LineHome := ⟨ri, r, page, i, g * 1024 + i⟩
      if (lineMeta s h.line r.tenant).poison then (poisonEvent s h 8 0 1, out ++ zeros 64)
      else
        let (s, res) := readLine s h fs [] 0
        (s, out ++ (match res with
          | .data d => d
          | _ => zeros 64))) (s, [])

/-- Frees the granule of a page that has left (R69); a granule of a lost stack stays out (R794). -/
def freePage (s : State) (j : PageJob) : State :=
  if (s.stack (gStack j.granule.toNat)).lost then s.onRgn fun x => { x with dead := x.dead ++ [j.granule] }
  else scrubSpan s (singleSpan j.granule.toNat 1)

/-- The page of a PAGE_OUT that its region's destruction has ended: its granule is freed at once (R790), with what
copies of it are out taken back. While an accepted request still touches the page, the granule is freed with the
region, once those requests have completed (R109). DEDUCED (log entry 176). -/
def leavePage (s : State) (r : Region) (j : PageJob) : State :=
  if rangeIdle s j.region (j.page * 65536) 65536 then
    freePage ((cachedLines s j.granule.toNat).foldl (fun s e => takeBack s ⟨j.region, r, j.page, e.line % 1024, e.line⟩) s) j
  else s.onRgn fun x => { x with
    leaving := x.leaving ++ [⟨.page, 0, j.page * 65536, 65536, j.region, r.tenant, j.granule, 0⟩] }

/-- A PAGE_OUT goes on once nothing touches its page and no copy of it is out (R102, R103, R790). -/
def pageOutStep (s : State) (j : PageJob) : State :=
  let g := j.granule.toNat
  let free := fun s : State => freePage (dropJob s j) j
  match s.region? j.region with
  | none => complete (free s) j.origin j.desc stKeyMismatch []
  | some r =>
    if r.destroying then complete (leavePage (dropJob s j) r j) j.origin j.desc stKeyMismatch []
    else if !rangeIdle s j.region (j.page * 65536) 65536 then s
    else
      let es := cachedLines s g
      let s := es.foldl (fun s e => (holders e.st).foldl (fun s x =>
        snoop s ⟨j.region, r, j.page, e.line % 1024, e.line⟩ x (match e.st with
          | .owned _ => true
          | _ => false) false) s) s
      if es ≠ [] ∨ (s.coh.recalls.any fun x => x.line / 1024 == g && !x.drop) then s
      else
        let (s, data) := pageBytes s r j.region j.page g j.faults
        if dmaOk s (originPort j.origin) then
          complete (free (dmaWrite s (originPort j.origin) (Desc.fld j.desc 56 8) data)) j.origin j.desc stOk []
        else complete (free s) j.origin j.desc stInternal []

/-- Lets every PAGE_OUT in progress go on. -/
def pageOutsGo (s : State) : State := (s.rgn.pageJobs.filter PageJob.out).foldl pageOutStep s

def specPageOut : CmdSpec where
  op := 0x27
  dest := here
  chk := regionChk pageOutRows
  eff o d k s :=
    let ri := descRegion d
    match pageGranule s ri (descPage d) with
    | none => complete s o d stAlreadyDone []
    | some g =>
      let j : PageJob := ⟨true, ri, descPage d, BitVec.ofNat 24 g, o, d, k.faults⟩
      let s := (removePage s ri (descPage d)).onRgn fun x => { x with pageJobs := x.pageJobs ++ [j] }
      pageOutStep s j

/-- PAGE_OUT (R102, R103). -/
def execPageOut (r : CmdRef) (d : Desc) (k : Pick) (s : State) := up s (runRow specPageOut r d k)

def specPageFaultClear : CmdSpec where
  op := 0x28
  dest := here
  chk := regionChk fun r d s => [
    (pageBad r d, stOutOfRange),
    (!s.rgn.pendingPages.contains (descRegion d, descPage d), stAlreadyDone)]
  eff o d _ s :=
    complete (s.onRgn fun g => { g with pendingPages := g.pendingPages.erase (descRegion d, descPage d) }) o d stOk []

/-- PAGE_FAULT_CLEAR (R99, R106). -/
def execPageFaultClear (r : CmdRef) (d : Desc) (s : State) := up s (runRow specPageFaultClear r d default)

end Sys2Proof.Machine
end

