-- ==== Sys2Proof/Machine/NumFmt.lean ====
section
/-! DEFINITION. Number formats (R310 to R317), exact accumulators (R305 to R309), the random-number generator
(R319, R320) and SHAKE256 (R342, FIPS 202). Values are exact dyadic numbers, rounded once at the end. -/

namespace Sys2Proof.Machine

/-! ### Exact numbers -/

/-- A number: NaN, an infinity, or (−1)^neg × m × 2^e. -/
inductive Num
  | nan
  | inf (neg : Bool)
  | fin (neg : Bool) (m : Nat) (e : Int)
  deriving DecidableEq, Repr, Inhabited

namespace Num

def zero : Num := .fin false 0 0

def neg : Num → Num
  | .nan => .nan
  | .inf s => .inf !s
  | .fin s m e => .fin (!s) m e

/-- The value of a finite number on the grid of 2^g, for a grid no coarser than its own. -/
def onGrid (neg : Bool) (m : Nat) (e g : Int) : Int :=
  let v : Nat := m <<< (e - g).toNat
  if neg then -(v : Int) else v

def ofInt (v e : Int) : Num := .fin (decide (v < 0)) v.natAbs e

/-- The exact sum. A zero sum is +0 unless both terms are negative zeros. -/
def add : Num → Num → Num
  | .nan, _ => .nan
  | _, .nan => .nan
  | .inf a, .inf b => if a = b then .inf a else .nan
  | .inf a, _ => .inf a
  | _, .inf b => .inf b
  | .fin a m e, .fin b n f =>
    let g := Min.min e f
    let v := onGrid a m e g + onGrid b n f g
    if v = 0 then .fin (decide (m = 0 ∧ n = 0) && a && b) 0 0 else ofInt v g

/-- The exact product. -/
def mul : Num → Num → Num
  | .nan, _ => .nan
  | _, .nan => .nan
  | .inf a, .inf b => .inf (a != b)
  | .inf a, .fin b n _ => if n = 0 then .nan else .inf (a != b)
  | .fin a m _, .inf b => if m = 0 then .nan else .inf (a != b)
  | .fin a m e, .fin b n f => .fin (a != b) (m * n) (e + f)

/-- Whether one number is less than another; −0 is less than +0, as minimumNumber and maximumNumber take them. -/
def lt : Num → Num → Bool
  | .nan, _ => false
  | _, .nan => false
  | .inf a, .inf b => a && !b
  | .inf a, _ => a
  | _, .inf b => !b
  | .fin a m e, .fin b n f =>
    let g := Min.min e f
    let v := onGrid a m e g
    let w := onGrid b n f g
    decide (v < w) || (decide (v = w) && a && !b)

/-- IEEE 754 maximumNumber and minimumNumber. -/
def maxN : Num → Num → Num
  | .nan, y => y
  | x, .nan => x
  | x, y => if lt x y then y else x

def minN : Num → Num → Num
  | .nan, y => y
  | x, .nan => x
  | x, y => if lt y x then y else x

/-- A number times 2^k. -/
def scale (k : Int) : Num → Num
  | .fin s m e => .fin s m (e + k)
  | x => x

end Num

/-! ### Rounding (R314, R316) -/

/-- The rounding of a conversion: to nearest, ties to even, or stochastic with its 16-bit random value. -/
inductive Round
  | rne
  | sr (r : Nat)
  deriving DecidableEq, Repr, Inhabited

def Round.stochastic : Round → Bool
  | .rne => false
  | .sr _ => true

/-- A magnitude m × 2^e in units of 2^q, rounded to a whole number. -/
def roundUnits (m : Nat) (e q : Int) (md : Round) : Nat :=
  if q ≤ e then m <<< (e - q).toNat
  else
    let sh := (q - e).toNat
    let n := m >>> sh
    let rem := m % 2 ^ sh
    match md with
    | .rne => if rem * 2 > 2 ^ sh ∨ (rem * 2 = 2 ^ sh ∧ n % 2 = 1) then n + 1 else n
    | .sr r => if rem * 65536 / 2 ^ sh + r ≥ 65536 then n + 1 else n

/-! ### Floating-point formats (R310) -/

/-- A sign-magnitude format: exponent bits, mantissa bits, bias, and the code of its largest finite magnitude. -/
structure Flt8 where
  (eb mb bias maxCode : Nat)
  deriving DecidableEq, Repr, Inhabited

/-- Formats by the code of R358. -/
def fmtOf (f : Nat) : Flt8 :=
  match f with
  | 0 => ⟨2, 1, 1, 7⟩
  | 1 => ⟨2, 3, 1, 31⟩
  | 2 => ⟨3, 2, 3, 31⟩
  | 3 => ⟨4, 3, 7, 0x7E⟩
  | 4 => ⟨5, 2, 15, 0x7B⟩
  | 6 => ⟨8, 7, 127, 0x7F7F⟩
  | 7 => ⟨5, 10, 15, 0x7BFF⟩
  | _ => ⟨8, 23, 127, 0x7F7FFFFF⟩

/-- Bits of an element of a format. -/
def fmtBits (f : Nat) : Nat :=
  match f with
  | 0 => 4
  | 1 => 6
  | 2 => 6
  | 3 => 8
  | 4 => 8
  | 5 => 8
  | 6 => 16
  | 7 => 16
  | 8 => 32
  | 9 => 32
  | _ => 64

def isMx (f : Nat) : Bool := decide (f ≤ 5)

/-- A two's complement integer of `w` bits. -/
def signedOf (w v : Nat) : Int := if v ≥ 2 ^ (w - 1) then (v : Int) - 2 ^ w else v

/-- The `w`-bit code of an integer, modulo 2^w. -/
def wrapInt (w : Nat) (v : Int) : Nat := (v % (2 ^ w : Nat)).toNat

/-- The value of an element (R310). -/
def decodeElem (f code : Nat) : Num :=
  if f = 5 then Num.ofInt (signedOf 8 code) (-6)
  else if f = 9 then Num.ofInt (signedOf 32 code) 0
  else if f = 10 then Num.ofInt (signedOf 64 code) 0
  else
    let t := fmtOf f
    let s := bitOf code (t.eb + t.mb)
    let ex := bitsOf code t.mb t.eb
    let mt := bitsOf code 0 t.mb
    if f = 3 ∧ ex = 15 ∧ mt = 7 then .nan
    else if (f = 4 ∨ f ≥ 6) ∧ ex = 2 ^ t.eb - 1 then (if mt = 0 then .inf s else .nan)
    else if ex = 0 then .fin s mt (1 - (t.bias : Int) - t.mb)
    else .fin s (2 ^ t.mb + mt) ((ex : Int) - t.bias - t.mb)

/-- The canonical NaN of a format (R315). -/
def nanCode (f : Nat) : Nat :=
  match f with
  | 3 => 0x7F
  | 4 => 0x7E
  | 6 => 0x7FC0
  | 7 => 0x7E00
  | 8 => 0x7FC00000
  | _ => 0

/-- The code of a magnitude in a floating-point format, which may lie beyond the largest finite one. -/
def magCode (f m : Nat) (e : Int) (md : Round) : Nat :=
  if m = 0 then 0
  else
    let t := fmtOf f
    let l := max ((Nat.log2 m : Int) + e) (1 - (t.bias : Int))
    (l + t.bias - 1).toNat * 2 ^ t.mb + roundUnits m e (l - t.mb) md

def signCode (f : Nat) (s : Bool) : Nat := if s then 2 ^ (fmtBits f - 1) else 0

/-- Rounds a float to the nearest integer, ties to even, and saturates it (R317). -/
def toInt (w : Nat) : Num → Int
  | .nan => 0
  | .inf s => if s then -(2 ^ (w - 1) : Nat) else (2 ^ (w - 1) : Nat) - 1
  | .fin s m e =>
    let n : Int := roundUnits m e 0 .rne
    max (-(2 ^ (w - 1) : Nat)) (min ((2 ^ (w - 1) : Nat) - 1) (if s then -n else n))

/-- Delivers a number in BF16, FP16, FP32, INT32 or INT64 (R314, R315, R317). -/
def encode (f : Nat) (x : Num) (md : Round) : Nat :=
  if f = 9 then wrapInt 32 (toInt 32 x)
  else if f = 10 then wrapInt 64 (toInt 64 x)
  else
    let t := fmtOf f
    match x with
    | .nan => nanCode f
    | .inf s => signCode f s + t.maxCode + 1
    | .fin s m e =>
      let c := magCode f m e md
      signCode f s + (if c ≤ t.maxCode then c else if md.stochastic then t.maxCode else t.maxCode + 1)

/-- A number rounded to FP32 (R303). -/
def round32 (x : Num) : Num := decodeElem 8 (encode 8 x .rne)

/-! ### Microscaling formats (R311 to R313) -/

/-- The `w`-bit element `i` of packed bytes. -/
def packedElem (w : Nat) (bs : List Byte) (i : Nat) : Nat :=
  leNat ((bs.drop (w * i / 8)).take 9) / 2 ^ (w * i % 8) % 2 ^ w

/-- Packs elements of `w` bits into bytes. -/
def packElems (w : Nat) (l : List Nat) : List Byte :=
  leBytes ((w * l.length + 7) / 8) (l.foldr (fun v n => v + 2 ^ w * n) 0)

/-- Decodes one element with its block's scale (R312). -/
def decodeScaled (f scale code : Nat) : Num :=
  if scale = 255 then .nan else (decodeElem f code).scale ((scale : Int) - 127)

/-- Bytes that a row of `n` elements takes, with its scales (R311). -/
def rowBytes (f n : Nat) : Nat := if isMx f then fmtBits f * n / 8 + n / 32 else fmtBits f * n / 8

/-- Decodes a row of `n` elements (R311, R312). -/
def decodeRow (f n : Nat) (bs : List Byte) : List Num :=
  (List.range n).map fun i =>
    let c := packedElem (fmtBits f) bs i
    if isMx f then decodeScaled f (bs.getD (fmtBits f * n / 8 + i / 32) 0).toNat c else decodeElem f c

/-- floor(log2) of a finite magnitude. -/
def magLog : Num → Int
  | .fin _ m e => (Nat.log2 m : Int) + e
  | _ => 0

def isNan : Num → Bool
  | .nan => true
  | _ => false

def isNonzero : Num → Bool
  | .fin _ m _ => m != 0
  | _ => false

/-- emax of R313. -/
def emax (f : Nat) : Int :=
  match f with
  | 0 => 2
  | 1 => 2
  | 2 => 4
  | 3 => 8
  | 4 => 15
  | _ => 0

/-- One element of an MX block, divided by 2^e already (R313: steps 4 to 7). -/
def mxElem (f : Nat) (x : Num) (md : Round) : Nat :=
  match x with
  | .nan => 0
  | .inf s => if f = 5 then wrapInt 8 (if s then -127 else 127) else
      signCode f s + (fmtOf f).maxCode + b2n (f == 4)
  | .fin s m e =>
    if f = 5 then
      let n : Int := Nat.min 127 (roundUnits m e (-6) md)
      wrapInt 8 (if s then -n else n)
    else
      let c := Nat.min (fmtOf f).maxCode (magCode f m e md)
      if c = 0 then 0 else signCode f s + c

/-- Encodes a block (R313): the scale code and the elements. `md i` rounds element `i`. -/
def encodeBlock (f : Nat) (xs : List Num) (md : Nat → Round) : Nat × List Nat :=
  if xs.any isNan then (255, xs.map fun _ => 0)
  else
    let logs := (xs.filter isNonzero).map magLog
    match logs with
    | [] => (0, xs.mapIdx fun i x => mxElem f x (md i))
    | l :: ls =>
      let e := max (-127) (min 127 (ls.foldl max l - emax f))
      ((e + 127).toNat, xs.mapIdx fun i x => mxElem f (x.scale (-e)) (md i))

/-! ### Exact accumulators (R305 to R309) -/

/-- Adds one addend (R306). -/
def Accum.addNum (c : Accum) (x : Num) : Accum :=
  match x with
  | .nan => { c with nan := true }
  | .inf s => if s then { c with negInf := true } else { c with posInf := true }
  | .fin s m e =>
    if m ≠ 0 ∧ (Nat.log2 m : Int) + e ≥ 128 then (if s then { c with negInf := true } else { c with posInf := true })
    else
      let k := BitVec.ofNat 320 (roundUnits m e (-160) .rne)
      { c with a := if s then c.a - k else c.a + k }

/-- The exact value of an accumulator without flags. -/
def Accum.value (c : Accum) : Num := Num.ofInt c.a.toInt (-160)

/-- The number that a read-out rounds (R308). -/
def Accum.num (c : Accum) : Num :=
  if c.nan ∨ (c.posInf ∧ c.negInf) then .nan
  else if c.posInf then .inf false
  else if c.negInf then .inf true
  else c.value

/-- The read-out in BF16, FP16, FP32 or INT64 (R308). -/
def Accum.readOut (c : Accum) (f : Nat) : Nat := encode f c.num .rne

/-- The image of an accumulator (R309). -/
def Accum.image (c : Accum) : List Byte :=
  leBytes 40 c.a.toNat ++ [BitVec.ofNat 8 (b2n c.nan + 2 * b2n c.posInf + 4 * b2n c.negInf)] ++ zeros 7

def Accum.ofImage (b : List Byte) : Accum :=
  let f := fieldAt b 40 1
  ⟨BitVec.ofNat 320 (fieldAt b 0 40), bitOf f 0, bitOf f 1, bitOf f 2⟩

/-- Adds an image (R309). -/
def Accum.addImage (c d : Accum) : Accum :=
  ⟨c.a + d.a, c.nan || d.nan, c.posInf || d.posInf, c.negInf || d.negInf⟩

/-! ### Random numbers (R319, R320) -/

structure Philox where
  (k0 k1 c0 c1 c2 c3 : BitVec 32)
  deriving DecidableEq, Repr, Inhabited

def philoxRound (p : Philox) : Philox :=
  let p0 : BitVec 64 := 0xD2511F53 * p.c0.setWidth 64
  let p1 : BitVec 64 := 0xCD9E8D57 * p.c2.setWidth 64
  { p with
    c0 := (p1 >>> 32).setWidth 32 ^^^ p.c1 ^^^ p.k0
    c1 := p1.setWidth 32
    c2 := (p0 >>> 32).setWidth 32 ^^^ p.c3 ^^^ p.k1
    c3 := p0.setWidth 32 }

def philoxKey (p : Philox) : Philox := { p with k0 := p.k0 + 0x9E3779B9, k1 := p.k1 + 0xBB67AE85 }

def philoxRounds : Nat → Philox → Philox
  | 0, p => p
  | n + 1, p => philoxRounds n (philoxRound (philoxKey p))

/-- The four words of a block, word 0 first. -/
def philoxBlock (seed stream counter : BitVec 64) : List (BitVec 32) :=
  let p : Philox := ⟨seed.setWidth 32, (seed >>> 32).setWidth 32, counter.setWidth 32, (counter >>> 32).setWidth 32,
    stream.setWidth 32, (stream >>> 32).setWidth 32⟩
  let q := philoxRounds 9 (philoxRound p)
  [q.c0, q.c1, q.c2, q.c3]

/-- The words of `n` blocks from a counter on. -/
def randomWords (seed stream counter : BitVec 64) (n : Nat) : List (BitVec 32) :=
  (List.range n).flatMap fun i => philoxBlock seed stream (counter + BitVec.ofNat 64 i)

/-- The first `n` 16-bit values of a fresh block on, and the blocks begun (R320). -/
def blocksFor (n : Nat) : Nat := (n + 7) / 8

def randomHalves (seed stream counter : BitVec 64) (n : Nat) : List Nat :=
  (randomWords seed stream counter (blocksFor n)).flatMap fun w => [w.toNat % 65536, w.toNat / 65536]

/-! ### SHAKE256 (FIPS 202) -/

/-- A Keccak state: lane (x, y) at x + 5 y. -/
abbrev Keccak := List (BitVec 64)

def lane (a : Keccak) (x y : Nat) : BitVec 64 := a.getD (x % 5 + 5 * (y % 5)) 0

def keccakOf (f : Nat → Nat → BitVec 64) : Keccak := (List.range 25).map fun i => f (i % 5) (i / 5)

def keccakRot : List Nat :=
  [0, 1, 62, 28, 27, 36, 44, 6, 55, 20, 3, 10, 43, 25, 39, 41, 45, 15, 21, 8, 18, 2, 61, 56, 14]

def keccakRc : List (BitVec 64) :=
  [0x0000000000000001, 0x0000000000008082, 0x800000000000808A, 0x8000000080008000, 0x000000000000808B,
   0x0000000080000001, 0x8000000080008081, 0x8000000000008009, 0x000000000000008A, 0x0000000000000088,
   0x0000000080008009, 0x000000008000000A] ++
  [0x000000008000808B, 0x800000000000008B, 0x8000000000008089, 0x8000000000008003, 0x8000000000008002,
   0x8000000000000080, 0x000000000000800A, 0x800000008000000A, 0x8000000080008081, 0x8000000000008080,
   0x0000000080000001, 0x8000000080008008]

def keccakRound (rc : BitVec 64) (a : Keccak) : Keccak :=
  let c := (List.range 5).map fun x => lane a x 0 ^^^ lane a x 1 ^^^ lane a x 2 ^^^ lane a x 3 ^^^ lane a x 4
  let d := (List.range 5).map fun x => c.getD ((x + 4) % 5) 0 ^^^ (c.getD ((x + 1) % 5) 0).rotateLeft 1
  let t := keccakOf fun x y => (lane a x y ^^^ d.getD x 0)
  let r := keccakOf fun x y => (lane t x y).rotateLeft (keccakRot.getD (x + 5 * y) 0)
  -- B[y][2x + 3y] = A[x][y]: B[x][y] comes from A[x + 3y][x]
  let b := keccakOf fun x y => lane r (x + 3 * y) x
  let e := keccakOf fun x y => lane b x y ^^^ (~~~ lane b (x + 1) y &&& lane b (x + 2) y)
  e.set 0 (lane e 0 0 ^^^ rc)

def keccakF (a : Keccak) : Keccak := keccakRc.foldl (fun a rc => keccakRound rc a) a

/-- Bytes per block of SHAKE256. -/
def shakeRate : Nat := 136

def absorbBlock (a : Keccak) (b : List Byte) : Keccak :=
  keccakF (a.mapIdx fun i l => if i < 17 then l ^^^ BitVec.ofNat 64 (fieldAt b (8 * i) 8) else l)

/-- Absorbs a padded message of `n` blocks. -/
def absorb : Nat → Keccak → List Byte → Keccak
  | 0, a, _ => a
  | n + 1, a, m => absorb n (absorbBlock a (m.take shakeRate)) (m.drop shakeRate)

def shakePad (m : List Byte) : List Byte :=
  let k := shakeRate - m.length % shakeRate
  m ++ (if k = 1 then [0x9F] else [0x1F] ++ zeros (k - 2) ++ [0x80])

/-- SHAKE256 with 64 bytes of output. -/
def shake256 (m : List Byte) : List Byte :=
  let p := shakePad m
  let a := absorb (p.length / shakeRate) (List.replicate 25 0) p
  (a.take 8).flatMap fun l => leBytes 8 l.toNat

end Sys2Proof.Machine
end

