-- ==== Sys2Proof/Machine/Slh.lean ====
section
/-! DEFINITION. SLH-DSA with SHAKE256 as FIPS 205 defines it (R343, R344, R686, R688, R692): key generation,
deterministic signing and verification, with an empty context string. The standard itself is not in the spec: its text is
PRESUMED (log entry 22). -/

namespace Sys2Proof.Machine

/-- A parameter set: hash bytes, height of the hypertree, its layers, height and number of the FORS trees, digest
bytes. -/
structure SlhParams where
  (n h d a k m : Nat)
  deriving DecidableEq, Repr, Inhabited

def slh256s : SlhParams := ⟨32, 64, 8, 14, 22, 47⟩
def slh256f : SlhParams := ⟨32, 68, 17, 9, 35, 49⟩

/-- Height of one XMSS tree. -/
def SlhParams.hp (q : SlhParams) : Nat := q.h / q.d

/-- Chains of a WOTS+ key with w = 16: two digits a byte, and three of the checksum. -/
def SlhParams.chains (q : SlhParams) : Nat := 2 * q.n + 3

/-- Bytes of a signature. -/
def SlhParams.sigLen (q : SlhParams) : Nat := q.n * (1 + q.k * (1 + q.a) + q.h + q.d * q.chains)

/-- The first `n` bytes, at most 136, of a SHAKE256 output. -/
def shakeOut (n : Nat) (m : List Byte) : List Byte :=
  let p := shakePad m
  let a := absorb (p.length / shakeRate) (List.replicate 25 0) p
  ((a.take 17).flatMap fun l => leBytes 8 l.toNat).take n

def bigBytes (n v : Nat) : List Byte := (leBytes n v).reverse
def bigNat (l : List Byte) : Nat := leNat l.reverse

/-- The first `out` digits of `b` bits of a byte string, the most significant first. -/
def slhDigits (x : List Byte) (b out : Nat) : List Nat :=
  let v := bigNat x
  (List.range out).map fun i => v / 2 ^ (8 * x.length - b * (i + 1)) % 2 ^ b

/-! ### Addresses -/

/-- A 32-byte address: layer, tree, type and three words. -/
structure SlhAdrs where
  (layer tree type w1 w2 w3 : Nat)
  deriving DecidableEq, Repr, Inhabited

def SlhAdrs.bytes (x : SlhAdrs) : List Byte :=
  bigBytes 4 x.layer ++ bigBytes 12 x.tree ++ bigBytes 4 x.type ++ bigBytes 4 x.w1 ++ bigBytes 4 x.w2 ++ bigBytes 4 x.w3

/-- The tweaked hash that F, H and T are. -/
def slhT (q : SlhParams) (pkSeed : List Byte) (x : SlhAdrs) (m : List Byte) : List Byte :=
  shakeOut q.n (pkSeed ++ x.bytes ++ m)

/-! ### WOTS+ -/

/-- `steps` further links of a chain, from link `i` on. -/
def slhChain (q : SlhParams) (pkSeed : List Byte) (x : SlhAdrs) : (steps i : Nat) → List Byte → List Byte
  | 0, _, v => v
  | n + 1, i, v => slhChain q pkSeed x n (i + 1) (slhT q pkSeed { x with w3 := i } v)

/-- The digits of a message and of its checksum. -/
def wotsDigits (q : SlhParams) (m : List Byte) : List Nat :=
  let l := slhDigits m 4 (2 * q.n)
  let c := (l.map fun d => 15 - d).sum
  l ++ slhDigits (bigBytes 2 (c * 16)) 4 3

/-- The secret value of chain `i`. -/
def wotsSecret (q : SlhParams) (skSeed pkSeed : List Byte) (x : SlhAdrs) (i : Nat) : List Byte :=
  shakeOut q.n (pkSeed ++ ({ x with type := 5, w2 := i, w3 := 0 } : SlhAdrs).bytes ++ skSeed)

/-- The public key of the key pair at an address, from its chains' ends. -/
def wotsRoot (q : SlhParams) (pkSeed : List Byte) (x : SlhAdrs) (ends : List (List Byte)) : List Byte :=
  slhT q pkSeed { x with type := 1, w2 := 0, w3 := 0 } ends.flatten

def wotsPk (q : SlhParams) (skSeed pkSeed : List Byte) (x : SlhAdrs) : List Byte :=
  wotsRoot q pkSeed x ((List.range q.chains).map fun i =>
    slhChain q pkSeed { x with w2 := i } 15 0 (wotsSecret q skSeed pkSeed x i))

def wotsSign (q : SlhParams) (skSeed pkSeed : List Byte) (x : SlhAdrs) (m : List Byte) : List Byte :=
  ((wotsDigits q m).mapIdx fun i d => slhChain q pkSeed { x with w2 := i } d 0 (wotsSecret q skSeed pkSeed x i)).flatten

/-- Part `i` of `n` bytes of a signature. -/
def slhPart (q : SlhParams) (sig : List Byte) (i : Nat) : List Byte := (sig.drop (q.n * i)).take q.n

def wotsPkOf (q : SlhParams) (pkSeed : List Byte) (x : SlhAdrs) (sig m : List Byte) : List Byte :=
  wotsRoot q pkSeed x ((wotsDigits q m).mapIdx fun i d =>
    slhChain q pkSeed { x with w2 := i } (15 - d) d (slhPart q sig i))

/-! ### Trees -/

/-- A node of a binary hash tree from its leaves: height `z`, index `i`; `x` gives the address but for both. -/
def slhNode (q : SlhParams) (pkSeed : List Byte) (x : SlhAdrs) (leaf : Nat → List Byte) : (z i : Nat) → List Byte
  | 0, i => leaf i
  | z + 1, i => slhT q pkSeed { x with w2 := z + 1, w3 := i }
      (slhNode q pkSeed x leaf z (2 * i) ++ slhNode q pkSeed x leaf z (2 * i + 1))

/-- The sibling of node `i` of a height: the authentication path of a leaf has one for each height. -/
def slhAuth (q : SlhParams) (pkSeed : List Byte) (x : SlhAdrs) (leaf : Nat → List Byte) (z i : Nat) : List Byte :=
  ((List.range z).map fun j => let t := i / 2 ^ j; slhNode q pkSeed x leaf j (if t % 2 = 0 then t + 1 else t - 1)).flatten

/-- The root that a leaf and its authentication path give; `i` is the leaf's index in the level of leaves. -/
def slhClimb (q : SlhParams) (pkSeed : List Byte) (x : SlhAdrs) (auth : List Byte) : (z j i : Nat) → List Byte → List Byte
  | 0, _, _, v => v
  | z + 1, j, i, v =>
    let y := slhPart q auth j
    slhClimb q pkSeed x auth z (j + 1) (i / 2)
      (slhT q pkSeed { x with w2 := j + 1, w3 := i / 2 } (if i % 2 = 0 then v ++ y else y ++ v))

/-! ### XMSS and the hypertree -/

def xmssLeaf (q : SlhParams) (skSeed pkSeed : List Byte) (layer tree i : Nat) : List Byte :=
  wotsPk q skSeed pkSeed ⟨layer, tree, 0, i, 0, 0⟩

def xmssSign (q : SlhParams) (skSeed pkSeed : List Byte) (layer tree i : Nat) (m : List Byte) : List Byte :=
  wotsSign q skSeed pkSeed ⟨layer, tree, 0, i, 0, 0⟩ m
    ++ slhAuth q pkSeed ⟨layer, tree, 2, 0, 0, 0⟩ (xmssLeaf q skSeed pkSeed layer tree) q.hp i

def xmssRootOf (q : SlhParams) (pkSeed : List Byte) (layer tree i : Nat) (sig m : List Byte) : List Byte :=
  slhClimb q pkSeed ⟨layer, tree, 2, 0, 0, 0⟩ (sig.drop (q.n * q.chains)) q.hp 0 i
    (wotsPkOf q pkSeed ⟨layer, tree, 0, i, 0, 0⟩ sig m)

/-- Bytes of one XMSS signature. -/
def SlhParams.xmssLen (q : SlhParams) : Nat := q.n * (q.chains + q.hp)

/-- Signs with the layers from `layer` on. -/
def htSign (q : SlhParams) (skSeed pkSeed : List Byte) : (layers layer tree leaf : Nat) → List Byte → List Byte
  | 0, _, _, _, _ => []
  | n + 1, layer, tree, leaf, m =>
    let g := xmssSign q skSeed pkSeed layer tree leaf m
    g ++ htSign q skSeed pkSeed n (layer + 1) (tree / 2 ^ q.hp) (tree % 2 ^ q.hp)
      (xmssRootOf q pkSeed layer tree leaf g m)

/-- The root that a hypertree signature gives. -/
def htRootOf (q : SlhParams) (pkSeed : List Byte) : (layers layer tree leaf : Nat) → (sig m : List Byte) → List Byte
  | 0, _, _, _, _, m => m
  | n + 1, layer, tree, leaf, g, m =>
    htRootOf q pkSeed n (layer + 1) (tree / 2 ^ q.hp) (tree % 2 ^ q.hp) (g.drop q.xmssLen)
      (xmssRootOf q pkSeed layer tree leaf g m)

/-! ### FORS -/

def forsSecret (q : SlhParams) (skSeed pkSeed : List Byte) (tree pair i : Nat) : List Byte :=
  shakeOut q.n (pkSeed ++ (⟨0, tree, 6, pair, 0, i⟩ : SlhAdrs).bytes ++ skSeed)

def forsLeaf (q : SlhParams) (skSeed pkSeed : List Byte) (tree pair i : Nat) : List Byte :=
  slhT q pkSeed ⟨0, tree, 3, pair, 0, i⟩ (forsSecret q skSeed pkSeed tree pair i)

/-- For each FORS tree, the secret value and the authentication path of the leaf that the digest names. -/
def forsSign (q : SlhParams) (skSeed pkSeed : List Byte) (tree pair : Nat) (md : List Byte) : List Byte :=
  ((slhDigits md q.a q.k).mapIdx fun t d =>
    let i := t * 2 ^ q.a + d
    forsSecret q skSeed pkSeed tree pair i
      ++ slhAuth q pkSeed ⟨0, tree, 3, pair, 0, 0⟩ (forsLeaf q skSeed pkSeed tree pair) q.a i).flatten

def forsPkOf (q : SlhParams) (pkSeed : List Byte) (tree pair : Nat) (sig md : List Byte) : List Byte :=
  slhT q pkSeed ⟨0, tree, 4, pair, 0, 0⟩ ((slhDigits md q.a q.k).mapIdx fun t d =>
    let i := t * 2 ^ q.a + d
    let g := sig.drop (q.n * (q.a + 1) * t)
    slhClimb q pkSeed ⟨0, tree, 3, pair, 0, 0⟩ (g.drop q.n) q.a 0 i
      (slhT q pkSeed ⟨0, tree, 3, pair, 0, i⟩ (g.take q.n))).flatten

/-! ### SLH-DSA -/

/-- What a digest selects: the FORS message, the tree and the leaf of the lowest layer. -/
def slhSelect (q : SlhParams) (digest : List Byte) : List Byte × Nat × Nat :=
  let n1 := (q.k * q.a + 7) / 8
  let n2 := (q.h - q.hp + 7) / 8
  let n3 := (q.hp + 7) / 8
  (digest.take n1, bigNat ((digest.drop n1).take n2) % 2 ^ (q.h - q.hp), bigNat ((digest.drop (n1 + n2)).take n3) % 2 ^ q.hp)

/-- A message with its domain byte and the empty context string. -/
def slhMessage (m : List Byte) : List Byte := [0, 0] ++ m

/-- The root of the topmost tree. -/
def slhRoot (q : SlhParams) (skSeed pkSeed : List Byte) : List Byte :=
  slhNode q pkSeed ⟨q.d - 1, 0, 2, 0, 0, 0⟩ (xmssLeaf q skSeed pkSeed (q.d - 1) 0) q.hp 0

/-- The public key of SK.seed and PK.seed. -/
def slhKey (q : SlhParams) (skSeed pkSeed : List Byte) : List Byte := pkSeed ++ slhRoot q skSeed pkSeed

/-- The deterministic signature of a message. -/
def slhSignWith (q : SlhParams) (skSeed skPrf pkSeed : List Byte) (m : List Byte) : List Byte :=
  let root := slhRoot q skSeed pkSeed
  let m := slhMessage m
  let r := shakeOut q.n (skPrf ++ pkSeed ++ m)
  let (md, tree, leaf) := slhSelect q (shakeOut q.m (r ++ pkSeed ++ root ++ m))
  let f := forsSign q skSeed pkSeed tree leaf md
  r ++ f ++ htSign q skSeed pkSeed q.d 0 tree leaf (forsPkOf q pkSeed tree leaf f md)

/-- A signature holds for a public key and a message. -/
def slhHolds (q : SlhParams) (pk m sig : List Byte) : Bool :=
  let pkSeed := pk.take q.n
  let root := (pk.drop q.n).take q.n
  let r := sig.take q.n
  let m := slhMessage m
  let (md, tree, leaf) := slhSelect q (shakeOut q.m (r ++ pkSeed ++ root ++ m))
  let f := (sig.drop q.n).take (q.n * q.k * (q.a + 1))
  decide (sig.length = q.sigLen)
    && htRootOf q pkSeed q.d 0 tree leaf (sig.drop (q.n * (1 + q.k * (q.a + 1)))) (forsPkOf q pkSeed tree leaf f md) == root

/-! ### The keys of the switch (R686, R688, R691) -/

/-- Verification with SLH-DSA-SHAKE-256s: signers, owners and the vendor (R343, R691). -/
def slhVerify (key m sig : List Byte) : Bool := slhHolds slh256s key m sig

/-- The bytes of a text in ASCII. -/
def asciiBytes (t : String) : List Byte := t.toList.map fun c => BitVec.ofNat 8 c.toNat

/-- k of R686: SK.seed, SK.prf and PK.seed of the identity key, from the seed of the PUF array. -/
def idSecret (seed : List Byte) : List Byte := shakeOut 96 (asciiBytes "ZS-ID-KEY" ++ seed)

/-- The identity public key, SLH-DSA-SHAKE-256f. -/
def idPublicKey (seed : List Byte) : List Byte :=
  let k := idSecret seed
  slhKey slh256f (k.take 32) (k.drop 64)

/-- A signature with the identity key: deterministic, with an empty context string (R688). -/
def idSign (seed m : List Byte) : List Byte :=
  let k := idSecret seed
  slhSignWith slh256f (k.take 32) ((k.drop 32).take 32) (k.drop 64) m

end Sys2Proof.Machine
end

