-- ==== Sys2Proof/Machine/CruCore.lean ====
section
/-! DEFINITION. Crucible engines and programs: what they hold, registers and private scratch, instruction words
and their static checks (R357 to R364), allowances (R290, R327), faults and failure statuses (R354, R367 to R371),
and the target of a pool slot (R363, R365). -/

namespace Sys2Proof.Machine

/-! ### Engines and programs -/

/-- An engine as reset leaves it (R334, R335). -/
def Engine.fresh : Engine := { (default : Engine) with duty := 16, gather := 4096, weight := 8 }

def engineOf (s : State) (e : Nat) : Engine := s.cru.engines.getD e Engine.fresh
def onEngine (s : State) (e : Nat) (f : Engine → Engine) : State :=
  s.onCru fun c => { c with engines := c.engines.set e (f (engineOf s e)) }

/-- An engine is in service with its quadrant (R332). -/
def engineUp (s : State) (e : Nat) : Bool := decide (e < 16) && quadUp s (e / 4)

/-- An engine is paused while its gather limit is 0 (R329). -/
def paused (s : State) (e : Nat) : Bool := (engineOf s e).gather == 0

def prog? (s : State) (p : Nat) : Option Program := s.cru.progs.get? p
def onProg (s : State) (p : Nat) (f : Program → Program) : State :=
  s.onCru fun c => { c with progs := c.progs.modify p f }

def cruGroup (pr : Program) (g : Nat) : Group := pr.groups.getD g default
def onGroup (s : State) (p g : Nat) (f : Group → Group) : State :=
  onProg s p fun pr => { pr with groups := pr.groups.set g (f (cruGroup pr g)) }

/-! ### Registers (R284) -/

/-- t0 reads as 0. -/
def getT (g : Group) (th r : Nat) : BitVec 64 := if r = 0 then 0 else g.regs.getD (32 * th + r) 0

/-- t0 ignores writes. -/
def setT (g : Group) (th r : Nat) (v : BitVec 64) : Group :=
  if r = 0 then g else { g with regs := g.regs.set (32 * th + r) v }

/-- u(tA): the value of a register in thread 0 (R359). -/
def uni (g : Group) (r : Nat) : BitVec 64 := getT g 0 r

def getV (g : Group) (r : Nat) : BitVec 2048 := g.vregs.getD r 0
def setV (g : Group) (r : Nat) (v : BitVec 2048) : Group := { g with vregs := g.vregs.set r v }
def getM (g : Group) (r : Nat) : BitVec 64 := g.mregs.getD r 0
def setM (g : Group) (r : Nat) (v : BitVec 64) : Group := { g with mregs := g.mregs.set r v }

/-- Threads in which a per-thread instruction acts, ascending (R359). -/
def activeThreads (g : Group) : List Nat := bitList g.mask.toNat 32

/-- Lanes of `w` bits of a vector register. -/
def vLanes (w : Nat) (v : BitVec 2048) : List Nat := (List.range (2048 / w)).map fun i => bitsOf v.toNat (w * i) w
def vOf (w : Nat) (l : List Nat) : BitVec 2048 := BitVec.ofNat 2048 (l.foldr (fun v n => v % 2 ^ w + 2 ^ w * n) 0)

def accOf (pr : Program) (k : Nat) : Accum := pr.accs.getD k default

/-! ### Private scratch (R297, R360) -/

/-- Size of a program's private scratch. -/
def scratchSize (pr : Program) : Nat := slotsOfProg pr * 65536

/-- Where a byte of private scratch lies in the scratchpads. -/
def scratchAt (p : Nat) (pr : Program) (a : Nat) : Nat :=
  p / 16 * 2 ^ 23 + pr.slots.getD (a / 65536) 0 * 65536 + a % 65536

def scratchRead (s : State) (p : Nat) (pr : Program) (a n : Nat) : List Byte :=
  (List.range n).map fun i => s.pool.scratch.read (scratchAt p pr (a + i))

def scratchWrite (s : State) (p : Nat) (pr : Program) (a : Nat) (bs : List Byte) : State :=
  s.onPool fun x => { x with scratch := (bs.foldl (fun (m : Mem × Nat) b =>
    (m.1.write (scratchAt p pr m.2) b, m.2 + 1)) (x.scratch, a)).1 }

/-- A scratch access lies within private scratch. -/
def scratchOk (pr : Program) (a n : Nat) : Bool := decide (a + n ≤ scratchSize pr)

/-! ### Instruction words (R357) -/

structure Ins where
  (op d a b c f : Nat)
  imm : BitVec 32
  deriving DecidableEq, Repr, Inhabited

def Ins.of (w : BitVec 64) : Ins :=
  ⟨bitsOf w.toNat 56 8, bitsOf w.toNat 51 5, bitsOf w.toNat 46 5, bitsOf w.toNat 41 5, bitsOf w.toNat 36 5,
    bitsOf w.toNat 32 4, w.setWidth 32⟩

/-- sext(IMM). -/
def Ins.sext (i : Ins) : BitVec 64 := i.imm.signExtend 64
def Ins.uimm (i : Ins) : Nat := i.imm.toNat

/-- The resources of a declaration that the static checks name. -/
structure Decl where
  (code groups share accums handles : Nat)
  deriving DecidableEq, Repr, Inhabited

/-- The static checks of an instruction (R357, R360, R362 to R366). -/
def insOk (k : Decl) (i : Ins) : Bool :=
  let no := fun (d a b c f : Bool) (imm : Bool) =>
    (!d || i.d == 0) && (!a || i.a == 0) && (!b || i.b == 0) && (!c || i.c == 0) && (!f || i.f == 0) && (!imm || i.uimm == 0)
  let n := i.uimm
  let v := fun r : Nat => decide (r < 16)
  let eight := fun r : Nat => decide (r < 8)
  let h := decide (i.b < k.handles)
  let count := decide (1 ≤ n ∧ n ≤ 64)
  let accs := fun r : Nat => decide (r + n ≤ k.accums)
  let target := decide (n < k.code)
  let fin := fun lo hi : Nat => decide (lo ≤ i.f ∧ i.f ≤ hi)
  let op := i.op
  if 0x01 ≤ op ∧ op ≤ 0x0B then
    if i.f = 0 then no false false false true false true else decide (i.f = 1) && no false false true true false false
  else if op = 0x0C then fin 0 1 && no false true true true false false
  else if op = 0x0D then decide (n ≤ 15) && no false true true true true false
  else if op = 0x0E then fin 0 5 && no false false false true false true
  else if op = 0x18 then target && no true true true true true false
  else if op = 0x19 ∨ op = 0x1A then target && no true false true true true false
  else if op = 0x1B then if i.f = 0 then no true false true true false true else decide (i.f = 1) && no true true true true false false
  else if op = 0x1C then eight i.d && no false true true true true true
  else if op = 0x1D then eight i.a && no true false true true true true
  else if op = 0x1E then no true true true true true true
  else if op = 0x20 then no false false true true true false
  else if op = 0x21 then no true false false true true false
  else if op = 0x22 then
    let rb := n % 65536
    h && decide (rb % 64 = 0 ∧ 64 ≤ rb ∧ rb ≤ 4096 ∧ bitsOf n 16 15 = 0) &&
      (if bitOf n 31 then no true false false false true false else eight i.d && fin 0 10)
  else if op = 0x23 then h && no false false false true true true
  else if op = 0x24 then h && fin 0 9 && decide (n = 4 ∨ n = 8)
  else if op = 0x25 then h && fin 0 1 && decide (1 ≤ n ∧ n ≤ 4096) && (i.f == 1 || i.d == 0)
  else if op = 0x26 then h && fin 0 1 && decide (n = 0) && (i.f == 1 || i.c == 0)
  else if op = 0x27 then no true true true true true true
  else if op = 0x28 then no false false true true true true
  else if op = 0x29 then no false true true true true true
  else if op = 0x30 then
    let m := n % 65536
    eight i.a && fin 0 1 && no false false true true false false && decide (n < 2 ^ 17) &&
      (if i.f = 0 then decide (1 ≤ m ∧ m ≤ 1024 ∧ i.d + (m + 63) / 64 ≤ 16)
       else decide (1 ≤ m ∧ m ≤ 64 ∧ i.d + m ≤ k.accums))
  else if op = 0x31 then eight i.a && no true false true true true true
  else if op = 0x32 then count && accs i.d && no false true true true true false
  else if op = 0x33 then count && accs i.d && v i.a && fin 6 9 && no false false true true false false
  else if op = 0x34 then count && accs i.a && v i.d && (fin 6 8 || (i.f == 10 && decide (n ≤ 32)))
    && no false false true true false false
  else if op = 0x35 then count && accs i.a && no true false false true true false
  else if op = 0x36 then count && accs i.d && no false true false true true false
  else if op = 0x38 then decide (1 ≤ k.share) && fin 0 8 && no true false true true false true
  else if op = 0x39 then no true true true true true true
  else if op = 0x3A then decide (1 ≤ k.share) && fin 0 8 && decide (1 ≤ n % 65536 ∧ n < 2 ^ 17)
    && no true false false true false false
  else if op = 0x40 then v i.d && no false false true true true false
  else if op = 0x41 then v i.a && no true false false true true false
  else if op = 0x42 ∨ op = 0x43 ∨ op = 0x44 ∨ op = 0x46 ∨ op = 0x47 then
    v i.d && v i.a && v i.b && fin 6 9 && no false false false true false true
  else if op = 0x45 then v i.d && v i.a && v i.b && v i.c && fin 6 8 && no false false false false false true
  else if op = 0x48 then v i.d && fin 6 9 && no false false true true false true
  else if op = 0x49 then
    let t := n % 16
    v i.d && v i.a && fin 6 9 && decide (6 ≤ t ∧ t ≤ 9 ∧ n < 64) && no false false true true false false &&
      (!bitOf n 5 || decide (fmtBits t < fmtBits i.f))
  else if op = 0x4A then v i.a && fin 0 5 && decide (n ≤ 1) && no true false false true false false
  else if op = 0x4C then no true false false false true true
  else if op = 0x4D then v i.d && no false true true true true true
  else false

/-! ### Allowances and line requests (R290, R327) -/

/-- A program's allowance under the gather limit. -/
def allowance (s : State) (p : Nat) (pr : Program) : Nat :=
  let g := (engineOf s (p / 16)).gather
  if g ≥ 4096 then pr.outstanding else Nat.max 1 (pr.outstanding * g / 4096)

/-- Entries that a request holds: a request of more lines than the allowance takes them in turn. -/
def entriesOf (q : LineReq) (allow : Nat) : Nat := Nat.min q.lines allow

/-- Requests that hold entries. -/
def holding (s : State) : List LineReq := s.cru.reqs.filter fun q => q.issued && q.status.isNone && q.lines != 0

/-- Entries that a program, or an engine, holds: a request keeps what it took when it was issued. -/
def heldBy (s : State) (p : Nat) : Nat := (((holding s).filter fun q => q.prog == p).map LineReq.held).sum

def heldOn (s : State) (e : Nat) : Nat := (((holding s).filter fun q => q.prog / 16 == e).map LineReq.held).sum

/-- Whether the next request of a program fits its allowance and the engine's limit. -/
def mayIssue (s : State) (q : LineReq) : Bool :=
  match prog? s q.prog with
  | none => false
  | some pr =>
    let al := allowance s q.prog pr
    let n := entriesOf q al
    !paused s (q.prog / 16) && decide (heldBy s q.prog + n ≤ al ∧ heldOn s (q.prog / 16) + n ≤ (engineOf s (q.prog / 16)).gather)

/-- A request takes its entries. -/
def takeEntries (s : State) (q : LineReq) : LineReq :=
  { q with issued := true, held := match prog? s q.prog with
      | some pr => entriesOf q (allowance s q.prog pr)
      | none => 0 }

/-- Issues the requests of an engine that wait for entries, oldest first, as far as the limits go. -/
def issueWaiting : Nat → State → Nat → State
  | 0, s, _ => s
  | n + 1, s, e =>
    match s.cru.reqs.find? fun q => !q.issued && decide (q.prog / 16 = e) && mayIssue s q with
    | none => s
    | some q =>
      issueWaiting n (s.onCru fun c => { c with reqs := c.reqs.map fun x => if x.id = q.id then takeEntries s x else x }) e

/-- Adds a request of a group and issues what may be issued. -/
def addReq (s : State) (q : LineReq) : State :=
  s.onCru fun c => { c with reqs := c.reqs ++ [{ q with id := c.nextReq }], nextReq := c.nextReq + 1 }

def pumpLines (s : State) (e : Nat) : State := issueWaiting s.cru.reqs.length s e

def lineReq? (s : State) (id : Nat) : Option LineReq := s.cru.reqs.find? fun q => q.id == id
def dropReq (s : State) (id : Nat) : State := s.onCru fun c => { c with reqs := c.reqs.filter fun q => q.id != id }
def onReq (s : State) (id : Nat) (f : LineReq → LineReq) : State :=
  s.onCru fun c => { c with reqs := c.reqs.map fun q => if q.id = id then f q else q }

/-! ### Ends of programs (R354, R355, R369, R370) -/

/-- STATE of the program record; a program that ends is as it was until it has ended. -/
def progCode (pr : Program) : Nat :=
  match pr.state with
  | .loaded => 1
  | .running => 2
  | .ending => if pr.launchAt.isNone then 1 else 2
  | .ended => 3

/-- Decides the final status of a program, once: no group issues a further instruction, and requests that have not
been issued are not. -/
def endProg (s : State) (p : Nat) (st : Status) (info : Option FaultInfo) : State :=
  match prog? s p with
  | none => s
  | some pr =>
    if pr.state = .loaded ∨ pr.state = .running then
      let s := onProg s p fun pr => { pr with state := .ending, status := st, info := info, mboxQ := [] }
      s.onCru fun c => { c with reqs := c.reqs.filter fun q => !(q.prog == p && !q.issued) }
    else s

/-- A run-time fault (R369). -/
def faultProg (s : State) (p : Nat) (i : FaultInfo) : State := endProg s p stProgramFault (some i)

/-- A memory request has failed (R367). -/
def memFailed (s : State) (q : LineReq) (st : Status) : State :=
  match prog? s q.prog with
  | none => s
  | some pr =>
    if pr.soft then
      onGroup s q.prog q.grp fun g => { g with
        fail := if g.failN = 0 then st else g.fail, failN := Nat.min 0xFFFFFFFF (g.failN + 1) }
    else faultProg s q.prog ⟨1, q.pc, q.grp, q.thread, st, q.handle, q.offset⟩

/-! ### Pool slots (R363, R365) -/

/-- Adds one row, or its failure, into its slot. -/
def poolAdd (s : State) (p g : Nat) (sl : PoolSlot) (fmt : Nat) (w : BitVec 32) (row : Option (List Byte)) : State :=
  let xs := match row with
    | some bs => decodeRow fmt sl.n bs
    | none => List.replicate sl.n .nan
  let wn := decodeElem 8 w.toNat
  if sl.exact then
    onProg s p fun pr => { pr with accs := (xs.foldl (fun (a : Tbl Accum × Nat) x =>
      let y := if sl.weighted ∧ row.isSome then Num.mul wn x else x
      (a.1.set a.2 ((a.1.getD a.2 default).addNum y), a.2 + 1)) (pr.accs, sl.target)).1 }
  else
    let ys := xs.map fun x =>
      let x := round32 x
      if sl.weighted ∧ row.isSome then round32 (Num.mul wn x) else x
    onGroup s p g fun gr => (List.range ((sl.n + 63) / 64)).foldl (fun gr k =>
      let old := vLanes 32 (getV gr (sl.target + k))
      setV gr (sl.target + k) (vOf 32 (old.mapIdx fun i v =>
        match ys[64 * k + i]? with
        | some y => encode 8 (Num.add (decodeElem 8 v) y) .rne
        | none => v))) gr

/-- Adds the contributions of a slot in their order, as far as they have come. -/
def drainSlot : Nat → State → Nat → Nat → Nat → State
  | 0, s, _, _, _ => s
  | n + 1, s, p, g, slot =>
    match s.cru.reqs.find? fun q => q.prog == p && q.grp == g && (match q.kind with
        | .pool k _ _ => k == slot
        | _ => false), prog? s p with
    | some q, some pr =>
      match q.status, q.kind, (cruGroup pr g).slots.get? slot with
      | some st, .pool _ fmt w, some sl =>
        drainSlot n (dropReq (poolAdd s p g sl fmt w (if st = stOk then some q.data else none)) q.id) p g slot
      | _, _, _ => s
    | _, _ => s

/-- Pending gathers into a slot. -/
def slotPending (s : State) (p g slot : Nat) : Bool :=
  s.cru.reqs.any fun q => q.prog == p && q.grp == g && (match q.kind with
    | .pool k _ _ => k == slot
    | _ => false)

/-- Vector registers of an FP32 target, or accumulators of an EXACT one. -/
def slotSpan (sl : PoolSlot) : Nat := if sl.exact then sl.n else (sl.n + 63) / 64

def slotsMeet (a b : PoolSlot) : Bool :=
  a.exact == b.exact && decide (a.target < b.target + slotSpan b ∧ b.target < a.target + slotSpan a)

/-- A vector register, or an accumulator, is the target of gathers that are not all added. -/
def targetBusy (s : State) (p g : Nat) (gr : Group) (exact : Bool) (r n : Nat) : Bool :=
  gr.slots.any fun e => e.2.exact == exact && decide (e.2.target < r + n ∧ r < e.2.target + slotSpan e.2)
    && slotPending s p g e.1

/-! ### The program record (R371) -/

def progRecord (s : State) (p : Nat) (pr : Program) : List Byte :=
  let ended := pr.state == .ended
  let i := pr.info.getD ⟨0, 0, 255, 255, 0, 255, 0⟩
  [0x40, if ended then pr.status else 0] ++ leBytes 2 pr.tenant.toNat
    ++ [BitVec.ofNat 8 p, BitVec.ofNat 8 (progCode pr),
        BitVec.ofNat 8 (b2n pr.signed + 2 * b2n pr.soft + 4 * b2n (paused s (p / 16) && !ended)), i.reason]
    ++ leBytes 8 (if ended then pr.endTime else pr.loadTime) ++ leBytes 8 pr.startTime
    ++ leBytes 4 i.pc ++ [BitVec.ofNat 8 i.grp, BitVec.ofNat 8 i.thread, i.cause, BitVec.ofNat 8 i.handle]
    ++ leBytes 8 i.offset ++ leBytes 8 pr.lines ++ pr.digest.take 16

end Sys2Proof.Machine
end

