-- ==== Sys2Proof/Machine/CruMem.lean ====
section
/-! DEFINITION. Memory requests of Crucible programs: their checks and accesses at the home (R82, R288, R416),
what their return does (R362 to R368), and the ends of STOREs and SIGNALs. -/

namespace Sys2Proof.Machine

/-- A handle of the table: node, region and key (R62). -/
def handleNode (h : BitVec 64) : Node := (h >>> 48).setWidth 16
def handleRegion (h : BitVec 64) : Nat := bitsOf h.toNat 32 16
def handleKey (h : BitVec 64) : BitVec 32 := h.setWidth 32

def handleOf (pr : Program) (k : Nat) : BitVec 64 := pr.handles.getD k 0

/-- Books of a request that has been resolved: lines counted, entries free (R290, R337). -/
def lineCounted (s : State) (q : LineReq) : State :=
  let s := onEngine s (q.prog / 16) fun e => { e with lines := (e.lines + q.lines) % 2 ^ 64 }
  onProg s q.prog fun pr => { pr with lines := pr.lines + q.lines }

/-- A request of a group ends with a failure status (R367). -/
def lineDone (s : State) (id : Nat) (st : Status) : State :=
  match lineReq? s id with
  | none => s
  | some q =>
    let s := lineCounted s q
    let s := match q.kind with
      | .pool k _ _ =>
        let s := onReq s id fun q => { q with status := some st }
        match prog? s q.prog with
        | some pr => if pr.soft then drainSlot s.cru.reqs.length s q.prog q.grp k else dropReq s id
        | none => dropReq s id
      | .ldg r => dropReq (onGroup s q.prog q.grp fun g => setT g q.thread r 0) id
      | .atom r _ _ _ _ => dropReq (onGroup s q.prog q.grp fun g => setT g q.thread r 0) id
      | _ => dropReq s id
    pumpLines (memFailed s q st) (q.prog / 16)

/-- The data of a request have come (R362, R365). -/
def lineGot (s : State) (id : Nat) (data : List Byte) : State :=
  match lineReq? s id with
  | none => s
  | some q =>
    let s := lineCounted s q
    let s := match q.kind, prog? s q.prog with
      | .pool k _ _, some _ =>
        drainSlot s.cru.reqs.length (onReq s id fun q => { q with status := some stOk, data := data }) q.prog q.grp k
      | .ldg r, _ => dropReq (onGroup s q.prog q.grp fun g => setT g q.thread r (BitVec.ofNat 64 (leNat data))) id
      | .atom r _ _ _ _, _ => dropReq (onGroup s q.prog q.grp fun g => setT g q.thread r (BitVec.ofNat 64 (leNat data))) id
      | .raw, some pr => dropReq (scratchWrite s q.prog pr q.scr data) id
      | _, _ => dropReq s id
    pumpLines s (q.prog / 16)

/-- How a request reads or changes memory. -/
def lineKind (q : LineReq) : AccKind :=
  match q.kind with
  | .atom .. => .atomic
  | _ => .read

/-- The access of a request: the program's tag, with the ENGINE right (R288), at the version current (R172). -/
def lineAcc (pr : Program) (q : LineReq) : Acc :=
  ⟨q.region, some (handleKey (handleOf pr q.handle)), pr.tenant, lineKind q, true, false, q.offset, q.len, none⟩

/-- A read that has passed its checks. -/
def lineRead (s : State) (q : LineReq) (ri : Nat) (r : Region) (off : Nat) (fs : List ReadFault) (got : List Nat) :
    State :=
  if r.isScratch then lineGot s q.id (readScratch s r off q.len)
  else
    let ps := pieces off q.len
    let hs := homesOf s ri ps
    let (s, w) := prepare s hs .read none false
    if w ≠ [] then block s (.line q.id) ri off w got fs
    else
      let (s, res) := readPieces s ri ps fs got 0
      if anyPoison res then lineDone s q.id stPoisoned
      else if wantsOf res ≠ [] then
        awaitPartner ((hs.filter fun h => (wantsOf res).contains h.line).foldl partnerReadReq s) (.line q.id) ri off
          (wantsOf res) got
      else lineGot s q.id (joinData res)

/-- The operands of an atomic as R199 lays them out. -/
def atomPayload (subop n : Nat) (operand compare : BitVec 64) : List Byte :=
  if subop = 5 then leBytes n compare.toNat ++ leBytes n operand.toNat else leBytes n operand.toNat

/-- An atomic that has passed its checks (R144, R199). -/
def lineAtomic (s : State) (q : LineReq) (subop n : Nat) (pay : List Byte) (ri : Nat) (r : Region) (off : Nat)
    (fs : List ReadFault) (got : List Nat) (acked : Bool) : State :=
  if r.isScratch then
    let old := readScratch s r off n
    lineGot (writeScratch s r off (leBytes n (atomicNew subop n (leNat old) pay))) q.id old
  else
    match lineHome s ri off with
    | none => lineDone s q.id stPoisoned
    | some h =>
      let (s, w) := if acked then (s, []) else prepare s [h] .write none false
      if w ≠ [] then block s (.line q.id) ri off w got fs
      else
        let (s, res) := readLine s h fs got 0
        match res with
        | .poisoned => lineDone s q.id stPoisoned
        | .partner => awaitPartner (partnerReadReq s h) (.line q.id) ri off [h.line] got
        | .data d =>
          let old := (d.drop (off % 64)).take n
          let ws := lineWrites s ri off (leBytes n (atomicNew subop n (leNat old) pay))
          if !acked ∧ mirrorNeeded s r ws then mirrorWrite s (.line q.id) ri off r ws
          else lineGot (landAll s ws).1 q.id old

def lineAt (s : State) (q : LineReq) (ri : Nat) (r : Region) (off : Nat) (fs : List ReadFault) (got : List Nat)
    (acked : Bool) : State :=
  match q.kind with
  | .atom _ subop n operand compare => lineAtomic s q subop n (atomPayload subop n operand compare) ri r off fs got acked
  | _ => lineRead s q ri r off fs got

/-- An unaligned LDG or ATOM: its encoding is malformed, as R200 has it of a packet. DEDUCED (log entry 30). -/
def lineUnaligned (q : LineReq) : Bool :=
  match q.kind with
  | .ldg _ => q.offset % 8 != 0
  | .atom .. => q.offset % q.len != 0
  | _ => false

/-- What becomes of a page miss of a request (R98 to R100). -/
def lineMiss (s : State) (pr : Program) (q : LineReq) (off : Nat) : MissInfo :=
  ⟨false, pr.tenant, s.dev.nodeId, 3, q.prog / 16, q.region, 0, off, q.len, if lineKind q = .atomic then 2 else 0⟩

/-- A request at its home: the checks of R82, and the access. -/
def serveLine (s : State) (q : LineReq) (pr : Program) (fs : List ReadFault) : State :=
  if lineUnaligned q then lineDone s q.id stFormatUnsupported
  else
    match checkAcc s (lineAcc pr q) with
    | .fail st => lineDone (countDeny s st) q.id st
    | .miss off =>
      let m := lineMiss s pr q off
      let (s, r) := pageMiss s m true
      match r with
      | .done st => lineDone s q.id st
      | .park => park s true default q.id m fs
    | .pass r off => lineAt s q q.region r off fs [] false

/-- A request that waited goes on at its home. -/
def resumeLine (s : State) (id ri off : Nat) (got : List Nat) (fs : List ReadFault) (acked : Bool) : State :=
  match lineReq? s id, s.region? ri with
  | some q, some r => lineAt s q ri r off fs got acked
  | some _, none => lineDone s id stKeyMismatch
  | none, _ => s

/-- A parked request is tried again: its miss completes it, with its record on a port. -/
def retryLine (s : State) (p : Nat) (k : Parked) : State :=
  match lineReq? s k.lineId with
  | none => s
  | some q =>
    match prog? s q.prog with
    | none => s
    | some pr =>
      match checkAcc s (lineAcc pr q) with
      | .miss off => lineDone (missAgain s p k (lineMiss s pr q off)) k.lineId stTranslationFault
      | _ => serveLine s q pr k.faults

/-- A request is at its home already: it waits there, or is parked. -/
def lineWaits (s : State) (id : Nat) : Bool :=
  (s.coh.blocked.any fun b => b.who == .line id) || (s.partnerW.any fun b => b.who == .line id)
    || s.rgn.parked.any fun q => q.isLine && q.lineId == id

/-- LINE_REQUEST_RETURN (R290, R365): a request that has been issued is served, and its data or status return. -/
def execLineRequestReturn (id : Nat) (faults : List ReadFault) (s : State) := up s fun s =>
  match lineReq? s id with
  | none => s
  | some q =>
    match prog? s q.prog with
    | none => s
    | some pr =>
      if q.issued ∧ q.status = none ∧ q.lines ≠ 0 ∧ !lineWaits s id then serveLine s q pr faults else s

/-- One packet of a STORE, or a SIGNAL, has been resolved (R368). -/
def storeResolved (s : State) (id off : Nat) (st : Status) : State :=
  match lineReq? s id with
  | none => s
  | some q =>
    let worst := if st = stOk then q.worst else match q.worst with
      | some (o, w) => if o ≤ off then some (o, w) else some (off, st)
      | none => some (off, st)
    if q.acks > 1 then onReq s id fun q => { q with acks := q.acks - 1, worst := worst }
    else
      let s := dropReq s id
      match worst with
      | none => s
      | some (_, w) => memFailed s q w

end Sys2Proof.Machine
end

