-- ==== Sys2Proof/Machine/CruIns.lean ====
section
/-! DEFINITION. The Crucible instructions (R360 to R366): one command is one thread group's next instruction. -/

namespace Sys2Proof.Machine

/-! ### Issue (R285, R329, R354, R369) -/

/-- A group about to issue an instruction. -/
structure Ctx where
  (p g : Nat)
  pr : Program
  gr : Group
  i  : Ins
  deriving DecidableEq, Repr, Inhabited

/-- Scalar registers that an instruction reads (R360): D too where it keeps half of it (LI), compares with it (CAS) or
takes its value or its counter from it (STORE, SIGNAL). -/
def insT (i : Ins) : List Nat :=
  let op := i.op
  if 0x01 ≤ op ∧ op ≤ 0x0B then if i.f = 0 then [i.a, i.b] else [i.a]
  else if op = 0x0C then if i.f = 1 then [i.d] else []
  else if op = 0x0E then [i.a, i.b]
  else if op = 0x19 ∨ op = 0x1A ∨ op = 0x38 ∨ op = 0x40 ∨ op = 0x48 then [i.a]
  else if op = 0x1B then if i.f = 0 then [i.a] else []
  else if op = 0x20 ∨ op = 0x23 ∨ op = 0x28 then [i.a]
  else if op = 0x21 ∨ op = 0x3A then [i.a, i.b]
  else if op = 0x22 then [i.a, i.c]
  else if op = 0x24 then if i.f = 5 then [i.d, i.a, i.c] else [i.a, i.c]
  else if op = 0x25 then if i.f = 1 then [i.d, i.a, i.c] else [i.a, i.c]
  else if op = 0x26 then if i.f = 1 then [i.d, i.a, i.c] else [i.d, i.a]
  else if op = 0x35 ∨ op = 0x36 ∨ op = 0x4A then [i.b]
  else if op = 0x41 then [i.b]
  else if op = 0x4C then [i.a, i.b, i.c]
  else []

/-- Vector registers that an instruction reads: D too where it keeps lanes of it (AREAD, a narrowing VCVT). -/
def insV (i : Ins) : List Nat :=
  let op := i.op
  if op = 0x33 ∨ op = 0x41 ∨ op = 0x4A then [i.a]
  else if op = 0x34 then [i.d]
  else if op = 0x49 then if fmtBits (i.uimm % 16) < fmtBits i.f then [i.d, i.a] else [i.a]
  else if 0x42 ≤ op ∧ op ≤ 0x47 then if op = 0x45 then [i.a, i.b, i.c] else [i.a, i.b]
  else []

/-- Accumulators that an instruction reads: the first and their number. -/
def insA (i : Ins) : Option (Nat × Nat) := if i.op = 0x34 ∨ i.op = 0x35 then some (i.a, i.uimm) else none

/-- A register waits for the result of a memory request. -/
def regPending (s : State) (p g : Nat) (l : List Nat) : Bool :=
  s.cru.reqs.any fun q => q.prog == p && q.grp == g && (match q.kind with
    | .ldg r => r != 0 && l.contains r
    | .atom r _ _ _ _ => r != 0 && l.contains r
    | _ => false)

/-- What an instruction itself waits for: a FENCE for every earlier request of the group to have its final status (R127,
R130), a POOL.CLOSE for every GATHER into its slot (R360), an MMA for an array that does not idle (R327). -/
def opWaits (s : State) (c : Ctx) : Bool :=
  if c.i.op = 0x27 then s.cru.reqs.any fun q => q.prog == c.p && q.grp == c.g && q.status.isNone
  else if c.i.op = 0x31 then slotPending s c.p c.g c.i.a
  else c.i.op == 0x3A && (engineOf s (c.p / 16)).duty == 0

/-- An instruction waits until its source registers hold their results, and until every request of the one before has
been issued (R285, R290). It does not wait for a register that it writes (log entry 190). -/
def insWaits (s : State) (c : Ctx) : Bool :=
  regPending s c.p c.g (insT c.i)
    || (insV c.i).any (fun r => targetBusy s c.p c.g c.gr false r 1)
    || (match insA c.i with
        | some (r, n) => targetBusy s c.p c.g c.gr true r n
        | none => false)
    || (s.cru.reqs.any fun q => q.prog == c.p && q.grp == c.g && !q.issued) || opWaits s c

/-- Takes a run-time fault of the instruction being issued (R369, R371). -/
def cruFault (s : State) (c : Ctx) (reason : Byte) (thread handle offset : Nat) : State :=
  faultProg s c.p ⟨reason, c.gr.pc, c.g, thread, 0, handle, offset⟩

/-- The group may issue: its program runs, its engine is not paused, and it neither has ended nor waits in MBOX. -/
def mayRun (s : State) (id : GroupId) (pr : Program) : Bool :=
  let gr := cruGroup pr id.grp
  pr.state == .running && engineUp s (id.prog.toNat / 16) && !paused s (id.prog.toNat / 16)
    && decide (id.grp.val < pr.groupsN) && !gr.ended && gr.mboxWait.isNone

/-! ### The pipes (R285) -/

/-- The pipe of an instruction: 0 MEMORY, 1 POOL, 2 ARRAY, 3 VECTOR, 4 SCALAR. -/
def pipeOf (op : Nat) : Nat :=
  if 0x20 ≤ op ∧ op ≤ 0x2F then 0 else if 0x30 ≤ op ∧ op ≤ 0x37 then 1 else if 0x38 ≤ op ∧ op ≤ 0x3F then 2
  else if 0x40 ≤ op ∧ op ≤ 0x4F then 3 else 4

/-- The thread group of the engine that is group `g` of a program (R346). -/
def engGroup (pr : Program) (g : Nat) : Nat := pr.groupSlots.getD g g

/-- What a group that may run would issue next. -/
def nextIns (s : State) (p : Nat) (pr : Program) (g : Nat) : Option Ctx :=
  if mayRun s ⟨BitVec.ofNat 8 p, Fin.ofNat 16 g⟩ pr then
    let gr := cruGroup pr g
    (pr.code[gr.pc]?).map fun w => ⟨p, g, pr, gr, Ins.of w⟩
  else none

/-- A group has an instruction ready for a pipe. -/
def readyFor (s : State) (pipe p : Nat) (pr : Program) (g : Nat) : Bool :=
  match nextIns s p pr g with
  | some c => pipeOf c.i.op == pipe && !insWaits s c
  | none => false

/-- The thread groups of an engine that are ready for a pipe. An MMA issues in its own program's array slots (R323), so
only the groups of one program take turns at the array. -/
def readyGroups (s : State) (c : Ctx) : List Nat :=
  (s.cru.progs.filter fun x => decide (x.1 / 16 = c.p / 16) && (pipeOf c.i.op != 2 || x.1 == c.p)).flatMap fun x =>
    ((List.range x.2.groupsN).filter fun g => readyFor s (pipeOf c.i.op) x.1 x.2 g).map (engGroup x.2)

/-- The round-robin order of group index, from the group after the one that the pipe served last. -/
def pipeOrder (s : State) (c : Ctx) : List Nat :=
  let last := (engineOf s (c.p / 16)).last.getD (pipeOf c.i.op) 15
  (List.range 16).map fun k => (last + 1 + k) % 16

/-- It is the group's turn in its pipe. -/
def pipeTurn (s : State) (c : Ctx) : Bool :=
  match (pipeOrder s c).find? fun x => (readyGroups s c).contains x with
  | some x => x == engGroup c.pr c.g
  | none => true

/-- The pipe has served the group. -/
def served (s : State) (c : Ctx) : State :=
  onEngine s (c.p / 16) fun e => { e with last := e.last.set (pipeOf c.i.op) (engGroup c.pr c.g) }

/-- Issues the next instruction of a group, if it is the one named, it waits for nothing and it is the group's turn. -/
def issue (s : State) (id : GroupId) (op : Nat) (k : Ctx → State → State) : State :=
  let p := id.prog.toNat
  match prog? s p with
  | none => s
  | some pr =>
    let gr := cruGroup pr id.grp
    if !mayRun s id pr then s
    else
      match pr.code[gr.pc]? with
      | none => faultProg s p ⟨7, gr.pc, id.grp, 255, 0, 255, 0⟩
      | some w =>
        let c : Ctx := ⟨p, id.grp, pr, gr, Ins.of w⟩
        if c.i.op = op ∧ !insWaits s c ∧ pipeTurn s c then k c (served s c) else s

def onGr (s : State) (c : Ctx) (f : Group → Group) : State := onGroup s c.p c.g f

/-- Goes on to the next instruction. -/
def nextPc (s : State) (c : Ctx) : State := onGr s c fun g => { g with pc := c.gr.pc + 1 }

def jumpTo (s : State) (c : Ctx) (taken : Bool) : State :=
  onGr s c fun g => { g with pc := if taken then c.i.uimm else c.gr.pc + 1 }

/-- The register that a request of some thread of a group was to write has been written since, in program order: what
returns goes nowhere (log entry 190). -/
def supersede (s : State) (p g r : Nat) (ths : List Nat) : State :=
  s.onCru fun c => { c with reqs := c.reqs.map fun q =>
    if q.prog = p ∧ q.grp = g ∧ ths.contains q.thread then
      match q.kind with
      | .ldg d => if d = r then { q with kind := .ldg 0 } else q
      | .atom d subop n x y => if d = r then { q with kind := .atom 0 subop n x y } else q
      | _ => q
    else q }

/-- tD of every active thread. -/
def setAll (s : State) (c : Ctx) (f : Nat → BitVec 64) : State :=
  onGr (supersede s c.p c.g c.i.d (activeThreads c.gr)) c fun g =>
    (activeThreads c.gr).foldl (fun g th => setT g th c.i.d (f th)) g

def tA (c : Ctx) (th : Nat) : BitVec 64 := getT c.gr th c.i.a
def tB (c : Ctx) (th : Nat) : BitVec 64 := getT c.gr th c.i.b
def tC (c : Ctx) (th : Nat) : BitVec 64 := getT c.gr th c.i.c
def tD (c : Ctx) (th : Nat) : BitVec 64 := getT c.gr th c.i.d

/-! ### Scalar arithmetic -/

/-- The second operand of rows 0x01 to 0x0B. -/
def op2 (c : Ctx) (th : Nat) : BitVec 64 := if c.i.f = 1 then c.i.sext else tB c th

def scalar (f : BitVec 64 → BitVec 64 → BitVec 64) (c : Ctx) (s : State) : State :=
  nextPc (setAll s c fun th => f (tA c th) (op2 c th)) c

def shiftCount (v : BitVec 64) : Nat := v.toNat % 64

def execAdd (g : GroupId) (s : State) := up s fun s => issue s g 0x01 (scalar (· + ·))
def execSub (g : GroupId) (s : State) := up s fun s => issue s g 0x02 (scalar (· - ·))
def execMul (g : GroupId) (s : State) := up s fun s => issue s g 0x03 (scalar (· * ·))
def execAnd (g : GroupId) (s : State) := up s fun s => issue s g 0x04 (scalar (· &&& ·))
def execOr (g : GroupId) (s : State) := up s fun s => issue s g 0x05 (scalar (· ||| ·))
def execXor (g : GroupId) (s : State) := up s fun s => issue s g 0x06 (scalar (· ^^^ ·))
def execShl (g : GroupId) (s : State) := up s fun s => issue s g 0x07 (scalar fun x y => x <<< shiftCount y)
def execShr (g : GroupId) (s : State) := up s fun s => issue s g 0x08 (scalar fun x y => x >>> shiftCount y)
def execSar (g : GroupId) (s : State) := up s fun s => issue s g 0x09 (scalar fun x y => x.sshiftRight (shiftCount y))
def execMin (g : GroupId) (s : State) := up s fun s => issue s g 0x0A (scalar fun x y => if x.slt y then x else y)
def execMax (g : GroupId) (s : State) := up s fun s => issue s g 0x0B (scalar fun x y => if x.slt y then y else x)

def doLi (c : Ctx) (s : State) : State :=
  nextPc (setAll s c fun th =>
    if c.i.f = 0 then c.i.sext else (c.i.imm.setWidth 64 <<< 32) ||| ((tD c th).setWidth 32).setWidth 64) c

/-- LI. -/
def execLi (g : GroupId) (s : State) := up s fun s => issue s g 0x0C doLi

/-- The system values of R361. -/
def sysValue (s : State) (c : Ctx) (th : Nat) : BitVec 64 :=
  match c.i.uimm with
  | 0 => BitVec.ofNat 64 th
  | 1 => BitVec.ofNat 64 c.g
  | 2 => BitVec.ofNat 64 c.pr.groupsN
  | 3 => BitVec.ofNat 64 (c.p / 16)
  | 4 => BitVec.ofNat 64 c.p
  | 5 => BitVec.ofNat 64 s.now
  | 6 => c.pr.tenant.setWidth 64
  | 7 => BitVec.ofNat 64 (c.gr.fail.toNat + 256 * c.gr.failN)
  | n => c.pr.args.getD (n - 8) 0

def doSread (c : Ctx) (s : State) : State :=
  let s := setAll s c (sysValue s c)
  let s := if c.i.uimm = 7 ∧ activeThreads c.gr ≠ [] then onGr s c fun g => { g with fail := 0, failN := 0 } else s
  nextPc s c

/-- SREAD (R361). -/
def execSread (g : GroupId) (s : State) := up s fun s => issue s g 0x0D doSread

def cond (f : Nat) (x y : BitVec 64) : Bool :=
  match f with
  | 0 => x == y
  | 1 => x != y
  | 2 => x.slt y
  | 3 => !x.slt y
  | 4 => x.ult y
  | _ => !x.ult y

def execCmp (g : GroupId) (s : State) := up s fun s => issue s g 0x0E fun c s =>
  nextPc (setAll s c fun th => if cond c.i.f (tA c th) (tB c th) then 1 else 0) c

/-! ### Control flow -/

def execJmp (g : GroupId) (s : State) := up s fun s => issue s g 0x18 fun c s => jumpTo s c true
def execBany (g : GroupId) (s : State) := up s fun s => issue s g 0x19 fun c s =>
  jumpTo s c ((activeThreads c.gr).any fun th => tA c th != 0)
def execBall (g : GroupId) (s : State) := up s fun s => issue s g 0x1A fun c s =>
  jumpTo s c ((activeThreads c.gr).all fun th => tA c th != 0)

/-- The threads, as a mask, that hold a condition. -/
def maskOf (f : Nat → Bool) : BitVec 32 :=
  BitVec.ofNat 32 ((List.range 32).foldl (fun n th => if f th then n + 2 ^ th else n) 0)

def execAct (g : GroupId) (s : State) := up s fun s => issue s g 0x1B fun c s =>
  nextPc (onGr s c fun gr => { gr with
    mask := if c.i.f = 0 then c.gr.mask &&& maskOf fun th => tA c th != 0 else c.i.imm }) c
def execMsave (g : GroupId) (s : State) := up s fun s => issue s g 0x1C fun c s =>
  nextPc (onGr s c fun gr => setM gr c.i.d (c.gr.mask.setWidth 64)) c
def execMrest (g : GroupId) (s : State) := up s fun s => issue s g 0x1D fun c s =>
  nextPc (onGr s c fun gr => { gr with mask := (getM c.gr c.i.a).setWidth 32 }) c

/-- Every group has executed END. -/
def allEnded (pr : Program) : Bool := (List.range pr.groupsN).all fun g => (cruGroup pr g).ended

def doEnd (c : Ctx) (s : State) : State :=
  let s := onGr s c fun gr => { gr with ended := true }
  match prog? s c.p with
  | some pr => if allEnded pr then endProg s c.p stOk none else s
  | none => s

/-- END (R354). -/
def execEndGroup (g : GroupId) (s : State) := up s fun s => issue s g 0x1E doEnd

/-! ### Scratch and memory (R360, R362, R368) -/

/-- Address tA + IMM of a thread. -/
def addrA (c : Ctx) (th : Nat) : Nat := (tA c th + c.i.sext).toNat

/-- The first active thread whose scratch access is bad. -/
def scratchFault (c : Ctx) (addr : Nat → Nat) (n al : Nat) : Option Nat :=
  (activeThreads c.gr).find? fun th => !(scratchOk c.pr (addr th) n && addr th % al == 0)

def execLds (g : GroupId) (s : State) := up s fun s => issue s g 0x20 fun c s =>
  match scratchFault c (addrA c) 8 8 with
  | some th => cruFault s c 3 th 255 (addrA c th)
  | none => nextPc (setAll s c fun th => BitVec.ofNat 64 (leNat (scratchRead s c.p c.pr (addrA c th) 8))) c

def execSts (g : GroupId) (s : State) := up s fun s => issue s g 0x21 fun c s =>
  match scratchFault c (addrA c) 8 1 with
  | some th => cruFault s c 3 th 255 (addrA c th)
  | none => nextPc ((activeThreads c.gr).foldl (fun s th =>
      scratchWrite s c.p c.pr (addrA c th) (leBytes 8 (tB c th).toNat)) s) c

/-- The handle of an instruction is beyond the table, or names another node where it must not (R369). -/
def handleBad (s : State) (c : Ctx) (here : Bool) : Bool :=
  decide (c.i.b ≥ c.pr.handles.length) || (here && handleNode (handleOf c.pr c.i.b) != s.dev.nodeId)

/-- The lowest active thread. -/
def leadThread (c : Ctx) : Nat := (activeThreads c.gr).headD 255

def newReq (c : Ctx) (th off len : Nat) (kind : ReqKind) : LineReq :=
  { (default : LineReq) with
    prog := c.p, grp := c.g, thread := th, seq := c.gr.nextSeq, pc := c.gr.pc, handle := c.i.b, kind := kind
    region := handleRegion (handleOf c.pr c.i.b), offset := off, len := len, lines := (len + 63) / 64 }

/-- Adds one request for each active thread, and issues those that may be issued. -/
def requestAll (s : State) (c : Ctx) (mk : Nat → LineReq) : State :=
  let s := (activeThreads c.gr).foldl (fun s th => addReq s (mk th)) s
  nextPc (pumpLines (onGr s c fun g => { g with nextSeq := c.gr.nextSeq + 1 }) (c.p / 16)) c

def rowSize (c : Ctx) : Nat := c.i.uimm % 65536
def rawMode (c : Ctx) : Bool := bitOf c.i.uimm 31

/-- A row breaks R363 in the slot that a GATHER names, or the slot is not open. -/
def gatherBad (c : Ctx) : Bool :=
  match c.gr.slots.get? c.i.d with
  | none => true
  | some sl => decide ((isMx c.i.f ∧ sl.n % 32 ≠ 0) ∨ rowBytes c.i.f sl.n > rowSize c ∨ (!sl.exact ∧ c.i.f > 8))

def doGather (c : Ctx) (s : State) : State :=
  let off := fun th => (tA c th).toNat * rowSize c
  if activeThreads c.gr = [] then nextPc s c
  else if handleBad s c true then cruFault s c 2 (leadThread c) c.i.b (off (leadThread c))
  else if rawMode c then
    match scratchFault c (fun th => (tC c th).toNat) (rowSize c) 64 with
    | some th => cruFault s c 3 th 255 (tC c th).toNat
    | none => requestAll s c fun th => { newReq c th (off th) (rowSize c) .raw with scr := (tC c th).toNat }
  else if gatherBad c then cruFault s c 4 (leadThread c) c.i.b (off (leadThread c))
  else requestAll s c fun th => newReq c th (off th) (rowSize c) (.pool c.i.d c.i.f ((tC c th).setWidth 32))

/-- GATHER (R362). -/
def execGather (g : GroupId) (s : State) := up s fun s => issue s g 0x22 doGather

def doLdg (c : Ctx) (s : State) : State :=
  if activeThreads c.gr = [] then nextPc s c
  else if handleBad s c true then cruFault s c 2 (leadThread c) c.i.b (tA c (leadThread c)).toNat
  else requestAll (supersede s c.p c.g c.i.d (activeThreads c.gr)) c fun th =>
    { newReq c th (tA c th).toNat 8 (.ldg c.i.d) with lines := 1 }

/-- LDG. -/
def execLdg (g : GroupId) (s : State) := up s fun s => issue s g 0x23 doLdg

def doAtom (c : Ctx) (s : State) : State :=
  if activeThreads c.gr = [] then nextPc s c
  else if handleBad s c true then cruFault s c 2 (leadThread c) c.i.b (tA c (leadThread c)).toNat
  else requestAll (supersede s c.p c.g c.i.d (activeThreads c.gr)) c fun th =>
    { newReq c th (tA c th).toNat c.i.uimm (.atom c.i.d c.i.f c.i.uimm (tC c th) (tD c th)) with lines := 1 }

/-- ATOM. -/
def execAtom (g : GroupId) (s : State) := up s fun s => issue s g 0x24 doAtom

/-- The packets of a STORE (R368): offset and bytes, cut at 2 KiB boundaries of the destination offset. -/
def storeCuts (off : Nat) (bs : List Byte) : List (Nat × List Byte) :=
  let n := bs.length
  (List.range ((off + n - 1) / 2048 - off / 2048 + 1)).map fun i =>
    let lo := Nat.max off ((off / 2048 + i) * 2048)
    let hi := Nat.min (off + n) ((off / 2048 + i + 1) * 2048)
    (lo, (bs.drop (lo - off)).take (hi - lo))

/-- The TAG of a packet that tags a counter. -/
def cruCounterTag (on : Bool) (v : BitVec 64) : BitVec 32 := if on then 0x80000000#32 ||| (v.setWidth 16).setWidth 32 else 0

/-- A region index that no request at this switch names: STOREs and SIGNALs are packets. -/
def noRegion : Nat := 2 ^ 20

/-- Sends the packets of one thread's STORE or SIGNAL (R288, R348, R368): TENANT is the program's tag, STREAM its
ID. An offset that no packet can carry fails. -/
def sendAll (s : State) (c : Ctx) (th : Nat) (kind : ReqKind) (op : Byte) (flags : Byte) (tag : BitVec 32) (off : Nat)
    (bs : List Byte) : State :=
  let q := { newReq c th off bs.length kind with lines := 0, region := noRegion, issued := true }
  if off + bs.length > 2 ^ 48 then memFailed s q stOutOfRange
  else
    let cuts := storeCuts off bs
    let id := s.cru.nextReq
    let h := handleOf c.pr c.i.b
    let s := addReq s { q with acks := cuts.length }
    cuts.foldl (fun s x =>
      submit s (Fin.ofNat 4 (c.p / 64)) (.program c.p c.g id)
        (request s op (handleNode h) c.pr.tenant (handleKey h) (handleRegion h) x.1 x.2.length c.p flags tag x.2)) s

def doStore (c : Ctx) (s : State) : State :=
  if activeThreads c.gr = [] then nextPc s c
  else if handleBad s c false then cruFault s c 2 (leadThread c) c.i.b (tA c (leadThread c)).toNat
  else
    match scratchFault c (fun th => (tC c th).toNat) c.i.uimm 1 with
    | some th => cruFault s c 3 th 255 (tC c th).toNat
    | none =>
      let s := nextPc (onGr s c fun g => { g with nextSeq := c.gr.nextSeq + 1 }) c
      (activeThreads c.gr).foldl (fun s th =>
        sendAll s c th .store opSTORE 0 (cruCounterTag (c.i.f == 1) (tD c th)) (tA c th).toNat
          (scratchRead s c.p c.pr (tC c th).toNat c.i.uimm)) s

/-- STORE (R368). -/
def execCrucibleStore (g : GroupId) (s : State) := up s fun s => issue s g 0x25 doStore

def doSignal (c : Ctx) (s : State) : State :=
  if activeThreads c.gr = [] then nextPc s c
  else if handleBad s c false then cruFault s c 2 (leadThread c) c.i.b (tA c (leadThread c)).toNat
  else
    let s := nextPc (onGr s c fun g => { g with nextSeq := c.gr.nextSeq + 1 }) c
    (activeThreads c.gr).foldl (fun s th =>
      if (tA c th).toNat % 8 ≠ 0 then memFailed s (newReq c th (tA c th).toNat 8 .signal) stFormatUnsupported
      else sendAll s c th .signal opWRITE 1 (cruCounterTag (c.i.f == 1) (tC c th)) (tA c th).toNat
        (leBytes 8 (tD c th).toNat)) s

/-- SIGNAL (R137, R140). -/
def execSignal (g : GroupId) (s : State) := up s fun s => issue s g 0x26 doSignal

/-- FENCE (R127, R130): it completes once every earlier request of the group has its final status. -/
def execCrucibleFence (g : GroupId) (s : State) := up s fun s => issue s g 0x27 fun c s => nextPc s c

/-- CREAD (R133, R369). -/
def execCread (g : GroupId) (s : State) := up s fun s => issue s g 0x28 fun c s =>
  let ctr := fun th => (tA c th).toNat % 65536
  match (activeThreads c.gr).find? fun th => !counterHeld s c.pr.tenant (ctr th) with
  | some th => cruFault s c 6 th 255 0
  | none => nextPc (setAll s c fun th => counterValue s (ctr th)) c

/-- Hands the oldest mailbox value to a group that is in MBOX. -/
def mboxTake (s : State) (p g d : Nat) (v : BitVec 64) : State :=
  let ths := match prog? s p with
    | some pr => activeThreads (cruGroup pr g)
    | none => []
  onGroup (supersede s p g d ths) p g fun gr =>
    let gr := { gr with mboxWait := none, pc := gr.pc + 1 }
    (activeThreads gr).foldl (fun gr th => setT gr th d v) gr

/-- Mailbox values go to the waiting groups, in the order in which they issued MBOX (R353). -/
def mboxDeliver : Nat → State → Nat → State
  | 0, s, _ => s
  | n + 1, s, p =>
    match prog? s p with
    | none => s
    | some pr =>
      match pr.mailbox, pr.mboxQ with
      | v :: vs, g :: gs =>
        let s := onProg s p fun pr => { pr with mailbox := vs, mboxQ := gs }
        mboxDeliver n (mboxTake s p g ((cruGroup pr g).mboxWait.getD 0) v) p
      | _, _ => s

/-- MBOX (R353). -/
def execMbox (g : GroupId) (s : State) := up s fun s => issue s g 0x29 fun c s =>
  let s := onGr s c fun gr => { gr with mboxWait := some c.i.d }
  mboxDeliver 1 (onProg s c.p fun pr => { pr with mboxQ := pr.mboxQ ++ [c.g] }) c.p

/-! ### Pool slots (R363) -/

def poolSlotOf (i : Ins) : PoolSlot := ⟨i.f == 1, i.d, i.uimm % 65536, bitOf i.uimm 16⟩

/-- Clears a target: FP32 elements to +0, accumulators to 0 with their flags. -/
def clearTarget (s : State) (c : Ctx) (sl : PoolSlot) : State :=
  if sl.exact then onProg s c.p fun pr => { pr with
    accs := (List.range sl.n).foldl (fun a i => a.set (sl.target + i) default) pr.accs }
  else onGr s c fun gr => (List.range (slotSpan sl)).foldl (fun gr k =>
    setV gr (sl.target + k) (vOf 32 ((vLanes 32 (getV gr (sl.target + k))).mapIdx fun i v =>
      if 64 * k + i < sl.n then 0 else v))) gr

/-- A target overlaps that of an open slot: of this group, or, among accumulators, of any group of the program. -/
def targetTaken (c : Ctx) (sl : PoolSlot) : Bool :=
  (c.gr.slots.any fun e => slotsMeet e.2 sl) ||
    (sl.exact && (List.range c.pr.groupsN).any fun g => g != c.g && (cruGroup c.pr g).slots.any fun e => slotsMeet e.2 sl)

def execPoolOpen (g : GroupId) (s : State) := up s fun s => issue s g 0x30 fun c s =>
  let sl := poolSlotOf c.i
  if c.gr.slots.has c.i.a || targetTaken c sl then cruFault s c 4 255 255 0
  else nextPc (onGr (clearTarget s c sl) c fun gr => { gr with slots := gr.slots.set c.i.a sl }) c

def execPoolClose (g : GroupId) (s : State) := up s fun s => issue s g 0x31 fun c s =>
  nextPc (onGr s c fun gr => { gr with slots := gr.slots.erase c.i.a }) c

/-! ### Accumulators (R305 to R309) -/

def onAccs (s : State) (c : Ctx) (f : Nat → Accum → Accum) : State :=
  onProg s c.p fun pr => { pr with accs := (List.range c.i.uimm).foldl (fun a i =>
    a.set (c.i.d + i) (f i (a.getD (c.i.d + i) default))) pr.accs }

def execAclr (g : GroupId) (s : State) := up s fun s => issue s g 0x32 fun c s =>
  nextPc (onAccs s c fun _ _ => default) c

def execAadd (g : GroupId) (s : State) := up s fun s => issue s g 0x33 fun c s =>
  let l := vLanes (fmtBits c.i.f) (getV c.gr c.i.a)
  nextPc (onAccs s c fun i a => a.addNum (decodeElem c.i.f (l.getD i 0))) c

def execAread (g : GroupId) (s : State) := up s fun s => issue s g 0x34 fun c s =>
  let w := fmtBits c.i.f
  nextPc (onGr s c fun gr => setV gr c.i.d (vOf w ((vLanes w (getV c.gr c.i.d)).mapIdx fun i v =>
    if i < c.i.uimm then (accOf c.pr (c.i.a + i)).readOut c.i.f else v))) c

/-- A uniform scratch access out of bounds: the fault is of the group (R371). -/
def uniFault (s : State) (c : Ctx) (addr : Nat) : State := cruFault s c 3 255 255 addr

def execAsave (g : GroupId) (s : State) := up s fun s => issue s g 0x35 fun c s =>
  let a := (uni c.gr c.i.b).toNat
  if !scratchOk c.pr a (48 * c.i.uimm) then uniFault s c a
  else nextPc (scratchWrite s c.p c.pr a ((List.range c.i.uimm).flatMap fun i => (accOf c.pr (c.i.a + i)).image)) c

def execAimg (g : GroupId) (s : State) := up s fun s => issue s g 0x36 fun c s =>
  let a := (uni c.gr c.i.b).toNat
  if !scratchOk c.pr a (48 * c.i.uimm) then uniFault s c a
  else
    let bs := scratchRead s c.p c.pr a (48 * c.i.uimm)
    nextPc (onAccs s c fun i x => x.addImage (Accum.ofImage ((bs.drop (48 * i)).take 48))) c

/-! ### The array (R301 to R304, R364) -/

/-- Inputs of a vector of a format. -/
def vecInputs (f : Nat) : Nat := if f = 0 then 256 else 128

/-- Bytes of a vector, and the stride of consecutive vectors. -/
def vecSize (f : Nat) : Nat := rowBytes f (vecInputs f)
def vecStride (f : Nat) : Nat := (vecSize f + 7) / 8 * 8

/-- Bytes that `n` vectors take. -/
def vecsSize (f n : Nat) : Nat := (n - 1) * vecStride f + vecSize f

/-- The tile's 128 rows lie as 128 consecutive vectors do. PRESUMED (log entry 31): the manual gives no layout of
its own for a tile. -/
def execWload (g : GroupId) (s : State) := up s fun s => issue s g 0x38 fun c s =>
  let a := (uni c.gr c.i.a).toNat
  if !scratchOk c.pr a (vecsSize c.i.f 128) then uniFault s c a
  else
    let t : Tile := ⟨c.i.f, scratchRead s c.p c.pr a (vecsSize c.i.f 128)⟩
    nextPc (onProg s c.p fun pr => { pr with shadow := some t }) c

/-- WSWAP: the tiles change places. -/
def execWswap (g : GroupId) (s : State) := up s fun s => issue s g 0x39 fun c s =>
  nextPc (onProg s c.p fun pr => { pr with live := pr.shadow, shadow := pr.live }) c

/-- Pairs of leaves summed and rounded, until one is left (R303). -/
def pairSums : List Num → List Num
  | x :: y :: t => round32 (Num.add x y) :: pairSums t
  | l => l

def treeSum : Nat → List Num → Num
  | 0, l => l.headD .zero
  | n + 1, l => if l.length ≤ 1 then l.headD .zero else treeSum n (pairSums l)

/-- The exact sum of products of a block. -/
def exactSum : List Num → Num
  | [] => .zero
  | x :: t => t.foldl Num.add x

/-- The leaves of one output: of MX formats one a block of 32, else one a product. -/
def leaves (f : Nat) (w a : List Byte) : List Num :=
  let n := vecInputs f
  let el := fun (bs : List Byte) (i : Nat) => decodeElem f (packedElem (fmtBits f) bs i)
  if isMx f then
    let sc := fun (bs : List Byte) (b : Nat) => (bs.getD (fmtBits f * n / 8 + b) 0).toNat
    (List.range (n / 32)).map fun b =>
      if sc w b = 255 ∨ sc a b = 255 then .nan
      else round32 ((exactSum ((List.range 32).map fun i => Num.mul (el w (32 * b + i)) (el a (32 * b + i)))).scale
        ((sc w b : Int) + sc a b - 254))
  else (List.range n).map fun i =>
    let x := Num.mul (el w i) (el a i)
    if f = 8 then round32 x else x

/-- One output of one vector, added into C (R303). -/
def mmaOut (f : Nat) (w a : List Byte) (cIn : Num) : Nat :=
  encode 8 (Num.add cIn (treeSum 8 (leaves f w a))) .rne

def tileRow (t : Tile) (j : Nat) : List Byte := (t.data.drop (j * vecStride t.fmt)).take (vecSize t.fmt)

/-- One vector of an MMA. -/
def mmaVector (s : State) (c : Ctx) (t : Tile) (src dst : Nat) (acc : Bool) : State :=
  let a := scratchRead s c.p c.pr src (vecSize t.fmt)
  let old := scratchRead s c.p c.pr dst 512
  scratchWrite s c.p c.pr dst ((List.range 128).flatMap fun j =>
    leBytes 4 (mmaOut t.fmt (tileRow t j) a (if acc then decodeElem 8 (fieldAt old (4 * j) 4) else .zero)))

/-- Steps in which the array multiplies for one vector (R301). -/
def vecSteps (f : Nat) : Nat := if f = 8 then 4 else 1

def doMma (c : Ctx) (s : State) : State :=
  let n := c.i.uimm % 65536
  let a := (uni c.gr c.i.a).toNat
  let b := (uni c.gr c.i.b).toNat
  match c.pr.live with
  | none => cruFault s c 5 255 255 0
  | some t =>
    if t.fmt ≠ c.i.f then cruFault s c 5 255 255 0
    else if !scratchOk c.pr a (vecsSize c.i.f n) then uniFault s c a
    else if !scratchOk c.pr b (512 * n) then uniFault s c b
    else
      let s := (List.range n).foldl (fun s k =>
        mmaVector s c t (a + k * vecStride c.i.f) (b + 512 * k) (bitOf c.i.uimm 16)) s
      nextPc (onEngine s (c.p / 16) fun e => { e with busy := (e.busy + n * vecSteps c.i.f) % 2 ^ 64 }) c

/-- MMA (R364). While ARRAY_DUTY is 0 the array idles (R327). -/
def execMma (g : GroupId) (s : State) := up s fun s => issue s g 0x3A doMma

/-! ### Vectors (R360, R366) -/

def uniAddr (c : Ctx) (r : Nat) : Nat := (uni c.gr r + c.i.sext).toNat

def execVld (g : GroupId) (s : State) := up s fun s => issue s g 0x40 fun c s =>
  let a := uniAddr c c.i.a
  if !scratchOk c.pr a 256 then uniFault s c a
  else nextPc (onGr s c fun gr => setV gr c.i.d (BitVec.ofNat 2048 (leNat (scratchRead s c.p c.pr a 256)))) c

def execVst (g : GroupId) (s : State) := up s fun s => issue s g 0x41 fun c s =>
  let a := uniAddr c c.i.b
  if !scratchOk c.pr a 256 then uniFault s c a
  else nextPc (scratchWrite s c.p c.pr a (leBytes 256 (getV c.gr c.i.a).toNat)) c

/-- A lane-wise operation on vA and vB. -/
def lanewise (f : Nat → Nat → Nat → Nat) (c : Ctx) (s : State) : State :=
  let w := fmtBits c.i.f
  nextPc (onGr s c fun gr => setV gr c.i.d (vOf w
    (List.zipWith (f c.i.f) (vLanes w (getV c.gr c.i.a)) (vLanes w (getV c.gr c.i.b))))) c

/-- An operation of two lanes: on integers it wraps, on floats it rounds once (R314, R315, R317). -/
def laneOp (fi : Int → Int → Int) (ff : Num → Num → Num) (f x y : Nat) : Nat :=
  if f = 9 then wrapInt 32 (fi (signedOf 32 x) (signedOf 32 y))
  else encode f (ff (decodeElem f x) (decodeElem f y)) .rne

def execVadd (g : GroupId) (s : State) := up s fun s => issue s g 0x42 (lanewise (laneOp (· + ·) Num.add))
def execVsub (g : GroupId) (s : State) := up s fun s =>
  issue s g 0x43 (lanewise (laneOp (· - ·) fun x y => Num.add x y.neg))
def execVmul (g : GroupId) (s : State) := up s fun s => issue s g 0x44 (lanewise (laneOp (· * ·) Num.mul))
def execVmax (g : GroupId) (s : State) := up s fun s => issue s g 0x46 (lanewise (laneOp max Num.maxN))
def execVmin (g : GroupId) (s : State) := up s fun s => issue s g 0x47 (lanewise (laneOp min Num.minN))

def execVfma (g : GroupId) (s : State) := up s fun s => issue s g 0x45 fun c s =>
  let w := fmtBits c.i.f
  let ab := List.zip (vLanes w (getV c.gr c.i.a)) (vLanes w (getV c.gr c.i.b))
  nextPc (onGr s c fun gr => setV gr c.i.d (vOf w (List.zipWith (fun x z =>
    encode c.i.f (Num.add (Num.mul (decodeElem c.i.f x.1) (decodeElem c.i.f x.2)) (decodeElem c.i.f z)) .rne)
    ab (vLanes w (getV c.gr c.i.c))))) c

def execVbcast (g : GroupId) (s : State) := up s fun s => issue s g 0x48 fun c s =>
  let w := fmtBits c.i.f
  nextPc (onGr s c fun gr => setV gr c.i.d (vOf w (List.replicate (2048 / w) ((uni c.gr c.i.a).toNat % 2 ^ w)))) c

/-- The rounding of element `i` of a conversion, and the counter after `n` elements (R320). -/
def roundOf (sr : Bool) (gr : Group) (n : Nat) : Nat → Round :=
  if sr then let l := randomHalves gr.seed gr.stream gr.counter n; fun i => .sr (l.getD i 0) else fun _ => .rne

def drawn (s : State) (c : Ctx) (sr : Bool) (n : Nat) : State :=
  if sr then onGr s c fun gr => { gr with counter := c.gr.counter + BitVec.ofNat 64 (blocksFor n) } else s

def doVcvt (c : Ctx) (s : State) : State :=
  let t := c.i.uimm % 16
  let wi := fmtBits c.i.f
  let wo := fmtBits t
  let n := if wi = wo then 2048 / wi else 64
  let sr := bitOf c.i.uimm 4
  let md := roundOf sr c.gr n
  let res := ((vLanes wi (getV c.gr c.i.a)).take n).mapIdx fun i x => encode t (decodeElem c.i.f x) (md i)
  let v := if wo < wi then
      let old := vLanes wo (getV c.gr c.i.d)
      vOf wo (if bitOf c.i.uimm 5 then old.take 64 ++ res else res ++ old.drop 64)
    else vOf wo res
  nextPc (drawn (onGr s c fun gr => setV gr c.i.d v) c sr n) c

/-- VCVT (R366). -/
def execVcvt (g : GroupId) (s : State) := up s fun s => issue s g 0x49 doVcvt

def doVpack (c : Ctx) (s : State) : State :=
  let a := (uni c.gr c.i.b).toNat
  let sr := bitOf c.i.uimm 0
  let w := fmtBits c.i.f
  if !scratchOk c.pr a (8 * w + 2) then uniFault s c a
  else
    let xs := (vLanes 32 (getV c.gr c.i.a)).map (decodeElem 8)
    let md := roundOf sr c.gr 64
    let b0 := encodeBlock c.i.f (xs.take 32) md
    let b1 := encodeBlock c.i.f (xs.drop 32) fun i => md (32 + i)
    nextPc (drawn (scratchWrite s c.p c.pr a (packElems w (b0.2 ++ b1.2) ++ [BitVec.ofNat 8 b0.1, BitVec.ofNat 8 b1.1]))
      c sr 64) c

/-- VPACK (R313). -/
def execVpack (g : GroupId) (s : State) := up s fun s => issue s g 0x4A doVpack

def execRngset (g : GroupId) (s : State) := up s fun s => issue s g 0x4C fun c s =>
  nextPc (onGr s c fun gr => { gr with
    seed := uni c.gr c.i.a, stream := uni c.gr c.i.b, counter := uni c.gr c.i.c }) c

def execRng (g : GroupId) (s : State) := up s fun s => issue s g 0x4D fun c s =>
  let ws := randomWords c.gr.seed c.gr.stream c.gr.counter 16
  nextPc (onGr s c fun gr => { setV gr c.i.d (vOf 32 (ws.map BitVec.toNat)) with counter := c.gr.counter + 16 }) c

end Sys2Proof.Machine
end

