-- ==== Sys2Proof/Machine/CruCmds.lean ====
section
/-! DEFINITION. Program commands (R345 to R356, R372 to R374), the shedding of a paused program (R330) and the end of
one (R326, R356). -/

namespace Sys2Proof.Machine

/-! ### The image (R340 to R344) -/

def imgMin : Nat := 72
def imgMax : Nat := 619744
def sigBytes : Nat := 29856

structure Image where
  (signed soft : Bool)
  decl    : Decl
  scratch : Nat
  out     : Nat
  code    : List (BitVec 64)
  consts  : List Byte
  digest  : List Byte
  (key sig : List Byte)
  deriving DecidableEq, Repr, Inhabited

/-- The `n` 8-byte words at the head of some bytes. -/
def words64 : Nat → List Byte → List (BitVec 64)
  | 0, _ => []
  | n + 1, bs => BitVec.ofNat 64 (leNat (bs.take 8)) :: words64 n (bs.drop 8)

/-- The header checks of R341 (check 4 of R345). -/
def headerOk (bs : List Byte) : Bool :=
  let f := fieldAt bs
  let code := f 8 4
  let consts := f 12 4
  let scratch := f 20 4
  decide (f 0 4 = 0x50555243 ∧ f 4 1 = 1 ∧ f 5 1 < 4 ∧ f 6 2 = 0 ∧ f 26 6 = 0)
    && decide (1 ≤ code ∧ code ≤ 65536 ∧ consts ≤ 65536 ∧ consts % 8 = 0 ∧ consts ≤ scratch)
    && decide (1 ≤ f 16 1 ∧ f 16 1 ≤ 16 ∧ f 17 1 ≤ 16 ∧ f 18 1 ≤ 64 ∧ f 19 1 ≤ 32)
    && decide (scratch ≤ 8388608 ∧ 1 ≤ f 24 2 ∧ f 24 2 ≤ 4096)
    && decide (bs.length = 64 + 8 * code + consts + (if bitOf (f 5 1) 0 then sigBytes else 0))

def imageOf (bs : List Byte) : Image :=
  let f := fieldAt bs
  let code := f 8 4
  let body := 64 + 8 * code + f 12 4
  { signed := bitOf (f 5 1) 0, soft := bitOf (f 5 1) 1
    decl := ⟨code, f 16 1, f 17 1, f 18 1, f 19 1⟩
    scratch := f 20 4, out := f 24 2
    code := words64 code (bs.drop 64)
    consts := (bs.drop (64 + 8 * code)).take (f 12 4)
    digest := shake256 (bs.take body)
    key := (bs.drop body).take 64, sig := bs.drop (body + 64) }

/-- A signature is accepted (R344). -/
def sigAccepted (s : State) (m : Image) : Bool :=
  s.cfg.signers.contains (shake256 m.key) && slhVerify m.key m.digest m.sig

/-! ### What an engine holds (R324, R346, R347) -/

/-- Programs of an engine that hold resources. -/
def engineProgs (s : State) (e : Nat) : List (Nat × Program) :=
  s.cru.progs.filter fun x => decide (x.1 / 16 = e) && progHolds x.2

def sumOf (l : List (Nat × Program)) (f : Program → Nat) : Nat := (l.map fun x => f x.2).sum

/-- Bytes of the instruction store, in 4 KiB units rounded up. -/
def storeUnits (code consts : Nat) : Nat := (8 * code + consts + 4095) / 4096

/-- Free thread groups, array sixteenths, accumulators and entries (R333). -/
def groupsFree (s : State) (e : Nat) : Nat := 16 - sumOf (engineProgs s e) Program.groupsN
def shareFree (s : State) (e : Nat) : Nat := 16 - sumOf (engineProgs s e) Program.share
def accumsFree (s : State) (e : Nat) : Nat := 64 - sumOf (engineProgs s e) Program.accums
def outFree (s : State) (e : Nat) : Nat := 4096 - sumOf (engineProgs s e) Program.outstanding
def storeFree (s : State) (e : Nat) : Nat :=
  256 - sumOf (engineProgs s e) fun p => storeUnits p.code.length p.consts.length

/-- The lowest free program index of an engine (R348). -/
def freeProg (s : State) (e : Nat) : Option Nat :=
  (List.range 16).find? fun i => match prog? s (16 * e + i) with
    | some p => !progHolds p
    | none => true

/-- The lowest-numbered free array slots (R323). -/
def freeSlots (s : State) (e n : Nat) : List Nat :=
  ((List.range 16).filter fun k => (engineProgs s e).all fun x => !x.2.arrSlots.contains k).take n

/-- The lowest-numbered free thread groups (R346). -/
def freeGroups (s : State) (e n : Nat) : List Nat :=
  ((List.range 16).filter fun k => (engineProgs s e).all fun x => !x.2.groupSlots.contains k).take n

/-- Scratch slots of a declaration. -/
def imgSlots (m : Image) : Nat := (m.scratch + 65535) / 65536

/-- Check 7 of R345. -/
def quotaCovers (s : State) (t : Tag) (m : Image) : Bool :=
  let q := s.tenant t.toNat
  isOp t || (decide (groupsInUse s t + m.decl.groups ≤ q.cruGroups) && decide (scratchInUse s t + imgSlots m ≤ q.cruScratch)
    && decide (accumsInUse s t + m.decl.accums ≤ q.cruAccum))

/-- Check 8 of R345. -/
def engineFits (s : State) (e : Nat) (m : Image) : Bool :=
  (freeProg s e).isSome && decide (m.decl.groups ≤ groupsFree s e) && decide (m.decl.share ≤ shareFree s e)
    && decide (m.decl.accums ≤ accumsFree s e) && decide (m.out ≤ outFree s e) && decide (imgSlots m ≤ scratchFree s e)
    && decide (storeUnits m.decl.code m.consts.length ≤ storeFree s e)

/-! ### PROGRAM_LOAD -/

def loadEngine (d : Desc) : Nat := Desc.fld d 16 1
def loadTenant (d : Desc) : Tag := BitVec.ofNat 16 (Desc.fld d 18 2)

/-- Checks 1 and 2 of R345. -/
def loadChk (o : Origin) (d : Desc) (s : State) : Option Status :=
  firstFail [
    (!credNames s o (loadTenant d) || !activeOrOp s (loadTenant d), stTenantDenied),
    (!engineUp s (loadEngine d) || decide (Desc.fld d 20 4 < imgMin ∨ Desc.fld d 20 4 > imgMax)
      || !tagLegal (loadTenant d) || !Desc.clearOutside d (Desc.byteFields [(16, 1), (18, 2), (20, 4), (24, 8)]),
      stOutOfRange)]

/-- Checks 4 to 8 of R345, on the image as read. -/
def imageChk (s : State) (d : Desc) (bs : List Byte) : Option Status :=
  let m := imageOf bs
  firstFail [
    (!headerOk bs, stOutOfRange),
    (!m.code.all fun w => insOk m.decl (Ins.of w), stFormatUnsupported),
    ((s.cfg.requireSigned && !m.signed) || (m.signed && !sigAccepted s m), stKeyMismatch),
    (!quotaCovers s (loadTenant d) m || !engineFits s (loadEngine d) m, stResourceRefused)]

/-- Admission (R346). -/
def admitProg (s : State) (o : Origin) (d : Desc) (bs : List Byte) : State × Nat :=
  let m := imageOf bs
  let e := loadEngine d
  let p := 16 * e + (freeProg s e).getD 0
  let pr : Program := { (default : Program) with
    state := .loaded, tenant := loadTenant d, owner := Fin.ofNat 2 (originPort o)
    signed := m.signed, soft := m.soft, code := m.code, consts := m.consts
    groupsN := m.decl.groups, share := m.decl.share, accums := m.decl.accums, handlesN := m.decl.handles
    outstanding := m.out, scratchBytes := m.scratch
    groupSlots := freeGroups s e m.decl.groups, arrSlots := freeSlots s e m.decl.share
    digest := m.digest, signer := if m.signed then shake256 m.key else zeros 64
    loadTime := s.now }
  let s := s.onCru fun c => { c with progs := c.progs.set p pr }
  (traceProgram s p e 1 0 pr.tenant, p)

/-- The image has come, or its DMA read has failed. -/
def programLoadGot (s : State) (o : Origin) (d : Desc) (ok : Bool) (bs : List Byte) : State :=
  if !ok then complete s o d stInternal []
  else
    match (loadChk o d s).or (imageChk s d bs) with
    | some st => complete s o d st []
    | none =>
      let (s, p) := admitProg s o d bs
      complete s o d stOk [BitVec.ofNat 8 p]

def specProgramLoad : CmdSpec where
  op := 0x60
  early := true
  dest := here
  chk := loadChk
  eff o d k s :=
    if !dmaOk s (originPort o) then complete s o d stInternal []
    else dmaRead s o d k 0 (Desc.fld d 24 8) (Desc.fld d 20 4) []

/-- PROGRAM_LOAD (R345, R346). -/
def execProgramLoad (r : CmdRef) (d : Desc) (s : State) := up s (runRow specProgramLoad r d default)

/-! ### Commands of a program (R374) -/

def descProg (d : Desc) : Nat := Desc.fld d 16 1

/-- The program that a command names, while it is LOADED or RUNNING. -/
def liveProg (s : State) (d : Desc) : Option Program := (prog? s (descProg d)).filter progHolds

/-- Credentials do not cover the program's tenant. -/
def progDenied (s : State) (o : Origin) (d : Desc) : Bool :=
  match prog? s (descProg d) with
  | some p => !covers s (credOf s o) p.tenant
  | none => false

/-- The Runner that a start names: bit 7 says that it names one. -/
def startRunner (d : Desc) : Option Nat := if Desc.bit d 143 then some (Desc.fld d 17 1 % 64) else none

def startRunnerEntry (s : State) (d : Desc) : Option Runner := (startRunner d).bind fun i => s.swc.runners.get? i

def startChk (o : Origin) (d : Desc) (s : State) : Option Status :=
  let p := liveProg s d
  firstFail [
    (progDenied s o d || (match startRunnerEntry s d, p with
        | some r, some p => r.tenant != p.tenant
        | _, _ => false), stTenantDenied),
    (p.isNone || decide (Desc.fld d 18 1 > (p.getD default).handlesN)
      || ((startRunner d).isSome && !(match startRunnerEntry s d with
          | some r => runnerAtEngine r (descProg d / 16)
          | none => false))
      || !Desc.clearOutside d [(128, 8), (136, 6), (143, 1), (144, 8), (192, 64), (256, 64), (320, 64), (384, 64)],
      stOutOfRange),
    (decide ((p.getD default).state ≠ .loaded), stAlreadyDone),
    (s.pwr.standby, stResourceRefused)]

/-- The scratch slots that a program takes at launch: the lowest free (R297). -/
def takeSlots (s : State) (e n : Nat) : List Nat :=
  ((List.range 128).filter fun k => !(scratchHeld s e).contains k).take n

def launchGroup (seed base : BitVec 64) (g : Nat) : Group :=
  { (default : Group) with mask := 0xFFFFFFFF, seed := seed, stream := base + BitVec.ofNat 64 g }

/-- Sets a program up and starts every group (R351). -/
def launch (s : State) (d : Desc) (handles args : List (BitVec 64)) : State :=
  let p := descProg d
  match prog? s p with
  | none => s
  | some pr =>
    let sl := takeSlots s (p / 16) (slotsOfProg pr)
    let s := sl.foldl (fun s k => zeroScratch s (p / 16) k 1) s
    let pr := { pr with
      state := .running, startTime := s.now, launchAt := some s.now, slots := sl, handles := handles, args := args
      runner := startRunner d
      groups := (List.range pr.groupsN).map fun g =>
        (g, launchGroup (BitVec.ofNat 64 (Desc.fld d 32 8)) (BitVec.ofNat 64 (Desc.fld d 40 8)) g) }
    let s := s.onCru fun c => { c with progs := c.progs.set p pr }
    traceProgram (scratchWrite s p pr 0 pr.consts) p (p / 16) 2 0 pr.tenant

/-- The handle table or the arguments have come. -/
def programStartGot (s : State) (o : Origin) (d : Desc) (k : Pick) (stage : Nat) (got : List Byte) (ok : Bool)
    (bs : List Byte) : State :=
  if !ok ∨ (stage = 0 ∧ !dmaOk s (originPort o)) then complete s o d stInternal []
  else if stage = 0 then dmaRead s o d k 1 (Desc.fld d 48 8) 64 bs
  else
    match startChk o d s with
    | some st => complete s o d st []
    | none => complete (launch s d (words64 (Desc.fld d 18 1) got) (words64 8 bs)) o d stOk []

def specProgramStart : CmdSpec where
  op := 0x61
  early := true
  dest := here
  chk := startChk
  eff o d k s :=
    if !dmaOk s (originPort o) then complete s o d stInternal []
    else if Desc.fld d 18 1 = 0 then dmaRead s o d k 1 (Desc.fld d 48 8) 64 []
    else dmaRead s o d k 0 (Desc.fld d 24 8) (8 * Desc.fld d 18 1) []

/-- PROGRAM_START (R351). -/
def execProgramStart (r : CmdRef) (d : Desc) (s : State) := up s (runRow specProgramStart r d default)

def specProgramPost : CmdSpec where
  op := 0x62
  dest := here
  chk o d s := firstFail [
    (progDenied s o d, stTenantDenied),
    ((liveProg s d).isNone || !Desc.clearOutside d (Desc.byteFields [(16, 1), (24, 8)]), stOutOfRange),
    (decide (((liveProg s d).getD default).mailbox.length ≥ 16), stResourceRefused)]
  eff o d _ s :=
    let s := onProg s (descProg d) fun p => { p with mailbox := p.mailbox ++ [BitVec.ofNat 64 (Desc.fld d 24 8)] }
    complete (mboxDeliver 1 s (descProg d)) o d stOk []

/-- PROGRAM_POST (R353). -/
def execProgramPost (r : CmdRef) (d : Desc) (s : State) := up s (runRow specProgramPost r d default)

def specProgramStop : CmdSpec where
  op := 0x63
  dest := here
  chk o d s := firstFail [
    (progDenied s o d, stTenantDenied),
    ((liveProg s d).isNone || !Desc.clearOutside d (Desc.byteFields [(16, 1)]), stOutOfRange),
    (decide (((liveProg s d).getD default).state = .ending), stAlreadyDone)]
  eff o d _ s := complete (endProg s (descProg d) stAborted none) o d stOk []

/-- PROGRAM_STOP (R354, R355). -/
def execProgramStop (r : CmdRef) (d : Desc) (s : State) := up s (runRow specProgramStop r d default)

def specProgramQuery : CmdSpec where
  op := 0x64
  dest := here
  chk o d s := firstFail [
    (progDenied s o d, stTenantDenied),
    ((prog? s (descProg d)).isNone || !Desc.clearOutside d (Desc.byteFields [(16, 1), (56, 8)]), stOutOfRange)]
  eff o d _ s :=
    let pr := (prog? s (descProg d)).getD default
    queryOut s o d (Desc.fld d 56 8) (progRecord s (descProg d) pr ++ pr.digest)

/-- PROGRAM_QUERY. -/
def execProgramQuery (r : CmdRef) (d : Desc) (s : State) := up s (runRow specProgramQuery r d default)

/-! ### Shedding and ends -/

/-- CAP_SHED (R330): a running program whose engine has been paused for 100 ms, counted from the later of the start of
the pause and its launch. -/
def execCapShed (prog : BitVec 8) (t : Time) (s : State) := up s fun s =>
  let s := s.at_ t
  match prog? s prog.toNat, (engineOf s (prog.toNat / 16)).pausedAt with
  | some pr, some t0 =>
    if pr.state = .running ∧ paused s (prog.toNat / 16) ∧ due s.now (Nat.max t0 (pr.launchAt.getD 0)) (ms 100) then
      endProg s prog.toNat stCapShed none
    else s
  | _, _ => s

/-- Every outstanding request of a program has been resolved. -/
def progQuiet (s : State) (p : Nat) : Bool := s.cru.reqs.all fun q => q.prog != p || q.status.isSome

/-- Counts an end (R338). -/
def countEnd (s : State) (p : Nat) (st : Status) : State :=
  onEngine s (p / 16) fun e =>
    if st = stOk then { e with completed := bump e.completed }
    else if st = stProgramFault then { e with faulted := bump e.faulted }
    else if st = stCapShed then { e with capShed := bump e.capShed }
    else e

/-- Clears and frees what a program held (R326); its identity stays for PROGRAM_QUERY. -/
def clearProg (s : State) (p : Nat) (pr : Program) : State :=
  let s := pr.slots.foldl (fun s k => zeroScratch s (p / 16) k 1) s
  s.onCru fun c => { c with
    reqs := c.reqs.filter fun q => q.prog != p
    progs := c.progs.set p { pr with
      state := .ended, endTime := s.now, code := [], consts := [], handles := [], args := [], mailbox := [], mboxQ := []
      slots := [], groups := [], accs := [], live := none, shadow := none, runner := none, arrSlots := [], groupSlots := [] } }

/-- Posts the program record to the host that owns the tenant, or that loaded an operator's program (R356). -/
def postProg (s : State) (tag : Tag) (owner : Fin 2) (r : List Byte) : State :=
  if isOp tag then postEvent s owner.val tag r else ownerEvent s tag r

/-- PROGRAM_END_CLEAR (R326, R356). -/
def execProgramEndClear (prog : BitVec 8) (s : State) := up s fun s =>
  let p := prog.toNat
  match prog? s p with
  | none => s
  | some pr =>
    if pr.state = .ending ∧ progQuiet s p then
      let s := countEnd (clearProg s p pr) p pr.status
      let s := traceProgram s p (p / 16) 3 pr.status pr.tenant
      postProg s pr.tenant pr.owner (progRecord s p ((prog? s p).getD pr))
    else s

end Sys2Proof.Machine
end

