-- ==== Sys2Proof/Machine/Collect.lean ====
section
/-! DEFINITION. Reductions at the host switch (08_collectives_determinism.md): groups, contributions, tree and exact
arithmetic, results and their recovery. -/

namespace Sys2Proof.Machine

/-! ### Formats and chunks (R380, R381) -/

/-- Bytes of an element; code 12 is IMAGE. -/
def elemSize (f : Nat) : Nat := if f = 12 then 48 else if f = 10 then 8 else if f = 8 ∨ f = 9 then 4 else 2

/-- The working format of tree mode. -/
def workFmt (f : Nat) : Nat := if f = 9 ∨ f = 10 then f else 8

/-- The combinations of R380. -/
def comboOk (exact : Bool) (i o op : Nat) : Bool :=
  if exact then decide ((i = 6 ∨ i = 7 ∨ i = 8 ∨ i = 12) ∧ (o = 6 ∨ o = 7 ∨ o = 8 ∨ o = 12) ∧ op = 0)
  else if i = 6 ∨ i = 7 then decide ((o = i ∨ o = 8) ∧ op ≤ 2)
  else if i = 8 then decide (o = 8 ∧ op ≤ 2)
  else decide ((i = 9 ∨ i = 10) ∧ o = i ∧ op ≤ 5)

/-- A code that some rule defines. -/
def codeDefined (f : Nat) : Bool := decide (f ≤ 10 ∨ f = 12)

namespace RGroup

/-- E of R381. -/
def perChunk (g : RGroup) : Nat :=
  let m := Nat.max (elemSize g.inFmt) (elemSize g.outFmt)
  2048 / (if g.exact then m else Nat.max m (elemSize (workFmt g.inFmt)))

/-- Chunks of a round. -/
def chunks (g : RGroup) : Nat := (g.elements + g.perChunk - 1) / g.perChunk

/-- Elements of a chunk of a round. -/
def chunkLen (g : RGroup) (k : Nat) : Nat := Nat.min g.perChunk (g.elements - k * g.perChunk)

/-- Round, and chunk of the round, of a running count. -/
def roundOfG (g : RGroup) (n : Nat) : Nat := g.armedAt + n / g.chunks
def chunkOfG (g : RGroup) (n : Nat) : Nat := n % g.chunks

end RGroup

/-- STORE_BYTES (R382). -/
def storeBytes (exact : Bool) (n slots perChunk : Nat) : Nat :=
  let w := if exact then perChunk * 48 else (n + 1) / 2 * 2048
  (2 * n + slots * (w + (n + 7) / 8) + 2 * slots * 2048 + 4095) / 4096 * 4096

/-- Free reduction store of a quadrant (R410). -/
def storeLeft (s : State) (q : Nat) : Nat :=
  33554432 - (((s.col.groups ++ dyingGroups s).filter fun e => decide (e.2.quad.val = q)).map fun e => e.2.store).sum

def rgroup? (s : State) (g : Nat) : Option RGroup := s.col.groups.get? g
def onRGroup (s : State) (g : Nat) (f : RGroup → RGroup) : State :=
  s.onCol fun c => { c with groups := c.groups.modify g f }

/-! ### Arithmetic (R387, R388, R390) -/

/-- The elements of a payload, as codes of a format. -/
def elemsOf (f : Nat) (bs : List Byte) : List Nat :=
  (List.range (bs.length / elemSize f)).map fun i => fieldAt bs (elemSize f * i) (elemSize f)

/-- A contribution element in the working format. -/
def widen (f code : Nat) : Nat := if f = 9 ∨ f = 10 then code else encode 8 (decodeElem f code) .rne

/-- One operation of a tree node. -/
def redOp (f op x y : Nat) : Nat :=
  if f = 8 then
    let a := decodeElem 8 x
    let b := decodeElem 8 y
    encode 8 (if op = 0 then Num.add a b else if op = 1 then Num.minN a b else Num.maxN a b) .rne
  else
    let w := fmtBits f
    match op with
    | 0 => (x + y) % 2 ^ w
    | 1 => if signedOf w y < signedOf w x then y else x
    | 2 => if signedOf w x < signedOf w y then y else x
    | 3 => x &&& y
    | 4 => x ||| y
    | _ => x ^^^ y

/-- One level of the tree: pairs of neighbours, and an odd node unchanged. -/
def treeLevel (f op : Nat) : List (List Nat) → List (List Nat)
  | x :: y :: t => List.zipWith (redOp f op) x y :: treeLevel f op t
  | l => l

/-- The tree of R387, from the ranks' vectors. -/
def treeReduce (f op : Nat) : Nat → List (List Nat) → List Nat
  | 0, l => l.headD []
  | n + 1, l => if l.length ≤ 1 then l.headD [] else treeReduce f op n (treeLevel f op l)

/-- convert() of R388. -/
def convertOut (f o code : Nat) : Nat := if f = o then code else encode o (decodeElem f code) .rne

/-- Adds a contribution element into an accumulator. -/
def exactAdd (f : Nat) (a : Accum) (bs : List Byte) : Accum :=
  if f = 12 then a.addImage (Accum.ofImage bs) else a.addNum (decodeElem f (leNat bs))

def exactOut (o : Nat) (a : Accum) : List Byte := if o = 12 then a.image else leBytes (elemSize o) (a.readOut o)

/-- The result of a complete chunk. -/
def chunkResult (g : RGroup) (c : Combine) : List Byte :=
  if g.exact then c.exact.flatMap (exactOut g.outFmt)
  else
    let w := workFmt g.inFmt
    let xs := (List.range g.members).map fun r => (elemsOf g.inFmt (c.ranks.getD r [])).map (widen g.inFmt)
    (treeReduce w g.op 13 xs).flatMap fun x => leBytes (elemSize g.outFmt) (convertOut w g.outFmt x)

/-! ### Contributions (R383 to R386) -/

def contribRank (p : Packet) : Nat := bitsOf p.off 36 12
def contribRound (p : Packet) : Nat := bitsOf p.off 28 8
def contribElem (p : Packet) : Nat := bitsOf p.off 0 28

/-- Chunks between the window and the nearest chunk of a round: 0 where the round reaches into the window. -/
def roundDistance (g : RGroup) (n : Nat) : Nat :=
  let first := (n - g.armedAt) * g.chunks
  (g.g0 - (first + g.chunks - 1)) + (first - (g.g0 + g.slots - 1))

/-- The round that a round number names: the one whose chunks lie nearest the window, not before the round of the
last arming (R384); of two as near, the later (log entry 192). -/
def resolveRound (g : RGroup) (r8 : Nat) : Nat :=
  let lo := g.roundOfG g.g0
  let fwd := lo + (r8 + 256 - lo % 256) % 256
  if fwd < g.armedAt + 256 ∨ roundDistance g fwd ≤ roundDistance g (fwd - 256) then fwd else fwd - 256

/-- Where a contribution lies: its chunk's running count, when the element index and the length fit (check 6). -/
def contribChunk (g : RGroup) (p : Packet) : Option Nat :=
  let e := contribElem p
  let k := e / g.perChunk
  if e % g.perChunk = 0 ∧ e < g.elements ∧ p.lenBytes = g.chunkLen k * elemSize g.inFmt then
    some ((resolveRound g (contribRound p) - g.armedAt) * g.chunks + k)
  else none

/-- The member's chunk has been contributed already, or its result is formed. -/
def contributed (g : RGroup) (n rank : Nat) : Bool :=
  decide (n < g.g0) || g.formed.contains n || g.combine.any fun c => c.g == n && c.ranks.has rank

/-- The checks of R384. -/
def contribChk (s : State) (p : Packet) : Except Status (RGroup × Nat) :=
  match rgroup? s (p.region.toNat % 1024) with
  | none => .error stKeyMismatch
  | some g =>
    if p.key ≠ g.key then .error stKeyMismatch
    else if tagOf p.tenant ≠ g.tenant then .error stTenantDenied
    else if contribRank p ≥ g.members ∨ g.table[contribRank p]? ≠ some p.src then .error stTenantDenied
    else if g.state ≠ .armed then .error stDestLost
    else match contribChunk g p with
      | none => .error stOutOfRange
      | some n =>
        if n ≥ g.g0 + g.slots then .error stOutOfRange
        else if contributed g n (contribRank p) then .error stAlreadyDone
        else .ok (g, n)

/-- Counts a refusal (R408). -/
def countColNack (s : State) (st : Status) : State :=
  s.onCol fun c =>
    if st = stKeyMismatch then { c with nackKey := bump c.nackKey }
    else if st = stTenantDenied then { c with nackMember := bump c.nackMember }
    else if st = stOutOfRange ∨ st = stDestLost then { c with nackRange := bump c.nackRange }
    else if st = stAlreadyDone then { c with nackDup := bump c.nackDup }
    else c

/-- Puts a contribution into its slot: stored by rank in tree mode, added in exact mode. -/
def combineIn (g : RGroup) (n rank : Nat) (pay : List Byte) : RGroup :=
  let c := (g.combine.find? fun c => c.g == n).getD ⟨n, [], []⟩
  let es := elemSize g.inFmt
  let old := if c.exact = [] then List.replicate (pay.length / es) (default : Accum) else c.exact
  let c := { c with
    ranks := c.ranks.set rank (if g.exact then [] else pay)
    exact := if g.exact then old.mapIdx fun i a => exactAdd g.inFmt a ((pay.drop (es * i)).take es) else [] }
  { g with combine := (g.combine.filter fun x => x.g != n) ++ [c] }

/-- A contribution at the host switch, from step 7 of R201 on. -/
def serveContrib (s : State) (a : Arrival) : State :=
  let p := a.pkt
  match contribChk s p with
  | .error st => refuse (countColNack s st) a st
  | .ok (g, n) =>
    let q := g.quad.val
    let s := onRGroup s (p.region.toNat % 1024) fun g => combineIn g n (contribRank p) p.payload
    let s := s.onCol fun c => { c with
      addends := c.addends.set q ((c.addends.getD q 0 + p.payload.length / elemSize g.inFmt) % 2 ^ 64) }
    finishReq s a stOk (ackOf s p stOk) false

/-- REDUCE_CONTRIB (R384, R386). -/
def execReduceContrib (a : Arrival) (s : State) := up s fun s =>
  if a.part = .zs ∧ a.pkt.opcode = opCONTRIB then receive s a fun s => serveContrib s a else s

/-! ### Results (R394 to R398) -/

/-- A REDUCE_RESULT, for the multicast group or for one member: a copy sent again has RETX, and TIME stays that of the
first injection (R207, R397). -/
def resultPacket (s : State) (i : Nat) (g : RGroup) (r : ResultBuf) (dst : Node) (again : Bool) : Packet :=
  Packet.sealed {
    opcode := opRESULT, flags := if again then 4 else 0, stream := 0, srcInc := 0
    dstInc := if isMcast dst then 0 else incOf s.xp.inc dst
    seq := BitVec.ofNat 24 r.g, dst := dst, src := s.dev.nodeId, tenant := g.tenant
    len := BitVec.ofNat 16 r.data.length, time := BitVec.ofNat 32 r.first, w20 := g.key
    region := BitVec.ofNat 16 i, offset := r.offset, payload := r.data, tag := 0, crc := 0 }
where
  isMcast (n : Node) : Bool := bitsOf n.toNat 14 2 == 3

def mcastNode (g : RGroup) : Node := BitVec.ofNat 16 (0xC000 + g.mcast.toNat)

/-- The lowest chunk to which every rank has contributed. -/
def completeChunk (g : RGroup) : Option Combine :=
  (List.range g.slots).findSome? fun i =>
    g.combine.find? fun c => c.g == g.g0 + i && decide (c.ranks.length = g.members)

/-- The lowest chunk whose result is not formed, after chunk `n` has been. -/
def advanceG0 : Nat → RGroup → RGroup
  | 0, g => g
  | f + 1, g =>
    if g.formed.contains g.g0 then advanceG0 f { g with g0 := g.g0 + 1, formed := g.formed.filter (· != g.g0) } else g

/-- Forms a result (R394, R398). -/
def formResult (s : State) (i : Nat) (g : RGroup) (c : Combine) : State :=
  let r : ResultBuf := {
    g := c.g, round := g.roundOfG c.g
    offset := BitVec.ofNat 48 (g.roundOfG c.g % 256 * 2 ^ 28 + g.chunkOfG c.g * g.perChunk)
    data := chunkResult g c
    waiting := (List.range g.members).map fun k => ⟨k, s.now, 0, none⟩
    first := s.now }
  let g1 := advanceG0 (g.slots + 1) { g with formed := c.g :: g.formed, combine := g.combine.filter fun x => x.g != c.g }
  let g1 := { g1 with round := g1.roundOfG g1.g0, results := g1.results ++ [r] }
  originate (onRGroup s i fun _ => g1) g.quad 5 none (resultPacket s i g r (mcastNode g) false)

/-- RESULT_FORMED (R394): the lowest complete chunk's result, in a free result buffer. -/
def execResultFormed (group : BitVec 10) (s : State) := up s fun s =>
  match rgroup? s group.toNat with
  | none => s
  | some g =>
    if g.state ≠ .armed ∨ g.results.length ≥ 2 * g.slots then s
    else match completeChunk g with
      | none => s
      | some c => formResult s group.toNat g c

/-- A member needs no further copy of a result: the buffer frees with the last one. -/
def memberDone (g : RGroup) (n rank : Nat) : RGroup :=
  { g with results := (g.results.map fun r =>
      if r.g = n then { r with waiting := r.waiting.filter fun w => w.rank != rank } else r).filter fun r => !r.waiting.isEmpty }

/-- Gives a member up for one result (R397). -/
def giveUpMember (s : State) (i : Nat) (g : RGroup) (n rank : Nat) : State :=
  reportGiveUp (onRGroup s i fun g => memberDone g n rank) .zs (g.table.getD rank 0)

def onWait (g : RGroup) (n rank : Nat) (f : MemberWait → MemberWait) : RGroup :=
  { g with results := g.results.map fun r =>
      if r.g = n then { r with waiting := r.waiting.map fun w => if w.rank = rank then f w else w } else r }

/-- RESULT_RETRANSMIT (R397). -/
def execResultRetransmit (group : BitVec 10) (n rank : Nat) (t : Time) (s : State) := up s fun s =>
  let s := s.at_ t
  let i := group.toNat
  match rgroup? s i with
  | none => s
  | some g =>
    match g.results.find? fun r => r.g == n with
    | none => s
    | some r =>
      match r.waiting.find? fun w => w.rank == rank with
      | none => s
      | some w =>
        match w.held with
        | some h => if due s.now h (us 300) then giveUpMember s i g n rank else s
        | none =>
          if !due s.now w.last (us 20) then s
          else if w.sent ≥ 6 then giveUpMember s i g n rank
          else
            let s := onRGroup (countRetx s) i fun g => onWait g n rank fun w => { w with last := s.now, sent := w.sent + 1 }
            originate s g.quad 5 none (resultPacket s i g r (g.table.getD rank 0) true)

/-- The result that a member's answer names: by member and SEQ, and by group where the answer says it. -/
def resultFor (s : State) (p : Packet) : Option (Nat × RGroup × Nat × Nat) :=
  s.col.groups.findSome? fun e =>
    if p.opcode = opACK ∧ p.region.toNat % 1024 ≠ e.1 then none
    else
      match e.2.table.idxOf? p.src with
      | none => none
      | some rank =>
        match e.2.results.find? fun r => decide (r.g % 2 ^ 24 = p.seq.toNat) && r.waiting.any fun w => w.rank == rank with
        | some r => some (e.1, e.2, r.g, rank)
        | none => none

/-- A member's ACK, HOLD or NACK of a result (R396, R397). -/
def memberAnswer (s : State) (p : Packet) : State :=
  match resultFor s p with
  | none => s
  | some (i, g, n, rank) =>
    if p.opcode = opACK then onRGroup s i fun g => memberDone g n rank
    else if p.opcode = opHOLD then onRGroup s i fun g => onWait g n rank fun w => { w with held := some s.now }
    else giveUpMember s i g n rank

/-! ### Groups and losses (R377, R399, R400) -/

/-- The group event record (R400). -/
def groupRecord (s : State) (i : Nat) (g : RGroup) (lost : Node) : List Byte :=
  [0x50, stDestLost] ++ leBytes 2 g.tenant.toNat ++ leBytes 2 i ++ leBytes 2 lost.toNat ++ leBytes 8 s.now
    ++ leBytes 8 g.round ++ leBytes 4 (g.g0 % g.chunks + (g.formed.filter fun n => g.roundOfG n == g.round).length) ++ zeros 4 ++ leBytes 8 (stepOf s g.tenant)
    ++ zeros 24

/-- No result waits for a lost member any more (R221). -/
def forgetMember (g : RGroup) (lost : Node) : RGroup :=
  match g.table.idxOf? lost with
  | none => g
  | some rank => (g.results.map ResultBuf.g).foldl (fun g n => memberDone g n rank) g

/-- A member is lost (R221, R399): every ARMED group of it breaks. -/
def breakGroups (s : State) (lost : Node) : State :=
  let s := s.onCol fun c => { c with groups := c.groups.map fun e => (e.1, forgetMember e.2 lost) }
  s.col.groups.foldl (fun s e =>
    if e.2.state = .armed ∧ e.2.table.contains lost then
      let s := ownerEvent s e.2.tenant (groupRecord s e.1 e.2 lost)
      onRGroup s e.1 fun g => { g with state := .broken, combine := [] }
    else s) s

/-- Destroys a group (R399). -/
def destroyGroup (s : State) (i : Nat) : State :=
  match rgroup? s i with
  | none => s
  | some g => s.onCol fun c => { c with groups := c.groups.erase i, dying := c.dying.set i { g with combine := [], results := [] } }

/-! ### Group commands (R401, R402) -/

namespace Desc

def group (d : Desc) : Nat := fld d 16 2 % 1024
def groupTag (d : Desc) : Tag := BitVec.ofNat 16 (fld d 18 2)

end Desc

/-- The group that a command names, where it is VALID. -/
def cmdGroup (s : State) (d : Desc) : Option RGroup := rgroup? s (Desc.group d)

def groupDenied (s : State) (o : Origin) (d : Desc) : Bool :=
  let t := Desc.groupTag d
  !credNames s o t || !activeOrOp s t || (match cmdGroup s d with
    | some g => g.tenant != tagOf t
    | none => false)

/-- A GROUP that names no group, a TENANT of no legal form, or a reserved bit of the record that every group command
carries (R378, R401, R402). -/
def groupReserved (d : Desc) : Bool :=
  decide (Desc.fld d 16 2 ≥ 1024) || !tagLegal (Desc.groupTag d) || decide (Desc.fld d 35 1 ≠ 0 ∨ Desc.fld d 60 4 ≠ 0)

/-- The home quadrant that a creation takes (R379). -/
def chosenQuad (s : State) (d : Desc) : Nat :=
  if Desc.fld d 32 1 ≥ 128 then
    let l := (List.range 4).filter (quadUp s)
    l.foldl (fun b q => if storeLeft s q > storeLeft s b then q else b) (l.headD 0)
  else Desc.fld d 32 1 % 4

def descGroup (s : State) (d : Desc) (table : List Node) : RGroup :=
  let f := Desc.fld d
  let g : RGroup := { (default : RGroup) with
    tenant := Desc.groupTag d, key := BitVec.ofNat 32 (f 20 4), members := f 24 2, mcast := BitVec.ofNat 12 (f 26 2)
    inFmt := f 28 1, outFmt := f 29 1, op := f 30 1, exact := Desc.bit d 248
    quad := Fin.ofNat 4 (chosenQuad s d), slots := f 33 1, state := .armed, elements := f 36 4, table := table }
  { g with store := storeBytes g.exact g.members g.slots g.perChunk }

/-- Reserved fields, fields out of range, and a quadrant out of service. -/
def createGroupBad (s : State) (d : Desc) : Bool :=
  let f := Desc.fld d
  groupReserved d
    || decide (f 24 2 < 1 ∨ f 24 2 > 4096 ∨ f 26 2 ≥ 4096 ∨ f 31 1 ≥ 2 ∨ bitsOf (f 32 1) 2 5 ≠ 0)
    || decide (f 33 1 < 1 ∨ f 33 1 > 64 ∨ f 35 1 ≠ 0 ∨ f 36 4 < 1 ∨ f 36 4 > 268435456 ∨ f 60 4 ≠ 0)
    || (if f 32 1 ≥ 128 then !(List.range 4).any (quadUp s) else !quadUp s (f 32 1 % 4))

/-- The rows of R402 that a GROUP_CREATE's own fields decide. -/
def createGroupRows (s : State) (o : Origin) (d : Desc) : List (Bool × Status) :=
  let f := Desc.fld d
  [(groupDenied s o d, stTenantDenied),
   (decide (f 30 1 > 5) || !codeDefined (f 28 1) || !codeDefined (f 29 1), stOutOfRange),
   (!comboOk (Desc.bit d 248) (f 28 1) (f 29 1) (f 30 1), stFormatUnsupported),
   (createGroupBad s d, stOutOfRange)]

/-- The member table as read. -/
def tableOf (bs : List Byte) : List Node := (List.range (bs.length / 2)).map fun i => BitVec.ofNat 16 (fieldAt bs (2 * i) 2)

/-- The member table names end points, none twice. -/
def tableOk (l : List Node) : Bool := (l.all fun n => !isSwitch n && nodeLegal n) && decide (l.eraseDups.length = l.length)

/-- The RESOURCE_REFUSED row of R402, and STANDBY (R665). -/
def createGroupFull (s : State) (d : Desc) (g : RGroup) : Bool :=
  let t := Desc.groupTag d
  s.pwr.standby || (cmdGroup s d).isSome || (dyingGroups s).any (fun e => e.1 == Desc.group d)
    || (!isOp t && decide (reduceInUse s t + 1 > (s.tenant t.toNat).reduceQuota))
    || decide (g.store > storeLeft s g.quad.val)

/-- The member table has come, or its DMA read has failed: then INTERNAL decides after the rows above it, in place of the
condition on the table (R402). -/
def groupCreateGot (s : State) (o : Origin) (d : Desc) (ok : Bool) (bs : List Byte) : State :=
  let l := tableOf bs
  let g := descGroup s d l
  let i := Desc.group d
  match firstFail (createGroupRows s o d ++ [
      (ok && !tableOk l, stOutOfRange), (createGroupFull s d g, stResourceRefused), (!ok, stInternal)]) with
  | some st => complete s o d st []
  | none =>
    complete (s.onCol fun c => { c with groups := c.groups.set i g, dying := c.dying.erase i }) o d stOk []

def specGroupCreate : CmdSpec where
  op := 0x70
  early := true
  dest := here
  chk o d s := firstFail (createGroupRows s o d)
  eff o d k s :=
    if !dmaOk s (originPort o) then groupCreateGot s o d false []
    else dmaRead s o d k 0 (Desc.fld d 40 8) (2 * Desc.fld d 24 2) []

/-- GROUP_CREATE (R379, R401, R402). -/
def execGroupCreate (r : CmdRef) (d : Desc) (s : State) := up s (runRow specGroupCreate r d default)

/-- The rows that the other group commands share. -/
def groupRows (s : State) (o : Origin) (d : Desc) : List (Bool × Status) :=
  [(groupDenied s o d, stTenantDenied),
   ((cmdGroup s d).isNone, stKeyMismatch),
   (groupReserved d, stOutOfRange)]

def specGroupDestroy : CmdSpec where
  op := 0x71
  dest := here
  chk o d s := firstFail (groupRows s o d)
  eff o d _ s := complete (destroyGroup s (Desc.group d)) o d stOk []

/-- GROUP_DESTROY (R399). -/
def execGroupDestroy (r : CmdRef) (d : Desc) (s : State) := up s (runRow specGroupDestroy r d default)

def rearm (g : RGroup) : RGroup :=
  { g with state := .armed, armedAt := g.round, g0 := 0, formed := [], combine := [], results := [] }

def specGroupRearm : CmdSpec where
  op := 0x72
  dest := here
  chk o d s := firstFail (groupRows s o d ++ [(((cmdGroup s d).map RGroup.state) == some .armed, stAlreadyDone)])
  eff o d _ s := complete (onRGroup s (Desc.group d) rearm) o d stOk []

/-- GROUP_REARM (R399). -/
def execGroupRearm (r : CmdRef) (d : Desc) (s : State) := up s (runRow specGroupRearm r d default)

/-- The stored record (R378). -/
def groupBytes (i : Nat) (g : RGroup) : List Byte :=
  leBytes 2 i ++ leBytes 2 g.tenant.toNat ++ leBytes 4 g.key.toNat ++ leBytes 2 g.members ++ leBytes 2 g.mcast.toNat
    ++ [BitVec.ofNat 8 g.inFmt, BitVec.ofNat 8 g.outFmt, BitVec.ofNat 8 g.op, BitVec.ofNat 8 (b2n g.exact),
        BitVec.ofNat 8 g.quad.val, BitVec.ofNat 8 g.slots, if g.state = .armed then 1 else 2, 0]
    ++ leBytes 4 g.elements ++ zeros 8 ++ leBytes 8 g.round ++ leBytes 4 g.store ++ zeros 4

def specGroupQuery : CmdSpec where
  op := 0x73
  dest := here
  chk o d s := firstFail (groupRows s o d)
  eff o d _ s :=
    let g := (cmdGroup s d).getD default
    queryOut s o d (Desc.fld d 40 8) (groupBytes (Desc.group d) g ++ g.table.flatMap fun n => leBytes 2 n.toNat)

/-- GROUP_QUERY. -/
def execGroupQuery (r : CmdRef) (d : Desc) (s : State) := up s (runRow specGroupQuery r d default)

/-- Every determinism event count returns to 0 (R409). -/
def restartEvents (s : State) : State :=
  s.onCol fun c => { c with evQuench := 0, evCorrected := 0, evRecall := 0, evRetx := 0, evReplay := 0 }

/-- COL_DET_EVENTS_RESTART (R409). -/
def execColDetEventsRestart (s : State) := up s restartEvents

end Sys2Proof.Machine
end

