-- ==== Sys2Proof/Machine/Resume.lean ====
section
/-! DEFINITION. Accesses that waited go on: after a recall has been answered, a partner's copy fetched, or a
mirrored write acknowledged (R160, R164, R424, R433). -/

namespace Sys2Proof.Machine

/-- Goes on with one access located at its lookup. -/
def resumeOne (s : State) (w : Waiter) (ri off : Nat) (got : List Nat) (fs : List ReadFault) (acked : Bool) : State :=
  match w with
  | .packet a => resumePacket s a ri off got fs acked
  | .host p q => resumeHost s p q ri off got fs acked
  | .line id => resumeLine s id ri off got fs acked
  | .measure _ | .publish _ | .kept => s
  | .debug o d => if s.partnerW.any fun m => m.who == w then s else complete s o d stOk []

/-- An access waits for nothing more. A measurement goes on by MEASURE_DONE, a cast copy by CAST_COPY_DONE. -/
def ready (s : State) (b : Blocked) : Bool :=
  b.wants.isEmpty && (b.lines.all fun l => !lineBusy s l) && (match b.who with
    | .measure _ | .publish _ => false
    | _ => true)

/-- Lets accesses go on whose lines are free, oldest first. -/
def resumeAll : Nat → State → State
  | 0, s => s
  | n + 1, s =>
    match s.coh.blocked.find? (ready s) with
    | none => s
    | some b =>
      resumeAll n (resumeOne (s.onCoh fun c => { c with blocked := c.blocked.erase b }) b.who b.reg b.off b.got b.faults
        false)

/-- Lets everything go on that can: waiting accesses, then page-outs. -/
def settle (s : State) : State := pageOutsGo (resumeAll s.coh.blocked.length s)

/-- Entries of the measurement table (R701). -/
def measureTable : Nat := 1024

/-- A measurement of a region's version begins, in its entry or in a new one (R701, R702, R704). -/
def measureStart (s : State) (ri v : Nat) (who : Option (Origin × Desc)) : State :=
  let m := s.sec.measures.getD ri default
  s.onSec fun c => { c with measures := c.measures.set ri { m with
    running := m.running ++ [v], origin := m.origin.or who } }

/-- An attested cast region is measured once for each version, where the table has an entry for it (R704). -/
def measurePublished (s : State) (ri : Nat) (r : Region) (v : Nat) : State :=
  if r.attested ∧ (s.sec.measures.has ri ∨ s.sec.measures.length < measureTable) then measureStart s ri v none else s

/-- Step 5 of R175: the bank holds the new version, VERSION names it, and the command completes. -/
def finishPublish (s : State) (p : Publish) (r : Region) : State :=
  let s := s.onRegion p.region fun r => { r with version := p.version, prevServed := true }
  let s := s.onCoh fun c => { c with publishes := c.publishes.erase p }
  complete (measurePublished s p.region r p.version) p.origin p.desc stOk []

/-- The partner holds the bank of a publish (R424). -/
def bankKept (s : State) (ri : Nat) : State :=
  match s.coh.publishes.find? fun p => p.region == ri, s.region? ri with
  | some p, some r => if r.destroying then s else finishPublish s p r
  | _, _ => s

/-- A mirrored write has all its acknowledgements, or its partner is lost: it lands (R424, R433). An atomic lands on the
line that it has read. -/
def landMirror (s : State) (m : Mirror) : State :=
  let s := { s with partnerW := s.partnerW.erase m }
  settle (match m.who with
    | .publish ri => bankKept s ri
    | who => resumeOne s who m.reg m.off m.lines [] true)

/-- One PARTNER_WRITE of a mirrored write is acknowledged. -/
def mirrorAcked (s : State) (wid : Nat) : State :=
  match s.partnerW.find? fun m => m.wid == wid with
  | none => s
  | some m =>
    if m.openN ≤ 1 then landMirror s m
    else { s with partnerW := s.partnerW.map fun x => if x.wid = wid then { x with openN := m.openN - 1 } else x }

/-- Lines that reads of a region wait for the partner to give. -/
def wantedOf (s : State) (ri : Nat) : List Nat :=
  ((s.coh.blocked.filter fun b => b.reg == ri).flatMap Blocked.wants).eraseDups

/-- One wait for a partner's line has ended. -/
def gotLine (line : Nat) (b : Blocked) : Blocked :=
  if b.wants.contains line then { b with wants := b.wants.filter (· != line), got := line :: b.got } else b

/-- A line that a PARTNER_READ asked for has come, or not (R418): the reads that waited for it go on. -/
def partnerLineGot (s : State) (line : Nat) : State :=
  settle (s.onCoh fun c => { c with blocked := c.blocked.map (gotLine line) })

/-- A line that a read waits for has no good copy at the partner (R416, R785): it is poisoned, in the copy too. -/
def wantedPoison (s : State) (line : Nat) (tag : Bool) (cause : Byte) : State :=
  match homeOfLine s line with
  | none => s
  | some h =>
    partnerLine (if lineUp s line then (ladderPoison s h tag cause 0).1
      else lostAccess (s.onStack (lineStack line) fun t => { t with tag := if tag then bump t.tag else t.tag }) h 0) h

/-- Marks the partner copy of a region lost (R433, R786), once: waiting writes of it land here alone, and lines that
reads wait for are poisoned (R418, R785). -/
def partnerCopyLost (s : State) (ri : Nat) : State :=
  match s.region? ri with
  | none => s
  | some r =>
    if r.protection ≠ 3 ∨ r.partnerLost then s
    else
      let s := s.onRegion ri fun r => { r with partnerLost := true }
      let s := memPost s r.tenant
        (memEvent s 0x63 stDestLost r.tenant 0 7 ri 0 r.protBase.toNat 3 r.length)
      let s := (s.partnerW.filter fun m => m.reg == ri).foldl landMirror s
      (wantedOf s ri).foldl (fun s l => partnerLineGot (wantedPoison s l false 7) l) s

end Sys2Proof.Machine
end

