-- ==== Sys2Proof/Machine/MemCmds.lean ====
section
/-! DEFINITION. Arrival-counter commands (R134 to R136) and cast publishing (R171 to R177). -/

namespace Sys2Proof.Machine

/-! ### Counters -/

def descTag (d : Desc) : Tag := BitVec.ofNat 16 (Desc.fld d 16 2)
def ctrIndex (d : Desc) : Nat := Desc.fld d 18 2
def ctrCount (d : Desc) : Nat := Desc.fld d 20 2

/-- Body bytes that the counter commands do not use (R135): COUNTER_SET uses VALUE, COUNTER_QUERY HOST_ADDR,
COUNTER_ALLOC not INDEX. -/
def ctrBad (d : Desc) (index value addr : Bool) : Bool :=
  !tagLegal (descTag d) || decide (Desc.fld d 22 2 ≠ 0) || decide (Desc.fld d 32 8 ≠ 0) || decide (Desc.fld d 40 8 ≠ 0)
    || decide (Desc.fld d 48 8 ≠ 0) || (!index && decide (Desc.fld d 18 2 ≠ 0)) || (!value && decide (Desc.fld d 24 8 ≠ 0))
    || (!addr && decide (Desc.fld d 56 8 ≠ 0))

def ctrCred (s : State) (o : Origin) (d : Desc) : Bool := credNames s o (descTag d) && activeOrOp s (descTag d)

/-- The counters of a run. -/
def ctrRun (d : Desc) : List Nat := (List.range (ctrCount d)).map (ctrIndex d + ·)

def heldByOther (s : State) (d : Desc) : Bool :=
  (ctrRun d).any fun c => match s.coh.counters.get? c with
    | some x => x.holder != descTag d
    | none => false

def anyFree (s : State) (d : Desc) : Bool := (ctrRun d).any fun c => decide (c < 65536) && !s.coh.counters.has c

def countBad (d : Desc) : Bool := decide (ctrCount d < 1 ∨ ctrCount d > 1024 ∨ ctrIndex d + ctrCount d > 65536)

/-- The lowest run of free counters (R134). -/
def freeRun (s : State) (n : Nat) : Option Nat :=
  (0 :: s.coh.counters.map fun e => e.1 + 1).find? fun c =>
    decide (c + n ≤ 65536) && s.coh.counters.all fun e => decide (e.1 < c ∨ c + n ≤ e.1)

def specCounterAlloc : CmdSpec where
  op := 0x31
  dest := here
  chk o d s := firstFail [
    (!ctrCred s o d, stTenantDenied),
    (ctrBad d false false false || decide (ctrCount d < 1 ∨ ctrCount d > 1024), stOutOfRange),
    ((freeRun s (ctrCount d)).isNone || (!isOp (descTag d) && decide
      (countersInUse s (descTag d) + ctrCount d > (s.tenant (descTag d).toNat).counterQuota)), stResourceRefused)]
  eff o d _ s :=
    match freeRun s (ctrCount d) with
    | none => complete s o d stResourceRefused []
    | some c =>
      complete (s.onCoh fun h => { h with
        counters := (List.range (ctrCount d)).foldl (fun t i => t.set (c + i) ⟨descTag d, 0⟩) h.counters })
        o d stOk (leBytes 4 c)

/-- COUNTER_ALLOC (R134). -/
def execCounterAlloc (r : CmdRef) (d : Desc) (s : State) := up s (runRow specCounterAlloc r d default)

def specCounterFree : CmdSpec where
  op := 0x32
  dest := here
  chk o d s := firstFail [
    (!ctrCred s o d || heldByOther s d, stTenantDenied),
    (ctrBad d true false false || countBad d, stOutOfRange),
    ((ctrRun d).all fun c => !s.coh.counters.has c, stAlreadyDone)]
  eff o d _ s :=
    complete (s.onCoh fun h => { h with counters := (ctrRun d).foldl (fun t c => t.erase c) h.counters }) o d stOk []

/-- COUNTER_FREE (R134). -/
def execCounterFree (r : CmdRef) (d : Desc) (s : State) := up s (runRow specCounterFree r d default)

def specCounterSet : CmdSpec where
  op := 0x33
  dest := here
  chk o d s := firstFail [
    (!ctrCred s o d || heldByOther s d || anyFree s d, stTenantDenied),
    (ctrBad d true true false || decide (ctrCount d ≠ 1) || countBad d, stOutOfRange)]
  eff o d _ s :=
    complete (s.onCoh fun h => { h with
      counters := h.counters.modify (ctrIndex d) fun x => { x with value := BitVec.ofNat 64 (Desc.fld d 24 8) } }) o d stOk []

/-- COUNTER_SET (R134). -/
def execCounterSet (r : CmdRef) (d : Desc) (s : State) := up s (runRow specCounterSet r d default)

def specCounterQuery : CmdSpec where
  op := 0x34
  dest := here
  chk o d s := firstFail [
    (!ctrCred s o d || heldByOther s d || anyFree s d, stTenantDenied),
    (ctrBad d true false true || countBad d || carriedHere o, stOutOfRange)]
  eff o d _ s :=
    queryOut s o d (Desc.fld d 56 8) ((ctrRun d).flatMap fun c => leBytes 8 (counterValue s c).toNat)

/-- COUNTER_QUERY (R134, R510). -/
def execCounterQuery (r : CmdRef) (d : Desc) (s : State) := up s (runRow specCounterQuery r d default)

/-! ### Cast publishing -/

def pubRegion (d : Desc) : Nat := Desc.fld d 16 2
def pubSource (d : Desc) : Nat := Desc.fld d 18 2

/-- The failure table of CAST_PUBLISH (R176). -/
def publishChk (o : Origin) (d : Desc) (s : State) : Option Status :=
  let r? := s.region? (pubRegion d)
  let q? := s.region? (pubSource d)
  let r := r?.getD default
  let q := q?.getD default
  firstFail [
    (match r? with
      | some r => !credNames s o r.tenant || !activeOrOp s r.tenant ||
          (match q? with
            | some q => q.tenant != r.tenant
            | none => false)
      | none => !isOperator s o && !tagActive s (credOf s o), stTenantDenied),
    (r?.isNone || q?.isNone || r.destroying || q.destroying, stKeyMismatch),
    (decide (Desc.fld d 20 4 ≠ 0) || decide (Desc.fld d 40 8 ≠ 0) || decide (Desc.fld d 48 8 ≠ 0)
      || decide (Desc.fld d 56 8 ≠ 0) || !r.isCast || q.isCast || q.isBacked || decide (q.length ≠ r.length)
      || decide (Desc.fld d 32 8 ≠ (Desc.fld d 24 8 + 1) % 2 ^ 64), stOutOfRange),
    (decide (r.version ≠ Desc.fld d 24 8), stVersionConflict)]

/-- Steps 1 and 2 of R175; the copy runs until CAST_COPY_DONE. -/
def startPublish (s : State) (o : Origin) (d : Desc) : State :=
  (s.onRegion (pubRegion d) fun r => { r with prevServed := false }).onCoh fun c => { c with
    publishes := c.publishes ++ [⟨pubRegion d, pubSource d, Desc.fld d 32 8, o, d, s.now⟩] }

/-- CAST_PUBLISH runs at its place in the order of R108 even when staged: its activation time bounds the
setting of VERSION (R175, step 5). -/
def specCastPublish : CmdSpec where
  op := 0x30
  early := true
  dest := here
  chk := publishChk
  eff o d _ s := startPublish s o d

/-- CAST_PUBLISH (R174 to R176). -/
def execCastPublish (r : CmdRef) (d : Desc) (s : State) := up s (runRow specCastPublish r d default)

/-- An accepted read of a bank is in progress (R175, step 3). -/
def bankRead (s : State) (ri : Nat) (r : Region) (bank : Nat) : Bool :=
  !rangeIdleBank s ri (bank * r.bytes) r.bytes
where
  rangeIdleBank (s : State) (ri lo n : Nat) : Bool :=
    !(s.coh.blocked.any fun b => decide (b.reg = ri) && spanHits b.off 4096 lo n)
    && (match s.sec.measures.get? ri with
        | some m => m.running.all fun v => decide (v % 2 ≠ bank)
        | none => true)

/-- The lines of SOURCE that the cell holds OWNED (R175, step 4). -/
def ownedOf (s : State) (ri : Nat) : List (LineHome × Fin 34) :=
  s.coh.dir.filterMap fun e =>
    match e.st with
    | .owned x =>
      match homeOfLine s e.line with
      | some h => if h.ri = ri then some (h, x) else none
      | none => none
    | _ => none

/-- Reads SOURCE from its start to its end, each line through the ladder (R416). -/
def sourceRead (s : State) (ri : Nat) (q : Region) (fs : List ReadFault) (got : List Nat) : State × List (Nat × LineRes) :=
  if q.isScratch then (s, (List.range (q.bytes / 64)).map fun i => (i, .data (readScratch s q (64 * i) 64)))
  else (List.range (q.bytes / 64)).foldl (fun (acc : State × List (Nat × LineRes)) i =>
    match lineHome acc.1 ri (64 * i) with
    | some h =>
      let (s, res) := readLine acc.1 h fs got 0
      (s, acc.2 ++ [(h.line, res)])
    | none => (acc.1, acc.2 ++ [(0, .poisoned)])) (s, [])

/-- Writes one line of the bank, poison included (R429), taking its copies back; a line that nothing serves
keeps what it has (R431). -/
def copyLine (s : State) (dst doff : Nat) (res : LineRes) : State :=
  match lineHome s dst doff with
  | none => s
  | some h =>
    if !lineServed s h then lostAccess s h 2
    else
      match res with
      | .data d => storeLine (takeBack s h) h d false
      | _ => storeLine (takeBack s h) h (currentData s h) true

/-- Steps 4 and 5 of R175: the lines read stand in the bank, in its partner copy too (R424), and VERSION becomes the new
version. -/
def endPublish (s : State) (p : Publish) (r : Region) (res : List (Nat × LineRes)) : State :=
  let n := r.bytes
  let base := p.version % 2 * n
  let s := (res.zipIdx).foldl (fun s x => copyLine s p.region (base + 64 * x.2) x.1.2) s
  if partnered r then
    partnerKeep s (.publish p.region) p.region r ((List.range (n / 64)).filterMap fun i => lineHome s p.region (base + 64 * i))
  else finishPublish s p r

/-- The publish no longer waits for lines of SOURCE that its partner holds. -/
def publishWaits (s : State) (ri : Nat) : State := s.onCoh fun c => { c with
  blocked := c.blocked.filter fun b => b.who != .publish ri }

/-- CAST_COPY_DONE (R175, R416, R790): the copy is whole, at or after the activation time; lines of SOURCE that only
its partner holds are fetched first, and writes of SOURCE under way end first; a region that became DESTROYING ends the publish with KEY_MISMATCH. -/
def execCastCopyDone (region : BitVec 16) (t : Time) (faults : List ReadFault) (s : State) := up s fun s =>
  let s := s.at_ t
  match s.coh.publishes.find? fun p => p.region == region.toNat with
  | none => s
  | some p =>
    let stop := complete ((publishWaits s p.region).onCoh fun c => { c with publishes := c.publishes.erase p })
      p.origin p.desc stKeyMismatch []
    match s.region? p.region, s.region? p.source with
    | some r, some q =>
      let b := s.coh.blocked.find? fun b => b.who == .publish p.region
      if r.destroying ∨ q.destroying then stop
      else if bankRead s p.region r (p.version % 2) ∨ (Desc.staged p.desc ∧ s.now < Desc.activate p.desc)
        ∨ b.any (fun b => !b.wants.isEmpty) ∨ s.partnerW.any (fun m => m.who == .publish p.region || m.reg == p.source) then s
      else
        let owned := ownedOf s p.source
        if owned ≠ [] then owned.foldl (fun s x => snoop s x.1 x.2 true false) s
        else
          let got := (b.map Blocked.got).getD []
          let (s, res) := sourceRead (publishWaits s p.region) p.source q faults got
          if wantsOf res ≠ [] then
            let hs := (List.range (q.bytes / 64)).filterMap fun i => lineHome s p.source (64 * i)
            awaitPartner ((hs.filter fun h => (wantsOf res).contains h.line).foldl partnerReadReq s) (.publish p.region)
              p.source 0 (wantsOf res) got
          else endPublish s p r res
    | _, _ => stop

end Sys2Proof.Machine
end

