-- ==== Sys2Proof/Machine/HostIf.lean ====
section
/-! DEFINITION. Host ports: rings, taking commands, liveness and ownership, host links, IDE, the mailbox, and
the host commands (11_host_interface.md). -/

namespace Sys2Proof.Machine

/-! ### Access through a port (R21, R509) -/

/-- The port answers an access: present, its link up, and its IDE as the image asks. -/
def portServes (s : State) (p : Nat) : Bool :=
  hpPresent s p && (s.hp p).linkUp && (!s.cfg.ideRequired || ideSecure (s.hp p))

/-- An access through a port, or the answer Unsupported Request that IDE_REQUIRED gives (R509). A port that is
absent or down receives nothing, and one whose link stream failed discards it (R508). -/
def throughPort (s : State) (p : Fin 2) (k : State → State) : State :=
  if !hpPresent s p ∨ !(s.hp p).linkUp ∨ ioFailed (s.hp p) then s
  else if s.cfg.ideRequired ∧ !ideSecure (s.hp p) then s.emit (.unsupported p)
  else k s

/-! ### Parked requests (R100, R531) -/

/-- The fabric access of a parked request, as its checks see it. -/
def parkedAcc (s : State) (p : Packet) : Acc :=
  if p.opcode = opREAD ∨ p.opcode = opREADOWN then fabricAcc s p .read p.lenBytes
  else if p.opcode = opATOMIC then fabricAcc s p .atomic (atomicSize p)
  else fabricAcc s p .write (writeSpan p)

/-- Repeats the translation of one parked request: served when its page is resident, else completed with
TRANSLATION_FAULT, its record written. -/
def retryParked (s : State) (p : Nat) (q : Parked) : State :=
  let s := s.onRgn fun g => { g with parked := g.parked.erase q }
  if q.isLine then retryLine s p q
  else
    let a := parkedAcc s q.arrival.pkt
    match checkAcc s a with
    | .miss off =>
      refuse (missAgain s p q (fabricMiss s q.arrival a.kind off a.len)) q.arrival stTranslationFault
    | _ => retryPacket s q.arrival q.faults

/-- The tenant whose owning host has the fault ring that a parked request waits for: its region's, as at the miss. -/
def parkedTenant (s : State) (q : Parked) : Tag :=
  match s.region? q.page.1 with
  | some r => r.tenant
  | none => q.tenant

/-- The parked requests of the tenants that a port owns, oldest first. -/
def parkedOf (s : State) (p : Nat) : List Parked := s.rgn.parked.filter fun q => decide (ownerOf s (parkedTenant s q) = p)

def retryAll (s : State) (p : Nat) (l : List Parked) : State :=
  l.foldl (fun s q => if faultFull (s.hp p) then s else retryParked s p q) s

/-- PARKED_RETRY (R100): while the owner is LIVE and its ring has space. -/
def execParkedRetry (port : Fin 2) (s : State) := up s fun s =>
  if hostLive s port then retryAll (faultMarker s port) port (parkedOf s port) else s

/-! ### Liveness (R529 to R532) -/

/-- A host becomes, or stays, LIVE: queued event records go to its own rings (R531, step 2). -/
def becomeLive (s : State) (p : Nat) : State :=
  let s := s.onHp p fun h => { h with host := .live, beat := s.now, silentAt := none, overdue := false }
  let s := eventMarker (faultMarker s p) p
  drainEvents (s.hp p).eventQ.length s p

/-- A host stops being LIVE at T0; one that is detached or lost loses its debug sessions (R720). -/
def stopLive (s : State) (p : Nat) (st : HostSt) (t0 : Time) (cause : Byte) : State :=
  let s := if st = .detached then
      s.onSec fun c => { c with sessions := c.sessions.filter fun e => e.2.2 != some (Fin.ofNat 2 p) }
    else s
  s.onHp p fun h => { h with
    host := st
    silentAt := if h.host = .live then some (Nat.min t0 (h.beat + ms 20)) else h.silentAt
    stopCause := if h.host = .live ∨ st = .detached then cause else h.stopCause }

/-- The commands a port has taken run on; their completions are discarded (R530). -/
def orphanAll (s : State) (p : Nat) : State :=
  s.onHp p fun h => { h with inflight := h.inflight.map fun f => { f with orphan := true } }

/-- DETACH (R530). -/
def detachHost (s : State) (p : Nat) : State :=
  if hostAttached (s.hp p) then orphanAll (stopLive s p .detached s.now 1) p else s

def execDetach (port : Fin 2) (s : State) := up s fun s => throughPort s port fun s => detachHost s port

/-- One committed decoder claims the whole ring window (R530). -/
def windowClaimed (h : HostPort) : Bool :=
  h.decoders.any fun d => d.2.committed && decide (d.2.base ≤ ringWindow h) &&
    decide (ringWindow h + 2 ^ 28 ≤ d.2.base + d.2.size)

/-- Sets every ring index and index line of a port to 0, binds ring 0 and disables the others (R530). -/
def resetRings (s : State) (p : Nat) : State :=
  let s := s.onHp p fun h => { h with
    rings := [(0, { (default : Ring) with state := .enabled, binding := opTag })]
    faultCons := 0, faultWritten := 0, eventCons := 0, eventWritten := 0, rr := 0 }
  let s := (List.range 62).foldl (fun s n => putRingLine s p (idxLineOff n) (zeros 64)) s
  putRingLine (putRingLine s p faultIdxOff (zeros 64)) p eventIdxOff (zeros 64)

/-- ATTACH (R530). -/
def attachHost (s : State) (p : Nat) : State :=
  if !hostAttached (s.hp p) ∧ windowClaimed (s.hp p) then
    becomeLive ((resetRings s p).onHp p fun h => { h with attachErr := false }) p
  else s.onHp p fun h => { h with attachErr := true }

def execAttach (port : Fin 2) (s : State) := up s fun s => throughPort s port fun s => attachHost s port

/-- HEARTBEAT (R529). -/
def beatHost (s : State) (p : Nat) : State := if hostAttached (s.hp p) then becomeLive s p else s

def execHeartbeat (port : Fin 2) (s : State) := up s fun s => throughPort s port fun s => beatHost s port

/-- HOST_SILENT (R529): 20 ms without a sign of life. -/
def execHostSilent (port : Fin 2) (t : Time) (s : State) := up s fun s =>
  let s := s.at_ t
  let h := s.hp port
  if h.host = .live ∧ due s.now h.beat (ms 20) then stopLive s port .silent (h.beat + ms 20) 0 else s

/-- The ownership record (R533). -/
def ownerRecord (s : State) (tag : Tag) (src : Nat) (cause : Byte) (tenants stop copied parked : Nat) : List Byte :=
  [0x20, stOk] ++ leBytes 2 tag.toNat ++ [BitVec.ofNat 8 src, cause] ++ leBytes 2 tenants ++ leBytes 8 s.now
    ++ leBytes 8 stop ++ leBytes 4 copied ++ leBytes 4 parked

/-- Unconsumed records of a ring, oldest first. -/
def unconsumed (s : State) (p : Nat) (cons written : BitVec 32) (off : Nat → Nat) : List (List Byte) :=
  (List.range (written - cons).toNat).map fun i => ringLine s p (off (cons + BitVec.ofNat 32 i).toNat)

/-- A record of one of the moved tenants: not a window miss, a marker or a record of the operator domain. -/
def movedRecord (ts : List Nat) (r : List Byte) : Bool :=
  let k := r.getD 0 0
  k != 0x02 && k != 0x0F && k != 0x0E && ts.contains (fieldAt r 2 2)

def postFault (s : State) (p : Nat) (r : List Byte) : State :=
  let s := faultMarker s p
  if hostAttached (s.hp p) ∧ !faultFull (s.hp p) then writeFault s p r else loseFault s p false

/-- Steps 3 to 6 of R531. -/
def moveTenants (s : State) (src dst : Nat) (ts : List Nat) (tag : Tag) (cause : Byte) (stop : Nat) : State :=
  let h := s.hp src
  let faults := (unconsumed s src h.faultCons h.faultWritten faultRingOff).filter (movedRecord ts)
  let events := (unconsumed s src h.eventCons h.eventWritten eventRingOff).filter (movedRecord ts)
  let s := s.onRgn fun g => { g with
    tenants := g.tenants.map fun e => if ts.contains e.1 then (e.1, { e.2 with owner := Fin.ofNat 2 dst }) else e }
  let s := faults.foldl (fun s r => postFault s dst r) s
  let s := events.foldl (fun s r => postEvent s dst opTag r) s
  let parked := (parkedOf s dst).filter fun q => ts.contains (parkedTenant s q).toNat
  let s := postEvent s dst opTag
    (ownerRecord s tag src cause ts.length stop (faults.length + events.length) parked.length)
  let mine := h.eventQ.filter fun e => ts.contains e.1.toNat
  let s := s.onHp src fun h => { h with eventQ := h.eventQ.filter fun e => !ts.contains e.1.toNat }
  let s := mine.foldl (fun s e => postEvent s dst e.1 e.2) s
  retryAll s dst parked

/-- Tenants, not FREE, that a port owns. -/
def ownedTenants (s : State) (p : Nat) : List Nat :=
  (s.rgn.tenants.filter fun e => decide (e.2.state ≠ .free ∧ e.2.owner.val = p)).map Prod.fst

/-- CAUSE of a move (R533): SILENT, where the host has neither been detached nor lost. -/
def moveCause (h : HostPort) : Byte := if h.host = .live then 0 else h.stopCause

/-- OWNERSHIP_MOVE (R531): at the first tick at which its condition holds. -/
def execOwnershipMove (src : Fin 2) (t : Time) (s : State) := up s fun s =>
  let s := s.at_ t
  let h := s.hp src
  let ts := ownedTenants s src
  if !hostLive s src ∧ due s.now (notLiveSince h) (ms 50) ∧ hostLive s (1 - src.val) ∧ ts ≠ [] then
    moveTenants s src (1 - src.val) ts opTag (moveCause h) (notLiveSince h)
  else s

/-- NO_HOST_LIVE (R532). -/
def execNoHostLive (port : Fin 2) (t : Time) (s : State) := up s fun s =>
  let s := s.at_ t
  let h := s.hp port
  if due s.now (notLiveSince h) (ms 50) ∧ !hostLive s 0 ∧ !hostLive s 1 ∧ !h.overdue then
    let l := parkedOf s port
    let s := s.onHp port fun h => { h with overdue := true }
    faultMarker (l.foldl (fun s q =>
      let s := loseFault (s.onRgn fun g => { g with parked := g.parked.erase q }) port true
      if q.isLine then lineDone s q.lineId stFaultOverflow else refuse s q.arrival stFaultOverflow) s) port
  else s

/-! ### Doorbells (R519, R524, R795) -/

def setRing (s : State) (p n : Nat) (r : Ring) : State := s.onHp p fun h => { h with rings := h.rings.set n r }

/-- A write of HIF_CMD_PROD (R524, R540). -/
def cmdProd (s : State) (p n : Nat) (v : BitVec 32) : State :=
  let r := State.ringOf (s.hp p) n
  let past := decide ((v - r.taken).toNat > 4096) && r.state == .enabled
  setRing s p n { r with prod := v, state := if past then .halted else r.state, cause := if past then 1 else r.cause }

def execHifCmdProd (port : Fin 2) (ring : Fin 62) (index : BitVec 32) (s : State) := up s fun s =>
  throughPort s port fun s => cmdProd s port ring index

/-- A write of HIF_CPL_CONS (R524, R540): it passes WRITTEN when it lies less than half the range beyond it. -/
def cplCons (s : State) (p n : Nat) (v : BitVec 32) : State :=
  let r := State.ringOf (s.hp p) n
  let past := decide (0 < (v - r.written).toNat ∧ (v - r.written).toNat < 2 ^ 31) && r.state == .enabled
  setRing s p n { r with cons := v, state := if past then .halted else r.state, cause := if past then 2 else r.cause }

def execHifCplCons (port : Fin 2) (ring : Fin 62) (index : BitVec 32) (s : State) := up s fun s =>
  throughPort s port fun s => cplCons s port ring index

/-- Whether a write of a consumer index takes effect (R795). -/
def consOk (v cons written : BitVec 32) : Bool := decide ((v - cons).toNat ≤ (written - cons).toNat)

/-- A write of HIF_FAULT_CONS (R529, R795). -/
def faultConsWrite (s : State) (p : Nat) (v : BitVec 32) : State :=
  let h := s.hp p
  if consOk v h.faultCons h.faultWritten then
    let s := s.onHp p fun h => { h with faultCons := v }
    if v ≠ h.faultCons ∧ hostAttached h then becomeLive s p else faultMarker s p
  else s

def execHifFaultCons (port : Fin 2) (index : BitVec 32) (s : State) := up s fun s =>
  throughPort s port fun s => faultConsWrite s port index

/-- A write of HIF_EVENT_CONS (R526, R795). -/
def eventConsWrite (s : State) (p : Nat) (v : BitVec 32) : State :=
  let h := s.hp p
  if consOk v h.eventCons h.eventWritten then
    let s := eventMarker (s.onHp p fun h => { h with eventCons := v }) p
    drainEvents (s.hp p).eventQ.length s p
  else s

def execHifEventCons (port : Fin 2) (index : BitVec 32) (s : State) := up s fun s =>
  throughPort s port fun s => eventConsWrite s port index

/-- MSI_X_HOLDOFF (R528): a record written during the holdoff is signalled at its end. -/
def execMsiXHoldoff (port : Fin 2) (vector : Fin 64) (t : Time) (s : State) := up s fun s =>
  let s := s.at_ t
  if (s.hp port).msixPend.contains vector.val then msix s port vector else s

/-! ### Taking commands (R519, R521) -/

/-- Whether a ring's next command may be taken (R519); a host that is DETACHED has none taken (R530). -/
def takeable (s : State) (p n : Nat) : Bool :=
  let h := s.hp p
  let r := State.ringOf h n
  hostAttached h && r.state == .enabled && decide (1 ≤ (r.prod - r.taken).toNat ∧ (r.prod - r.taken).toNat ≤ 4096)
    && decide ((r.taken - r.cons).toNat < 4096) && decide (h.inflight.length < 1024)
    && !(h.inflight.any fun f => decide (f.ring.val = n ∧ f.slot = r.taken))

/-- The ring served next, round-robin by ring index. -/
def nextRing (s : State) (p : Nat) : Option Nat :=
  ((List.range 62).map fun i => ((s.hp p).rr + i) % 62).find? (takeable s p)

/-- The common checks (R521, R523). `defined` says whether an opcode is defined. -/
def commonChk (s : State) (defined : Nat → Bool) (poison : Bool) (cred : Tag) (d : Desc) : Option Status :=
  firstFail [
    (poison, stPoisoned),
    (!defined (Desc.opcode d), stFormatUnsupported),
    (decide (bitsOf (Desc.fld d 1 1) 2 6 ≠ 0) || decide (Desc.fld d 2 2 ≠ 0)
      || (Desc.staged d && decide (Desc.activate d > s.now + 2 ^ 35)), stOutOfRange),
    (!activeOrOp s cred, stTenantDenied)]

/-- Takes the next command of a port: its descriptor is read coherently, and it enters the order of R108. A
command that fails the common checks completes at once. -/
def takeCommand (s : State) (p : Fin 2) (defined : Nat → Bool) : State :=
  match nextRing s p with
  | none => s
  | some n =>
    let r := State.ringOf (s.hp p) n
    let off := cmdRingOff n r.taken.toNat
    match lineHome s (ringIndex p) off with
    | none => s
    | some h =>
      let (s, w) := prepare s [h] .read none false
      if w ≠ [] then s
      else
        let poison := ringLinePoisoned s p off
        let d := Desc.ofBytes (ringLine s p off)
        let ref : CmdRef := ⟨p, Fin.ofNat 62 n, r.taken⟩
        let f : InFlight := ⟨Fin.ofNat 62 n, r.taken, d, s.rgn.order, false, r.binding, false⟩
        let s := s.onRgn fun g => { g with order := g.order + 1 }
        let s := setRing s p n { r with taken := r.taken + 1 }
        let s := s.onHp p fun h => { h with inflight := h.inflight ++ [f], rr := (n + 1) % 62 }
        let s := putRingLine s p (idxLineOff n) (indexLine (r.taken + 1).toNat r.written.toNat s.now)
        let s := traceCommand s r.binding p n r.taken.toNat d 0
        match commonChk s defined poison r.binding d with
        | some st => complete s (.ring ref) d st []
        | none => s

/-! ### Host-interface commands (R534, R535) -/

def specNop : CmdSpec where
  op := 0x01
  dest := here
  chk _ d _ := firstFail [(!Desc.clearOutside d [], stOutOfRange)]
  eff o d _ s := complete s o d stOk []

/-- NOP (R534). -/
def execNop (r : CmdRef) (d : Desc) (s : State) := up s (runRow specNop r d default)

/-- RING of RING_BIND. -/
def bindRing (d : Desc) : Nat := Desc.fld d 16 1

def ringOfOrigin : Origin → Nat
  | .ring r => r.ring.val
  | .carried _ _ _ _ n => n.val

def specRingBind : CmdSpec where
  op := 0x02
  dest := here
  chk o d s :=
    let t : Tag := BitVec.ofNat 16 (Desc.fld d 18 2)
    firstFail [
      (!isOperator s o, stTenantDenied),
      (!Desc.clearOutside d [(128, 8), (136, 1), (144, 16)] || decide (bindRing d = 0 ∨ bindRing d > 61)
        || decide (bindRing d = ringOfOrigin o) || !(decide (t = opTag) || tagActive s t), stOutOfRange),
      ((s.hp (originPort o)).inflight.any fun f => f.ring.val == bindRing d, stResourceRefused)]
  eff o d _ s :=
    let p := originPort o
    let n := bindRing d
    let s := setRing s p n { (default : Ring) with
      state := if Desc.bit d 136 then .enabled else .disabled, binding := BitVec.ofNat 16 (Desc.fld d 18 2) }
    complete (putRingLine s p (idxLineOff n) (zeros 64)) o d stOk []

/-- RING_BIND (R534). -/
def execRingBind (r : CmdRef) (d : Desc) (s : State) := up s (runRow specRingBind r d default)

def specTenantSetOwner : CmdSpec where
  op := 0x03
  dest := here
  chk o d s :=
    let t := descTag d
    let w := b2n (Desc.bit d 144)
    firstFail [
      (!isOperator s o, stTenantDenied),
      (!Desc.clearOutside d [(128, 16), (144, 1)] || !tagActive s t, stOutOfRange),
      (!hostLive s w, stResourceRefused),
      (decide (ownerOf s t = w), stAlreadyDone)]
  eff o d _ s :=
    let t := descTag d
    complete (moveTenants s (ownerOf s t) (b2n (Desc.bit d 144)) [t.toNat] t 3 0) o d stOk []

/-- TENANT_SET_OWNER (R531, R534). -/
def execTenantSetOwner (r : CmdRef) (d : Desc) (s : State) := up s (runRow specTenantSetOwner r d default)

/-! ### CXL.mem (R95, R503) -/

def execMemrd (port : Fin 2) (addr : BitVec 64) (mv : HostMeta) (faults : List ReadFault) (s : State) := up s fun s =>
  serveHost s port (.rd addr.toNat mv) faults

def execMemwr (port : Fin 2) (addr : BitVec 64) (data : List Byte) (s : State) := up s fun s =>
  settle (serveHost s port (.wr addr.toNat data) [])

def execMemwrptl (port : Fin 2) (addr : BitVec 64) (mask : BitVec 64) (data : List Byte) (s : State) := up s fun s =>
  settle (serveHost s port (.wrPtl addr.toNat mask data) [])

/-- Merges what a holder gave back into the line at the home (R160), with its protection; the line is busy until a
partner has acknowledged it (R424). DESIGN CHOICE (log entry 32): it stands at the home meanwhile. -/
def mergeBack (s : State) (h : LineHome) (mask : Nat) (data : List Byte) : State :=
  let w : LineWrite := ⟨h, mask, padTo 64 data⟩
  if mask = 0 ∨ !lands s w then s else partnerLine (landLine s w).1 h

/-- A holder has answered the snoop for a line: its bytes are merged, unless the line has been written as a
whole meanwhile, and it leaves the holders. -/
def snoopDone (s : State) (line : Nat) (x : Fin 34) (mask : Nat) (data : List Byte) : State :=
  match s.coh.recalls.find? fun r => decide (r.line = line ∧ r.holder = x) with
  | none => s
  | some r =>
    let s := s.onCoh fun c => { c with recalls := c.recalls.erase r }
    let s := if r.owned ∧ !r.drop then
        match homeOfLine s line with
        | some h => mergeBack s h mask data
        | none => s
      else s
    settle (if r.drop then s else dirRemove s line x)

/-- BISNP_RESPONSE (R503): the host's copy comes back, with its data when it had written them; discarded after a
failure of the CXL.cachemem stream (R508). -/
def execBisnpResponse (port : Fin 2) (line : Nat) (data : Option (List Byte)) (s : State) := up s fun s =>
  if ((s.hp port).ide.getD 2 default).failed then s
  else match data with
  | some d => snoopDone s line (Fin.ofNat 34 port.val) fullMask d
  | none => snoopDone s line (Fin.ofNat 34 port.val) 0 []

/-! ### Losing a member of the cell (R163, R164) -/

/-- The lines that a member holds OWNED, as one list for each region (R444). -/
def ownedBy (s : State) (x : Fin 34) : List LineHome :=
  s.coh.dir.filterMap fun e => if e.st = .owned x then homeOfLine s e.line else none

/-- Poisons the lines a member held OWNED, one record a region, and takes it out of every set and recall. -/
def memberLost (s : State) (x : Fin 34) (cause : Byte) : State :=
  let hs := ownedBy s x
  let s := hs.foldl (fun s h => partnerLine (storeLine s h (currentData s h) true) h) s
  let s := ((hs.map LineHome.ri).eraseDups).foldl (fun s ri =>
    let l := hs.filter fun h => h.ri == ri
    match l with
    | [] => s
    | h :: _ =>
      let m := l.foldl (fun (m : LineHome) g => if g.off < m.off then g else m) h
      poisonEvent s m cause 3 l.length) s
  let s := s.onCoh fun c => { c with recalls := c.recalls.filter fun r => r.holder != x }
  settle ((s.coh.dir.map DirEntry.line).foldl (fun s l => dirRemove s l x) s)

/-- A host is lost (R163): its lines, its waiting requests, its attachment. -/
def hostGone (s : State) (p : Fin 2) : State :=
  let s := s.onCoh fun c => { c with blocked := c.blocked.filter fun b => match b.who with
    | .host q _ => q != p
    | _ => true }
  let s := memberLost s (Fin.ofNat 34 p.val) 4
  if hostAttached (s.hp p) then orphanAll (stopLive s p .detached s.now 2) p else s

/-- HOST_LOST (R163): PERST_N of the port. -/
def execHostLost (port : Fin 2) (s : State) := up s fun s =>
  hostGone (s.onHp port fun h => { h with linkUp := false, cxlMem := false }) port

/-- HOST_LINK_DOWN (R499). -/
def execHostLinkDown (port : Fin 2) (s : State) := up s fun s =>
  hostGone (s.onHp port fun h => { h with linkUp := false, cxlMem := false }) port

/-- BISNP_TIMEOUT (R162, R163). -/
def execBisnpTimeout (port : Fin 2) (line : Nat) (t : Time) (s : State) := up s fun s =>
  let s := s.at_ t
  match s.coh.recalls.find? fun r => decide (r.line = line ∧ r.holder.val = port.val) with
  | some r => if due s.now r.since (ms 1) then hostGone s port else s
  | none => s

/-- HOST_LINK_UP (R500): CXL.mem is offered at 64 GT/s, x8, in 256 B flit mode alone. The host's enumeration
sets Bus Master Enable and back-invalidate enable with it. DESIGN CHOICE (log entry 14). -/
def execHostLinkUp (port : Fin 2) (gts width : Nat) (flit256 bme bi : Bool) (s : State) := up s fun s =>
  if hpPresent s port then
    (s.emit (.function port 0x6476 0xB0 0x050210)).onHp port fun h => { h with
      linkUp := true, cxlMem := decide (gts = 64 ∧ width = 8) && flit256, bme := bme, biEnable := bi }
  else s

/-- HDM_DECODER_COMMIT (R501, R502). -/
def execHdmDecoderCommit (port : Fin 2) (decoder : Fin 8) (base : BitVec 64) (size ways : Nat) (s : State) := up s fun s =>
  throughPort s port fun s =>
    let h := s.hp port
    let others := (h.decoders.filter fun d => d.1 != decoder.val && d.2.committed).map fun d => d.2.size
    let ok := h.biEnable && decide (ways = 1) && decide (others.sum + size ≤ 2 ^ 40)
    let dec : Decoder := if ok then ⟨base.toNat, size, true, false⟩ else ⟨base.toNat, size, false, true⟩
    s.onHp port fun h => { h with decoders := h.decoders.set decoder dec }

/-! ### The mailbox (R505) -/

/-- Answers a mailbox command. Opcodes are those of CXL 3.1, PRESUMED (log entry 15); the payload holds what
the manual gives: the capacity, or no record, since poison is not reported through the logs. -/
def mailbox (s : State) (p : Fin 2) (op : BitVec 16) (ok : Bool) (data : List Byte) : State :=
  throughPort s p fun s => s.emit (.mailbox p op ok data)

def execIdentifyMemoryDevice (port : Fin 2) (s : State) := up s fun s => mailbox s port 0x4000 true (leBytes 8 (2 ^ 40))
def execGetSupportedLogs (port : Fin 2) (s : State) := up s fun s => mailbox s port 0x0400 true []
def execGetLog (port : Fin 2) (s : State) := up s fun s => mailbox s port 0x0401 true []
def execGetHealthInfo (port : Fin 2) (s : State) := up s fun s => mailbox s port 0x4200 true []
def execGetEventRecords (port : Fin 2) (s : State) := up s fun s =>
  mailbox s port 0x0100 true ((s.hp port).mboxEvents.flatten)
def execClearEventRecords (port : Fin 2) (s : State) := up s fun s =>
  mailbox (throughPort s port fun s => s.onHp port fun h => { h with mboxEvents := [] }) port 0x0101 true []
def execMailboxUnsupported (port : Fin 2) (opcode : BitVec 16) (s : State) := up s fun s => mailbox s port opcode false []

/-! ### IDE (R506 to R508) -/

def ideKey : IdeStream → Nat
  | .link => 0
  | .selective => 1
  | .cachemem => 2

def onIde (s : State) (p : Nat) (x : IdeStream) (f : IdeSt → IdeSt) : State :=
  s.onHp p fun h => { h with ide := h.ide.set (ideKey x) (f (h.ide.getD (ideKey x) default)) }

/-- K_SET_GO (R507): the transmitter moves to the other key set. -/
def execKSetGo (port : Fin 2) (stream : IdeStream) (s : State) := up s fun s =>
  onIde s port stream fun i => if i.keys.has (1 - i.txSet.val) then { i with txSet := 1 - i.txSet } else i

/-- The SPDM session of a port, opened where none is (R506, R689, R690): its ephemeral key comes from the noise source
through SHAKE256, and the identity key signs the exchange. Without an identity there is none (R687). That the session is
opened with the first key is DEDUCED (log entry 189). -/
def openSpdm (s : State) (p : Nat) : State :=
  if (s.hp p).spdm.isSome || !s.sec.keyReady then s
  else
    let k := shake256 (Config.noise s.sec.noiseN)
    (s.onSec fun c => { c with noiseN := c.noiseN + 1 }).onHp p fun h =>
      { h with spdm := some ⟨k, idSign s.sec.seed (Config.spdmTranscript k)⟩ }

/-- IDE_KM KEY_PROG (R506, R508): over an SPDM session, the key stands in its set, and the stream is Secure. -/
def execIdeKmKeyProg (port : Fin 2) (stream : IdeStream) (set : Fin 2) (key : BitVec 256) (s : State) := up s fun s =>
  let s := openSpdm s port
  if (s.hp port).spdm.isNone then s
  else onIde s port stream fun i =>
    { secure := true, failed := false, txSet := if i.secure then i.txSet else set, keys := i.keys.set set key }

/-- An integrity failure (R508). -/
def execIdeCheckFailed (port : Fin 2) (stream : IdeStream) (s : State) := up s fun s =>
  (onIde s port stream fun i => { i with secure := false, failed := true }).onHp port fun h =>
    { h with aer := "IDE Check Failed" :: h.aer }

end Sys2Proof.Machine
end

