-- ==== Sys2Proof/Machine/Integrity.lean ====
section
/-! DEFINITION. Partner copies (R196, R423 to R425, R433 to R437), stack loss, patrol scrub and refresh
(09_pool_integrity.md). -/

namespace Sys2Proof.Machine

/-! ### Messages of the partner protocol -/

/-- A MGMT packet of a message. -/
def isMsg (a : Arrival) (m : Nat) : Bool := a.pkt.opcode == opMGMT && a.pkt.msg == m

/-- A MGMT answer (R192): a response on VC6 that echoes the request's SEQ. -/
def mgmtAnswer (s : State) (p : Packet) (payload : List Byte) : Packet :=
  Packet.sealed { answer s.now p opMGMT stOk false false payload with w20 := 0, tenant := opTag }

/-- Ends a MGMT request with its answer, which a duplicate is sent again. -/
def answerMgmt (s : State) (a : Arrival) (payload : List Byte) : State :=
  finishReq s a stOk (mgmtAnswer s a.pkt payload) true

def ackReq (s : State) (a : Arrival) : State := finishReq s a stOk (ackOf s a.pkt stOk) false

/-- Granules of a partner copy. -/
def copySpans (c : PartnerCopy) : List Span := spreadSpans (stackList c.stacks_) c.protBase.toNat c.length

/-- The partner's choice of a copy's place (R196, R423): SPREAD over its stacks in service. -/
def grantPlace (s : State) (len : Nat) (k : Pick) : Option Nat :=
  let l := stackList (stacksNow s)
  if l = [] ∨ s.pool.copies.length ≥ 1024 ∨ len = 0 then none
  else (pickSlot (heldSpans s) k.slot fun c => spreadSpans l (mkGranule (l.headD 0) c) len).map
    fun c => mkGranule (l.headD 0) c

/-- GRANT_REQ at the partner (R196). -/
def grantReqZs (s : State) (a : Arrival) (k : Pick) : State :=
  let y := a.pkt.payload
  let len := fieldAt y 4 4
  let tag : Tag := BitVec.ofNat 16 (fieldAt y 2 2)
  match grantPlace s len k with
  | none => answerMgmt s a (grantPayload 0xB4 stResourceRefused tag 0 0 0 0)
  | some g =>
    let st := stacksNow s
    let c : PartnerCopy := ⟨a.pkt.src, fieldAt y 14 2, BitVec.ofNat 24 g, len, st, tag, false⟩
    let s := scrubSpans s (copySpans c)
    let s := s.onPool fun p => { p with copies := p.copies ++ [c] }
    answerMgmt s a (grantPayload 0xB4 stOk tag len g st 0)

/-- The copy of a home that holds a granule. -/
def copyWith (s : State) (home : Node) (g : Nat) : Option PartnerCopy :=
  s.pool.copies.find? fun c => decide (c.home = home) && (copySpans c).any fun x =>
    decide (x.stack = gStack g ∧ x.start ≤ gSlot g ∧ gSlot g < x.start + x.count)

/-- PARTNER_FREE at the partner (R196); an orphaned copy stays (R434). -/
def partnerFreeZs (s : State) (a : Arrival) : State :=
  let g := fieldAt a.pkt.payload 8 4
  match s.pool.copies.find? fun c => decide (c.home = a.pkt.src ∧ c.protBase.toNat = g) && !c.orphaned with
  | none => ackReq s a
  | some c => ackReq ((scrubSpans s (copySpans c)).onPool fun p => { p with copies := p.copies.erase c }) a

/-- The header of a PARTNER_WRITE or PARTNER_READ: COUNT, GRANULE, FIRST. -/
def partnerHeadOf (y : List Byte) : Nat × Nat × Nat := (fieldAt y 1 1, fieldAt y 4 3, fieldAt y 8 2)

/-- The metadata in a line image. -/
def imageMeta (b : List Byte) : LineMeta :=
  let f := fieldAt b 67 1
  ⟨BitVec.ofNat 16 (fieldAt b 64 2), BitVec.ofNat 8 (fieldAt b 66 1), bitOf f 0, bitOf f 1, bitOf f 2, BitVec.ofNat 4 (f / 8)⟩

def imageAt (y : List Byte) (i : Nat) : List Byte := (y.drop (16 + 68 * i)).take 68

/-- PARTNER_WRITE at the partner (R425). An orphaned copy stays unchanged (R434). DESIGN CHOICE (log entry 185): a late
PARTNER_WRITE to it is refused with TENANT_DENIED. -/
def partnerWriteZs (s : State) (a : Arrival) : State :=
  let (n, g, f) := partnerHeadOf a.pkt.payload
  if (copyWith s a.pkt.src g).all PartnerCopy.orphaned then refuse s a stTenantDenied
  else if n < 1 ∨ n > 29 ∨ f + n > 1024 then refuse s a stFormatUnsupported
  else
    let s := (List.range n).foldl (fun s i =>
      let b := imageAt a.pkt.payload i
      let line := g * 1024 + f + i
      if lineUp s line then setLine s line (b.take 64) { imageMeta b with copy := true } else s) s
    ackReq s a

/-- The TENANT that a line of a copy is read with: another one, where its third read gave that (R416). -/
def imageTag (s : State) (fs : List ReadFault) (l : Nat) (tag : Tag) : Tag :=
  match faultOf fs l with
  | some f => if f.fails ≥ 3 then f.tag.getD (lineMeta s l tag).tenant else (lineMeta s l tag).tenant
  | none => (lineMeta s l tag).tenant

/-- PARTNER_READ at the partner (R425): every line must pass its CRC on one of three reads. The home checks the TENANT
of each image (R418). -/
def partnerReadZs (s : State) (a : Arrival) (fs : List ReadFault) : State :=
  let (n, g, f) := partnerHeadOf a.pkt.payload
  let lines := (List.range n).map fun i => g * 1024 + f + i
  match copyWith s a.pkt.src g with
  | none => refuse s a stTenantDenied
  | some c =>
    if n < 1 ∨ n > 29 ∨ f + n > 1024 then refuse s a stFormatUnsupported
    else
      let good := lines.all fun l => pieceOk s fs l c.tenant || pieceTagBad s fs l c.tenant
      let s := notePieces s fs lines c.tenant
      if good then
        answerMgmt s a (partnerHead 0x92 n g f ++ lines.flatMap fun l =>
          imageBytes (lineData s l) { lineMeta s l c.tenant with tenant := imageTag s fs l c.tenant })
      else refuse s a stPoisoned

/-- The line that a PARTNER_READ asked for has come (R418, R431): it stands in the line's place, and the reads
that wait for it go on. -/
def partnerDataGot (s : State) (line : Nat) (payload : List Byte) : State :=
  if !lineWanted s line then s else
  match homeOfLine s line with
  | none => partnerLineGot s line
  | some h =>
    let b := imageAt payload 0
    let md := imageMeta b
    if md.tenant ≠ h.r.tenant then partnerLineGot (wantedPoison s line true 1) line
    else
      let why : Byte := if (lineMeta s line h.r.tenant).tenant ≠ h.r.tenant then 1 else 0
      let s := setLine s line (b.take 64) ⟨h.r.tenant, md.epoch, md.poison, false, false, 0⟩
      let s := if lineUp s line then writeBackDue s ⟨line, why, 0⟩ else s
      partnerLineGot s line

/-- The PARTNER_READ has failed: no good copy, so the line is poisoned (R416, R785). -/
def partnerDataFailed (s : State) (line : Nat) : State :=
  if lineWanted s line then partnerLineGot (wantedPoison s line false 3) line else s

/-- The partner's grant, or its refusal, ends REGION_CREATE (R75, R107). -/
def grantGot (s : State) (o : Origin) (d : Desc) (k : Pick) (payload : List Byte) : State :=
  let st : Status := payload.getD 1 0
  if st ≠ stOk then complete s o d stResourceRefused []
  else
    let g := fieldAt payload 8 4
    let r := wanted s d
    match createChk o d s with
    | none => createNow s o d k (some (g, BitVec.ofNat 16 (fieldAt payload 12 2)))
    | some e =>
      sendMgmt (complete s o d e []) (.partnerFree 65536) r.partner (grantPayload 0xB5 0 r.tenant 0 g 0 k.index)

/-! ### PARTNER_ADOPT and PARTNER_RELEASE (R435 to R437) -/

def adoptEntry (s : State) (d : Desc) : Option PartnerCopy :=
  s.pool.copies.find? fun c => decide (c.home = BitVec.ofNat 16 (Desc.fld d 16 2)
    ∧ c.protBase.toNat = Desc.fld d 24 4)

def partnerRows (s : State) (o : Origin) (d : Desc) (adopt : Bool) : List (Bool × Status) :=
  let t : Tag := BitVec.ofNat 16 (Desc.fld d 18 2)
  let e := adoptEntry s d
  let fields := if adopt then [(128, 96), (224, 8)] else [(128, 32), (192, 32)]
  [(!isOperator s o || (match e with
      | some c => c.tenant != tagOf t
      | none => false) || (adopt && !activeOrOp s t), stTenantDenied),
   ((match e with
      | some c => !c.orphaned
      | none => true) || !Desc.clearOutside d fields || !tagLegal t
      || (adopt && decide (bitsOf (Desc.fld d 28 1) 5 3 ≠ 0)), stOutOfRange)]

/-- The region that PARTNER_ADOPT makes of an entry. -/
def adoptedRegion (s : State) (d : Desc) (c : PartnerCopy) : Region :=
  { (default : Region) with
    base := c.protBase, length := c.length, tenant := c.tenant, rights := BitVec.ofNat 8 (Desc.fld d 28 1)
    modes := 0x20, place := BitVec.ofNat 8 (plSPREAD + 16 * gStack c.protBase.toNat)
    keyCurrent := BitVec.ofNat 32 (Desc.fld d 20 4), stacks_ := c.stacks_, createTime := s.now }

def specPartnerAdopt : CmdSpec where
  op := 0x80
  dest := here
  chk o d s :=
    let c := (adoptEntry s d).getD default
    firstFail (partnerRows s o d true ++ [
      ((freeRegion s default).isNone || (!isOp c.tenant &&
        (decide (poolInUse s c.tenant + c.length > (s.tenant c.tenant.toNat).poolQuota)
         || decide (regionsInUse s c.tenant + 1 > (s.tenant c.tenant.toNat).regionQuota))), stResourceRefused)])
  eff o d k s :=
    match adoptEntry s d, freeRegion s k with
    | some c, some ri =>
      let r := adoptedRegion s d c
      -- the lines of the copy become lines of the region
      let s := s.onPool fun p => { p with
        copies := p.copies.erase c
        lmeta := p.lmeta.map fun e =>
          if (copySpans c).any (fun x => decide (x.stack = lineStack e.1 ∧ x.start ≤ gSlot (e.1 / 1024)
            ∧ gSlot (e.1 / 1024) < x.start + x.count)) then (e.1, { e.2 with copy := false }) else e }
      complete (s.onRgn fun g => { g with regions := g.regions.set ri r }) o d stOk (leBytes 4 ri)
    | _, _ => complete s o d stResourceRefused []

/-- PARTNER_ADOPT (R435). -/
def execPartnerAdopt (r : CmdRef) (d : Desc) (k : Pick) (s : State) := up s (runRow specPartnerAdopt r d k)

def specPartnerRelease : CmdSpec where
  op := 0x81
  dest := here
  chk o d s := firstFail (partnerRows s o d false)
  eff o d _ s :=
    match adoptEntry s d with
    | some c => complete ((scrubSpans s (copySpans c)).onPool fun p => { p with copies := p.copies.erase c }) o d stOk []
    | none => complete s o d stOutOfRange []

/-- PARTNER_RELEASE (R435). -/
def execPartnerRelease (r : CmdRef) (d : Desc) (s : State) := up s (runRow specPartnerRelease r d default)

/-! ### Lines and stacks -/

/-- The data line that a mirror or parity line protects. -/
def protectedBy (s : State) (line : Nat) : Option LineHome :=
  let rings := (List.range 2).filterMap fun p => if hpPresent s p then some (ringIndex p, ringRegion s p) else none
  (s.rgn.regions ++ rings).findSome? fun e =>
    (List.range e.2.dataGranules).findSome? fun i =>
      match granuleOf s e.1 e.2 i with
      | none => none
      | some g =>
        let h : LineHome := ⟨e.1, e.2, i, line % 1024, g * 1024 + line % 1024⟩
        if (e.2.protection = 1 ∧ h.mirror = line) ∨ (e.2.protection = 2 ∧ h.parity = line) then some h else none

/-- The line itself, or the data line that it protects. -/
def protectedHome (s : State) (line : Nat) : Option LineHome := (homeOfLine s line).or (protectedBy s line)

/-- The rebuilds of a region not yet reported, and its last record (R444); a ring region's stand beside the table. -/
def bookOf (s : State) (ri : Nat) : RebuildBook :=
  if ri < 65536 then (match s.region? ri with
    | some r => ⟨r.lastRebuild, r.rebuilds⟩
    | none => default)
  else s.pool.ringBooks.getD ri default

def setBook (s : State) (ri : Nat) (b : RebuildBook) : State :=
  if ri < 65536 then s.onRegion ri fun r => { r with lastRebuild := b.last, rebuilds := b.rebuilds }
  else s.onPool fun p => { p with ringBooks := p.ringBooks.set ri b }

/-- Of the lines rebuilt, the one with the lowest offset in its region (R443). -/
def lowestRebuilt (s : State) (ws : List WriteBack) : Option (LineHome × WriteBack) :=
  (ws.filterMap fun w => (protectedHome s w.line).map fun h => (h, w)).foldl (fun m x => match m with
    | none => some x
    | some y => if x.1.off < y.1.off then some x else some y) none

/-- A KIND 0x60 record of a region, for the rebuilds it covers, once 1 ms has passed since its last (R444). -/
def rebuildReport (s : State) (ri : Nat) : State :=
  let b := bookOf s ri
  if b.rebuilds = [] ∨ !(b.last.all fun t => due s.now t (ms 1)) then s
  else
    let s := setBook s ri ⟨some s.now, []⟩
    match lowestRebuilt s b.rebuilds with
    | none => s
    | some (h, w) => memPost s h.r.tenant
        (memEvent s 0x60 stOk h.r.tenant (lineStack w.line) w.cause (recRegion h) h.off (w.line / 1024) w.source b.rebuilds.length)

/-- REBUILD_WRITEBACK (R417, R444): counts, and a KIND 0x60 record unless the region has had one within 1 ms. -/
def execRebuildWriteback (line : Nat) (s : State) := up s fun s =>
  match s.pool.rebuildWb.find? fun w => w.line == line with
  | none => s
  | some w =>
    let s := s.onPool fun p => { p with rebuildWb := p.rebuildWb.erase w }
    let s := bumpCorrected (s.onStack (lineStack line) fun t => { t with rebuilt := bump t.rebuilt })
    match protectedHome s line with
    | none => s
    | some h =>
      let b := bookOf s h.ri
      rebuildReport (setBook s h.ri { b with rebuilds := b.rebuilds ++ [w] }) h.ri

/-- Rebuilds not yet reported are, once 1 ms has passed since their region's last record (R444). -/
def rebuildsGo (s : State) : State :=
  ((s.rgn.regions.filter fun e => !e.2.rebuilds.isEmpty).map Prod.fst ++ s.pool.ringBooks.map Prod.fst).foldl rebuildReport s

/-- STACK_LOST (R430): the stack's interface reports a failure it cannot retrain. -/
def execStackLost (stack : Fin 16) (s : State) := up s fun s => if stackUp s stack then declareStackLost s stack else s

/-- The refresh row of a temperature (R441). -/
def refreshRow (t : Nat) : Fin 4 := if t ≤ 85 then 0 else if t ≤ 95 then 1 else if t ≤ 105 then 2 else 3

/-- The rate after a crossing, with 3 °C of hysteresis as it falls (R442). -/
def refreshNext (cur : Fin 4) (t : Nat) : Fin 4 :=
  if refreshRow t > cur then refreshRow t else if refreshRow (t + 3) < cur then refreshRow (t + 3) else cur

/-- REFRESH_RATE_CHANGE (R441, R442). -/
def execRefreshRateChange (stack : Fin 16) (temp : Nat) (s : State) := up s fun s =>
  if quadUp s (stack.val / 4) then
    s.onStack stack fun t => { t with temp := temp, refresh := refreshNext t.refresh temp }
  else s

/-! ### Patrol scrub (R438 to R440) -/

/-- Scrub priority (R67): PIN, HOT, WARM, COLD; ring regions and partner copies come with COLD. -/
def scrubRank (r : Region) : Nat := if r.hint = 3 then 0 else if r.hint = 0 then 1 else if r.hint = 1 then 2 else 3

/-- What a stack's patrol visits, in order. -/
def patrolSpans (s : State) (k : Nat) : List Span :=
  let all : List (Nat × Span) :=
    (s.rgn.regions.flatMap fun e => (regionSpans e.2).map fun x => (scrubRank e.2, x))
    ++ (rangeSpans s).map (fun x => (3, x))
    ++ (s.pool.copies.flatMap copySpans).map (fun x => (3, x))
    ++ ((List.range 2).flatMap fun p => if hpPresent s p then (regionSpans (ringRegion s p)).map (fun x => (3, x)) else [])
  let mine := all.filter fun x => decide (x.2.stack = k ∧ x.2.count ≠ 0)
  (mine.mergeSort fun a b => decide (a.1 * 2 ^ 20 + a.2.start ≤ b.1 * 2 ^ 20 + b.2.start)).map Prod.snd

/-- The `n`th granule of spans. -/
def nthGranule : List Span → Nat → Option Nat
  | [], _ => none
  | x :: t, n => if n < x.count then some (mkGranule x.stack (x.start + n)) else nthGranule t (n - x.count)

/-- Writes a line's protection anew from its data lines. -/
def rewriteProt (s : State) (h : LineHome) : State :=
  let md := lineMeta s h.line h.r.tenant
  if h.r.protection = 1 then setLine s h.mirror (lineData s h.line) { md with copy := true }
  else
    let all := h.line :: h.peers s
    let pm := lineMeta s h.parity h.r.tenant
    setLine s h.parity (all.foldl (fun d l => xorBytes d (lineData s l)) (zeros 64))
      { pm with
        tenant := h.r.tenant, parity := true
        epoch := all.foldl (fun e l => e + (lineMeta s l h.r.tenant).epoch) 0 }

/-- A line's protection differs from it (R439). -/
def diverged (s : State) (h : LineHome) : Bool :=
  if h.r.protection = 1 then
    lineUp s h.mirror && (decide (lineData s h.mirror ≠ lineData s h.line) ||
      decide ((lineMeta s h.mirror h.r.tenant).epoch ≠ (lineMeta s h.line h.r.tenant).epoch))
  else if h.r.protection = 2 then
    parityUsable s h && decide (lineData s h.parity ≠ (h.line :: h.peers s).foldl (fun d l => xorBytes d (lineData s l)) (zeros 64))
  else false

/-- Poisons a protection line, or a line of a copy held for another switch, whose rebuild fails (R416, R785). -/
def poisonProt (s : State) (line : Nat) (tag : Tag) (region off : Nat) (tagBad : Bool) (cause : Byte) : State :=
  let md := lineMeta s line tag
  let s := setLine s line (lineData s line) { md with epoch := md.epoch + 1, poison := true }
  let s := s.onStack (lineStack line) fun t => { t with
    poisoned := bump t.poisoned, tag := if tagBad then bump t.tag else t.tag }
  memPost s tag (memEvent s 0x61 stPoisoned tag (lineStack line) cause region off (line / 1024) 1 1)

/-- Region offset, at its home, of a line of a partner copy (R423). -/
def copyOff (c : PartnerCopy) (line : Nat) : Nat :=
  let l := stackList c.stacks_
  let g := line / 1024
  let n := l.length
  let j := l.idxOf (gStack c.protBase.toNat)
  ((gSlot g - gSlot c.protBase.toNat) * n + (l.idxOf (gStack g) + n - j) % n) * 65536 + line % 1024 * 64

/-- The scrub read of a mirror line, a parity line or a line of a partner copy (R438, R439): the first two are
rebuilt from the data lines. -/
def scrubProt (s : State) (line : Nat) (f : ReadFault) (fs : List ReadFault) : State :=
  let k := lineStack line
  let why : Byte := if f.tag.isSome then 1 else 0
  if f.fails = 0 then noteRead s k true
  else if f.fails < 3 then bumpCorrected ((noteRead s k true).onStack k fun t => { t with reread := bump t.reread })
  else
    let s := noteRead s k false
    if (s.stack k).lost then s
    else
      match protectedBy s line with
      | some h =>
        let ps := if h.r.protection = 1 then [h.line] else h.line :: h.peers s
        let bad := ps.any fun l => pieceTagBad s fs l h.r.tenant
        let s := notePieces s fs ps h.r.tenant
        if ps.all fun l => pieceOk s fs l h.r.tenant then writeBackDue (rewriteProt s h) ⟨line, why, 1⟩
        else if (lineMeta s line h.r.tenant).poison then s
        else poisonProt s line h.r.tenant h.ri h.off bad (if bad then 1 else 3)
      | none =>
        match s.pool.copies.find? fun c => (copySpans c).any fun x =>
            decide (x.stack = k ∧ x.start ≤ gSlot (line / 1024) ∧ gSlot (line / 1024) < x.start + x.count) with
        | some c =>
          if (lineMeta s line c.tenant).poison then s
          else poisonProt s line c.tenant c.region (copyOff c line) false why
        | none => s

/-- The scrub of one line: through the ladder, then its protection is checked (R439). -/
def scrubLine (s : State) (line : Nat) (fs : List ReadFault) : State :=
  let k := lineStack line
  match homeOfLine s line with
  | some h =>
    let (s, r) := readLine s h fs [] 1
    match r with
    | .data _ =>
      if lineUp s line ∧ diverged s h then (rewriteProt s h).onStack k fun t => { t with diverged := bump t.diverged } else s
    | _ => s
  | none => scrubProt s line ((faultOf fs line).getD ⟨line, 0, none⟩) fs

/-- PATROL_SCRUB_READ (R438 to R440). -/
def execPatrolScrubRead (stack : Fin 16) (faults : List ReadFault) (s : State) := up s fun s =>
  if !stackUp s stack then s
  else
    let xs := patrolSpans s stack
    let t := s.stack stack
    match nthGranule xs (t.cursor / 1024) with
    | none => s.onStack stack fun t => { t with cursor := 0, granules := 0, passes := t.passes + 1 }
    | some g =>
      let s := scrubLine s (g * 1024 + t.cursor % 1024) faults
      let s := s.onStack stack fun t => { t with cursor := t.cursor + 1, granules := (t.cursor + 1) / 1024 }
      if (nthGranule xs ((t.cursor + 1) / 1024)).isNone then
        s.onStack stack fun t => { t with cursor := 0, granules := 0, passes := t.passes + 1 }
      else s

end Sys2Proof.Machine
end

