-- ==== Sys2Proof/Machine/SwCmds.lean ====
section
/-! DEFINITION. Packets through the switch core, Runners, the switch-core commands (05_switch_core.md), and the
end-point commands with their EPC messages at the switch (R585 to R587). -/

namespace Sys2Proof.Machine

/-! ### Packets through the core (R231, R238, R246, R256) -/

/-- What an UNLOCKED switch accepts from VC0 to VC6: MGMT packets, and ACK, NACK and HOLD, which answer them. DEDUCED:
R601 names the MGMT packets alone, and R585 has an EPC_WRITE answered by ACK. -/
def unlockedOk (p : Packet) : Bool :=
  p.opcode == opMGMT || p.opcode == opACK || p.opcode == opNACK || p.opcode == opHOLD

/-- Forwards a packet that has arrived on a port and VC. Snoops and results addressed to this switch are discarded
(R191). -/
def forwardPacket (s : State) (port : Fin 64) (vc : Fin 8) (pkt : Packet) : State :=
  let q := quadOf port
  -- an UNLOCKED switch accepts only TIMEFAULT and MGMT packets (R601), and the answers of the latter; a TIMEFAULT
  -- goes no further than this hop
  if (s.flt.tn.lock = .unlocked ∧ !unlockedOk pkt) ∨ pkt.opcode = opTIMEFAULT then s else
  let s := tracePacket s port pkt
  match routeOf s pkt vc (some port) with
  | .mcast => mcastForward s pkt q (some port) vc
  | .here =>
    -- a switch discards these (R191, R396), and a response of no opcode resolves nothing (R202)
    if pkt.opcode = opSNOOPINV ∨ pkt.opcode = opSNOOPRECALL ∨ pkt.opcode = opRESULT
      ∨ (isResponseOp pkt.opcode ∧ (vcOf pkt.opcode).isNone) then s
    else
      let id := s.swc.nextId
      (storePacket s pkt q (some port) vc 1).onSwc fun c => { c with delivered := c.delivered ++ [(id, pkt)] }
  | r =>
    match routePort r with
    | none => countNoroute s
    | some p =>
      let id := s.swc.nextId
      enqueue (storePacket (routeTaken s r) pkt q (some port) vc 1) id pkt p vc (some port)

/-- Takes a packet out of those that the port has received whole. -/
def takeRx (s : State) (port : Fin 64) (vc : Fin 8) (pkt : Packet) : State :=
  s.onLnk fun l => { l with rx := l.rx.erase (port, vc, pkt) }

/-- PACKET_FORWARD (R246). A port out of service has no packet but those received whole before (R470). -/
def execPacketForward (port : Fin 64) (vc : Fin 8) (pkt : Packet) (s : State) := up s fun s =>
  if portUp s port ∨ s.lnk.rx.contains (port, vc, pkt) then forwardPacket (takeRx s port vc pkt) port vc pkt else s

/-- MULTICAST_FORWARD (R254 to R258). -/
def execMulticastForward (port : Fin 64) (pkt : Packet) (s : State) := up s fun s =>
  if portUp s port ∧ bitsOf pkt.dst.toNat 14 2 = 3 then
    mcastForward (takeRx s port pkt.vc pkt) pkt (quadOf port) (some port) pkt.vc
  else s

/-- VOQ_ENQUEUE (R238): the oldest packet that waits for an egress queue with room. -/
def execVoqEnqueue (port : Fin 64) (vc : Fin 8) (s : State) := up s fun s =>
  if egressCells s port vc ≥ (limitsOf s (quadOf port)).cap then s
  else
    match s.swc.voq.find? fun v => decide (v.port = port ∧ v.vc = vc) with
    | none => s
    | some v =>
      let s := s.onSwc fun c => { c with voq := c.voq.erase v }
      match s.swc.stored.find? fun x => x.id == v.id with
      | some x => enqueueNow s v.id x.pkt port vc
      | none => s

/-! ### Runners (R259 to R265) -/

def runnerIngress (r : Runner) : Option (Fin 64) := if r.ingress.getLsbD 7 then none else some (Fin.ofNat 64 (r.ingress.toNat % 64))

/-- A burst whose first flit comes at a tick falls in a window of an entry (R262). -/
def burstHits (r : Runner) (t : Time) : Bool :=
  (windowStarts r.slots r.phase).any fun w => decide ((t + 175 + 4096 - (w + 32)) % 4096 ≤ 64)

/-- The entry has already sent a burst in the window of a departure at a tick (R260). -/
def windowSent (r : Runner) (t : Time) : Bool :=
  match r.leaves with
  | none => false
  | some x => (windowStarts r.slots r.phase).any fun w =>
      let d := (t % 4096 + 4096 - w) % 4096
      decide (d < 256 ∧ t ≤ x + d ∧ x + d < t + 256)

/-- A burst keeps R260 and R181, and carries its entry's TENANT. A second burst in one window breaks R260. DEDUCED (log
entry 187). -/
def burstOk (r : Runner) (pkts : List Packet) (t : Time) : Bool :=
  decide ((pkts.map Packet.cells).sum ≤ 64) && !windowSent r (t + 175) &&
    pkts.all fun p => decide (p.cells ≤ 9) && payloadLegal p && tagOf p.tenant == r.tenant

/-- RUNNER_RESTORE (R265): at the first frame after the rate factor has returned to 0.80. -/
def execRunnerRestore (t : Time) (s : State) := up s fun s =>
  let s := s.at_ t
  if s.swc.suspended ∧ rateFull s ∧ t % 4096 = 0 then s.onSwc fun c => { c with suspended := false } else s

/-! ### EPC messages at the switch (R585) -/

def epcHead (msg n off : Nat) (staged : Option Time) : List Byte :=
  [BitVec.ofNat 8 msg, BitVec.ofNat 8 (b2n staged.isSome)] ++ leBytes 2 n ++ leBytes 4 off ++ leBytes 8 (staged.getD 0)

def epcReadReq (s : State) (c : Cause) (dst : Node) (off n : Nat) : State := sendMgmt s c dst (epcHead 0xA1 n off none)

def epcWriteReq (s : State) (c : Cause) (dst : Node) (off : Nat) (data : List Byte) (staged : Option Time) : State :=
  sendMgmt s c dst (epcHead 0xA0 data.length off staged ++ data)

/-! ### Switch-core commands (R269 to R273) -/

def groupOf (d : Desc) : Nat := Desc.fld d 24 2 % 4096
def mcTag (d : Desc) : Tag := BitVec.ofNat 16 (Desc.fld d 26 2)

/-- Reserved bytes and bits of MCAST_SET and MCAST_CLEAR, and an illegal TARGET. -/
def mcBad (s : State) (d : Desc) : Bool :=
  !Desc.clearOutside d [(128, 64), (192, 12), (208, 16), (224, 2), (384, 16)] || !targetLegal s d 48 || !tagLegal (mcTag d)

def mcRow1 (s : State) (o : Origin) (d : Desc) : Bool :=
  !credNames s o (mcTag d) || !activeOrOp s (mcTag d) ||
    (match s.swc.mcast.get? (groupOf d) with
      | some r => r.tenant != tagOf (mcTag d)
      | none => false)

def specMcastSet : CmdSpec where
  op := 0x50
  dest := targetAt 48
  chk o d s := firstFail [
    (mcRow1 s o d, stTenantDenied),
    (mcBad s d, stOutOfRange),
    (!isOp (mcTag d) && !s.swc.mcast.has (groupOf d) &&
      decide (mcastInUse s (mcTag d) ≥ (s.tenant (mcTag d).toNat).mcastQuota), stResourceRefused)]
  eff o d _ s :=
    let r : McastRec := ⟨BitVec.ofNat 64 (Desc.fld d 16 8), mcTag d, Desc.bit d 225⟩
    complete (s.onSwc fun c => { c with
      mcast := c.mcast.set (groupOf d) r, mcastOld := c.mcastOld.erase (groupOf d) }) o d stOk []

/-- MCAST_SET (R269). -/
def execMcastSet (r : CmdRef) (d : Desc) (s : State) := up s (runRow specMcastSet r d default)

def specMcastClear : CmdSpec where
  op := 0x51
  dest := targetAt 48
  chk o d s := firstFail [
    (mcRow1 s o d, stTenantDenied),
    (mcBad s d, stOutOfRange),
    (!s.swc.mcast.has (groupOf d), stAlreadyDone)]
  eff o d _ s := complete (s.onSwc fun c => { c with
    mcast := c.mcast.erase (groupOf d)
    mcastOld := c.mcastOld.set (groupOf d) (c.mcast.getD (groupOf d) default) }) o d stOk []

/-- MCAST_CLEAR (R269). -/
def execMcastClear (r : CmdRef) (d : Desc) (s : State) := up s (runRow specMcastClear r d default)

def runnerIndex (d : Desc) : Nat := Desc.fld d 16 1
def runnerTag (d : Desc) : Tag := BitVec.ofNat 16 (Desc.fld d 24 2)

def descRunner (s : State) (d : Desc) : Runner :=
  { ingress := BitVec.ofNat 8 (Desc.fld d 17 1), egress := BitVec.ofNat 8 (Desc.fld d 18 1)
    slots := BitVec.ofNat 16 (Desc.fld d 20 2), phase := Desc.fld d 22 1, tenant := runnerTag d
    active := s.now, bursts := 0, leaves := none, used := 0, epEntry := none, lost := false }

/-- The fields of an entry in a descriptor (R266): ACTIVE_TIME, BURSTS and VALID are ignored on input. -/
def runnerFields : List (Nat × Nat) :=
  [(128, 8), (136, 6), (143, 1), (144, 6), (152, 1), (160, 24), (192, 16), (256, 128), (384, 16)]

def runnerReserved (s : State) (d : Desc) : Bool :=
  !Desc.clearOutside d runnerFields
    || decide (runnerIndex d > 63) || !targetLegal s d 48 || !tagLegal (runnerTag d)
    || (Desc.bit d 143 && decide (bitsOf (Desc.fld d 17 1) 4 2 ≠ 0))

def portBad (s : State) (p : Nat) : Bool := decide (kindOf s p = .spare ∨ kindOf s p = .unused)

def runnerBad (s : State) (d : Desc) : Bool :=
  let r := descRunner s d
  runnerReserved s d || decide (r.slots = 0) || portBad s (runnerEgress r) ||
    (match runnerIngress r with
      | some i => decide (i = runnerEgress r) || portBad s i
      | none => false)

/-- Two windows of one port overlap (R267). -/
def windowsMeet (a b : Nat) : Bool := decide ((a + 4096 - b) % 4096 < 256 ∨ (b + 4096 - a) % 4096 < 256)

/-- Windows of the valid entries of an egress port. -/
def egressWindows (s : State) (p : Fin 64) : List Nat :=
  (s.swc.runners.filter fun e => runnerEgress e.2 == p).flatMap fun e => windowStarts e.2.slots e.2.phase

/-- The end point whose port is the ingress of a Runner. -/
def ingressEp (s : State) (r : Runner) : Option (Fin 64) :=
  match runnerIngress r with
  | some i => if kindOf s i = .down then some i else none
  | none => none

/-- The end-point node on a DOWN port. -/
def epOnPort (s : State) (p : Fin 64) : Node := slotNode s (planOf s p).index

def runnerSetChk (o : Origin) (d : Desc) (s : State) : Option Status :=
  let r := descRunner s d
  let mine := windowStarts r.slots r.phase
  let theirs := egressWindows s (runnerEgress r)
  firstFail [
    (!isOperator s o || !activeOrOp s (runnerTag d), stTenantDenied),
    (runnerBad s d, stOutOfRange),
    ((mine.any fun w => theirs.any (windowsMeet w)) || decide (mine.length + theirs.length > 14)
      || s.swc.runners.has (runnerIndex d), stResourceRefused),
    ((match ingressEp s r with
      | some i => !portUp s i || !(linkOf s i).epReady
      | none => false), stDestLost)]

/-- A Runner entry comes into force, or its VALID is cleared, and the command completes (R269). -/
def runnerNow (s : State) (o : Origin) (d : Desc) (e : Option Runner) : State :=
  let s := effectBegins s o
  let i := runnerIndex d
  complete (s.onSwc fun c => match e with
    | some r => { c with runners := c.runners.set i { r with active := s.now }, runnersOld := c.runnersOld.erase i }
    | none => { c with runners := c.runners.erase i, runnersOld := c.runnersOld.set i (c.runners.getD i default) }) o d stOk []

/-- A change of a Runner entry waits for its activation tick (R37, R267). -/
def runnerLater (s : State) (o : Origin) (d : Desc) (e : Option Runner) : State :=
  if Desc.staged d ∧ s.now < Desc.activate d then
    s.onSwc fun c => { c with runnerDue := c.runnerDue ++ [⟨Desc.activate d, runnerIndex d, e, o, d⟩] }
  else runnerNow s o d e

/-- RUNNER_SET of an entry whose ingress is an end point first reads its eight Runner entries (R580). A staged one does so
before its tick, so that every hop comes into force at once (R267). DESIGN CHOICE (log entry 188). -/
def specRunnerSet : CmdSpec where
  op := 0x52
  early := true
  dest := targetAt 48
  chk := runnerSetChk
  eff o d _ s :=
    let r := descRunner s d
    match ingressEp s r with
    | some i => epcReadReq s (.epc o d 0) (epOnPort s i) 0x151000 256
    | none => runnerLater s o d (some r)

/-- RUNNER_SET (R266, R267, R580). -/
def execRunnerSet (r : CmdRef) (d : Desc) (s : State) := up s (runRow specRunnerSet r d default)

/-- Link delay of a port in ticks, as PING measures it. -/
def linkDelay (s : State) (p : Nat) : Nat := (linkOf s p).delay

/-- The first hop's entry for the ZE-208 (R580): its windows start L + 175 ticks before the switch's. PORT follows
from the plane of this switch. -/
def firstHop (s : State) (r : Runner) (i : Fin 64) : EpRunner :=
  let back := (linkDelay s i + 175) % 4096
  let t := (r.phase + 4096 - back) % 4096
  -- rotate SLOTS by whole windows and keep the rest as PHASE
  let n := t / 256
  { port := planeOf s.dev.nodeId, slots := (r.slots <<< n) ||| (r.slots >>> (16 - n)), phase := t % 256
    tenant := r.tenant, last := 0, used := 0 }

/-- The eight entries have come: the lowest free is written (R580). -/
def runnerSetGot (s : State) (o : Origin) (d : Desc) (data : List Byte) : State :=
  let r := descRunner s d
  match runnerSetChk o d s, ingressEp s r with
  | some st, _ => complete s o d st []
  | none, none => complete s o d stInternal []
  | none, some i =>
    match (List.range 8).find? fun e => !bitOf (fieldAt data (32 * e + 3) 1) 0 with
    | none => complete s o d stResourceRefused []
    | some e =>
      epcWriteReq s (.epc o d (1 + e)) (epOnPort s i) (0x151000 + 32 * e) (epRunnerBytes e (firstHop s r i)) (stagedTick s d)

/-- The end point's entry of a Runner, while its port is in service. -/
def runnerEntryAt (s : State) (r : Runner) : Option (Fin 64 × Nat) :=
  match r.epEntry, ingressEp s r with
  | some e, some i => if portUp s i then some (i, e) else none
  | _, _ => none

def clearEpRunner (s : State) (c : Cause) (x : Fin 64 × Nat) (t : Option Time) : State :=
  epcWriteReq s c (epOnPort s x.1) (0x151000 + 32 * x.2) (zeros 32) t

/-- The failure table of RUNNER_CLEAR, which reads RUNNER alone of its entry (R270, R273). -/
def runnerClearChk (o : Origin) (d : Desc) (s : State) : Option Status := firstFail [
  (!isOperator s o, stTenantDenied),
  (!Desc.clearOutside d runnerFields || decide (runnerIndex d > 63) || !targetLegal s d 48, stOutOfRange),
  (!s.swc.runners.has (runnerIndex d), stAlreadyDone)]

/-- RUNNER_CLEAR clears the entry of the end point too (R580). An end point that cannot be reached keeps no Runner from
being cleared. DEDUCED (log entry 188). -/
def specRunnerClear : CmdSpec where
  op := 0x53
  early := true
  dest := targetAt 48
  chk := runnerClearChk
  eff o d _ s :=
    match runnerEntryAt s (s.swc.runners.getD (runnerIndex d) default) with
    | some x => clearEpRunner s (.epc o d 1) x (stagedTick s d)
    | none => runnerLater s o d none

/-- Changes of Runner entries whose activation ticks have come, if their checks still pass (R37). -/
def runnersGo (s : State) : State :=
  ((s.swc.runnerDue.filter fun x => decide (x.time_ ≤ s.now)).mergeSort fun a b => decide (a.time_ ≤ b.time_)).foldl (fun s x =>
    let s := s.onSwc fun c => { c with runnerDue := c.runnerDue.erase x }
    match (match x.entry with
        | some _ => runnerSetChk x.origin x.desc s
        | none => runnerClearChk x.origin x.desc s) with
    | none => runnerNow s x.origin x.desc x.entry
    | some st =>
      let s := match x.entry.bind (runnerEntryAt s) with
        | some e => clearEpRunner s .none e none
        | none => s
      complete s x.origin x.desc st []) s

/-- RUNNER_CLEAR (R269, R580). -/
def execRunnerClear (r : CmdRef) (d : Desc) (s : State) := up s (runRow specRunnerClear r d default)

/-- The route entry of ROUTE_SET. -/
def descRoute (d : Desc) : RouteEntry :=
  { primary := BitVec.ofNat 8 (Desc.fld d 20 1), alt1 := BitVec.ofNat 8 (Desc.fld d 21 1)
    alt2 := BitVec.ofNat 8 (Desc.fld d 22 1), equal := Desc.bit d 184 }

def routeFields : List (Nat × Nat) := [(128, 16), (160, 6), (167, 1), (168, 6), (175, 1), (176, 6), (183, 2), (384, 16)]

def routeKey (d : Desc) : Option Nat :=
  let t := Desc.fld d 16 1
  let i := Desc.fld d 17 1
  if t = 0 ∧ i < 16 then some (rackEntry i)
  else if t = 1 ∧ i < 8 then some (switchEntry i)
  else if t = 2 ∧ i < 32 then some (slotEntry i)
  else none

/-- A choice that no ingress allows: a port of kind SPARE, or of no kind (R250, R273). -/
def choiceBad (s : State) (b : Byte) : Bool :=
  match choice b with
  | some p => portBad s p
  | none => false

def specRouteSet : CmdSpec where
  op := 0x54
  dest := targetAt 48
  chk o d s :=
    let e := descRoute d
    firstFail [
      (!isOperator s o, stTenantDenied),
      (!Desc.clearOutside d routeFields
        || !targetLegal s d 48 || (routeKey d).isNone || choiceBad s e.primary || choiceBad s e.alt1 || choiceBad s e.alt2,
        stOutOfRange)]
  eff o d _ s :=
    match routeKey d with
    | some k => complete (s.onSwc fun c => { c with routes := c.routes.set k (descRoute d) }) o d stOk []
    | none => complete s o d stOutOfRange []

/-- ROUTE_SET (R252, R269). -/
def execRouteSet (r : CmdRef) (d : Desc) (s : State) := up s (runRow specRouteSet r d default)

def specScheduleMode : CmdSpec where
  op := 0x55
  dest := targetAt 48
  chk o d s := firstFail [
    (!isOperator s o, stTenantDenied),
    (!Desc.clearOutside d [(128, 1), (384, 16)] || !targetLegal s d 48, stOutOfRange),
    (s.swc.detMode == Desc.bit d 128, stAlreadyDone)]
  eff o d _ s := complete (s.onSwc fun c => { c with detMode := Desc.bit d 128 }) o d stOk []

/-- SCHEDULE_MODE (R268, R269). -/
def execScheduleMode (r : CmdRef) (d : Desc) (s : State) := up s (runRow specScheduleMode r d default)

def routeBytes (e : RouteEntry) : List Byte := [e.primary, e.alt1, e.alt2, BitVec.ofNat 8 (b2n e.equal)]

/-- A Runner entry (R266). -/
def runnerBytes (i : Nat) (valid : Bool) (r : Option Runner) : List Byte :=
  match r with
  | none => zeros 32
  | some r =>
    [BitVec.ofNat 8 i, r.ingress, r.egress, BitVec.ofNat 8 (b2n valid)] ++ leBytes 2 r.slots.toNat ++ [BitVec.ofNat 8 r.phase, 0]
      ++ leBytes 2 r.tenant.toNat ++ zeros 6 ++ leBytes 8 r.active ++ leBytes 8 r.bursts

/-- A group record (R255). -/
def mcastBytes (i : Nat) (valid : Bool) (r : Option McastRec) : List Byte :=
  match r with
  | none => zeros 16
  | some r => leBytes 8 r.ports.toNat ++ leBytes 2 i ++ leBytes 2 r.tenant.toNat ++ [BitVec.ofNat 8 (b2n valid + 2 * b2n r.local_)] ++ zeros 3

/-- What SWC_QUERY writes. -/
def swcQueryData (s : State) (what : Nat) : List Byte :=
  if what = 0 then
    (List.range 56).flatMap fun k => routeBytes (s.swc.routes.getD (if k < 24 then k else k + 8) default)
  else if what = 1 then (List.range 64).flatMap fun i =>
    runnerBytes i (s.swc.runners.has i) ((s.swc.runners.get? i).or (s.swc.runnersOld.get? i))
  else (List.range 4096).flatMap fun i =>
    mcastBytes i (s.swc.mcast.has i) ((s.swc.mcast.get? i).or (s.swc.mcastOld.get? i))

def specSwcQuery : CmdSpec where
  op := 0x56
  dest := here
  chk o d s := firstFail [
    (!isOperator s o, stTenantDenied),
    (!Desc.clearOutside d [(128, 8), (448, 64)] || decide (Desc.fld d 16 1 > 2) || carriedHere o, stOutOfRange)]
  eff o d _ s := queryOut s o d (Desc.fld d 56 8) (swcQueryData s (Desc.fld d 16 1))

/-- SWC_QUERY (R269, R510). -/
def execSwcQuery (r : CmdRef) (d : Desc) (s : State) := up s (runRow specSwcQuery r d default)

/-- Restarts the low mark of a quadrant's cell buffer; a quadrant out of service ignores writes (R52, R277). -/
def restartLow (s : State) (quad : Fin 4) : State :=
  if quadUp s quad then s.onSwc fun c => { c with low := c.low.set quad (cellsFree s quad) } else s

/-- SWC_QBUF_LOW_RESTART (R277). -/
def execSwcQbufLowRestart (quad : Fin 4) (s : State) := up s fun s => restartLow s quad

/-! ### End-point commands (R586, R587) -/

def epIndex (d : Desc) : Nat := Desc.fld d 50 2
def epTargetNode (d : Desc) : Node := BitVec.ofNat 16 (Desc.fld d 48 2)

/-- The port of the end point that a command names, when it is one of this switch: where its coordinate is served, or the
coordinate's own slot where nothing serves it. -/
def epTargetPort (s : State) (d : Desc) : Option (Fin 64) :=
  let n := epTargetNode d
  (match physicalOf s n with
    | some _ => slotOfNode s n
    | none => (List.range 32).find? fun l => decide (slotNode s l = n)).bind (slotPort s)

/-- The rows that need nothing of the end point: credentials, what can be wrong with the descriptor, the link. -/
def epRows (s : State) (d : Desc) (denied bad : Bool) (limit : Nat) : List (Bool × Status) :=
  [(denied, stTenantDenied),
   (bad || (epTargetPort s d).isNone || decide (epIndex d ≥ limit), stOutOfRange),
   ((match epTargetPort s d with
      | some p => !portUp s p || !(linkOf s p).epReady
      | none => true), stDestLost)]

/-- The entry that EP_RANGE_CREATE writes. -/
def epNewEntry (d : Desc) : EpEntry :=
  { base := BitVec.ofNat 64 (Desc.fld d 16 8), length := Desc.fld d 24 6, tenant := BitVec.ofNat 16 (Desc.fld d 30 2)
    keyCurrent := BitVec.ofNat 32 (Desc.fld d 32 4), keyPrevious := 0, rights := BitVec.ofNat 8 (Desc.fld d 40 1)
    prevValid := false, graceOpen := false, destroying := false, rotateTime := 0 }

/-- BASE, LENGTH, RIGHTS, TENANT or a reserved field of an entry is wrong (R567, R568). KEY_PREVIOUS and FLAGS are the
ZE-208's. -/
def epEntryBad (d : Desc) : Bool :=
  let e := epNewEntry d
  !Desc.clearOutside d [(128, 192), (320, 8), (384, 16)] || !tagLegal e.tenant
    || decide (e.base.toNat % 4096 ≠ 0 ∨ e.length < 4096 ∨ e.length % 4096 ≠ 0 ∨ e.length > 0xFFFFFFFFF000
      ∨ e.base.toNat + e.length > 2 ^ 64) || decide (e.rights &&& 0xF8 ≠ 0)

def rangeOff (i : Nat) : Nat := 0x100000 + 64 * i
def bindOff (j : Nat) : Nat := 0x150000 + 64 * j

/-- A staged change of an end point is written to it at once and takes effect there at its tick (R568, R585), when the
command completes. DESIGN CHOICE (log entry 188). EP_RANGE_CREATE looks for the lowest free entry, 31 entries a read. -/
def scanFrom (s : State) (o : Origin) (d : Desc) (i : Nat) : State :=
  epcReadReq s (.epc o d i) (epTargetNode d) (rangeOff i) (64 * Nat.min 31 (4096 - i))

def specEpRangeCreate : CmdSpec where
  op := 0x98
  early := true
  dest := here
  chk o d s := firstFail (epRows s d (!credNames s o (epNewEntry d).tenant || !activeOrOp s (epNewEntry d).tenant)
    (epEntryBad d || decide (epIndex d ≠ 0)) 4096)
  eff o d _ s := scanFrom s o d 0

/-- EP_RANGE_CREATE (R586). -/
def execEpRangeCreate (r : CmdRef) (d : Desc) (s : State) := up s (runRow specEpRangeCreate r d default)

/-- A tenant's credentials may name an entry that they are later found to cover. -/
def epCred (s : State) (o : Origin) : Bool := isOperator s o || tagActive s (credOf s o)

/-- A command on an entry that exists: it reads the entry first. -/
def entrySpec (op : Nat) (fields : List (Nat × Nat)) : CmdSpec where
  op := op
  early := true
  dest := here
  chk o d s := firstFail (epRows s d (!epCred s o) false 4096)
  eff o d _ s := epcReadReq s (.epc o d (b2n (Desc.clearOutside d ((384, 32) :: fields)))) (epTargetNode d) (rangeOff (epIndex d)) 64

def specEpRangeDestroy : CmdSpec := entrySpec 0x99 []
def specEpKeyRotate : CmdSpec := entrySpec 0x9A [(128, 32)]
def specEpKeyRevoke : CmdSpec := entrySpec 0x9B []

/-- EP_RANGE_DESTROY (R568). -/
def execEpRangeDestroy (r : CmdRef) (d : Desc) (s : State) := up s (runRow specEpRangeDestroy r d default)
/-- EP_KEY_ROTATE (R568). -/
def execEpKeyRotate (r : CmdRef) (d : Desc) (s : State) := up s (runRow specEpKeyRotate r d default)
/-- EP_KEY_REVOKE (R568). -/
def execEpKeyRevoke (r : CmdRef) (d : Desc) (s : State) := up s (runRow specEpKeyRevoke r d default)

/-- The Runner of this switch that EP_BIND names. -/
def bindRunner (s : State) (d : Desc) : Option Runner :=
  if Desc.bit d 159 then s.swc.runners.get? (Desc.fld d 19 1 % 64) else none

/-- The Runner entry of the target that serves it (R580). -/
def bindEntry (s : State) (d : Desc) : Option Nat :=
  match bindRunner s d with
  | some r => if ingressEp s r = epTargetPort s d then r.epEntry else none
  | none => none

def epBindChk (o : Origin) (d : Desc) (s : State) : Option Status :=
  let t : Tag := BitVec.ofNat 16 (Desc.fld d 16 2)
  let foreign := match bindRunner s d with
    | some r => r.tenant != tagOf t
    | none => false
  firstFail (epRows s d (!isOperator s o || !activeOrOp s t && tagLegal t || foreign)
    (!Desc.clearOutside d [(128, 16), (144, 1), (152, 6), (159, 1), (384, 32)] || !tagLegal t
      || (Desc.bit d 159 && ((bindEntry s d).isNone || decide (epIndex d < 32)))) 96)

/-- What the switch keeps of an EP_BIND that has been done: the tenant that the queue is now bound to (R630). -/
def noteBound (s : State) (d : Desc) : State :=
  let t : Tag := BitVec.ofNat 16 (Desc.fld d 16 2)
  let mine := fun b : EpBound => b.node == epTargetNode d && b.queue == epIndex d
  s.onSwc fun c => { c with
    epBound := (c.epBound.filter fun b => !mine b)
      ++ (if Desc.bit d 144 && !isOp t then [⟨epTargetNode d, epIndex d, t⟩] else []) }

/-- EP_BIND writes the queue's state word: TAKEN 0, its binding, and its Runner entry. -/
def specEpBind : CmdSpec where
  op := 0x9C
  early := true
  dest := here
  chk := epBindChk
  eff o d _ s :=
    let run := match bindEntry s d with
      | some e => 128 + e
      | none => 0
    let w := run * 2 ^ 56 + b2n (Desc.bit d 144) * 2 ^ 48 + Desc.fld d 16 2 * 2 ^ 32
    epcWriteReq s (.epc o d 0) (epTargetNode d) (0x1400 + 8 * epIndex d) (leBytes 8 w) (stagedTick s d)

/-- EP_BIND (R552, R580, R586). -/
def execEpBind (r : CmdRef) (d : Desc) (s : State) := up s (runRow specEpBind r d default)

/-- The tenant of the group that a binding names, when this switch hosts it. -/
def bindGroupTag (s : State) (d : Desc) : Option Tag :=
  if Desc.fld d 16 2 = s.dev.nodeId.toNat then (s.col.groups.get? (Desc.fld d 18 2 % 1024)).map RGroup.tenant else none

def specEpReduceBind : CmdSpec where
  op := 0x9D
  early := true
  dest := here
  chk o d s := firstFail (epRows s d
    (!epCred s o || (match bindGroupTag s d with
      | some t => !covers s (credOf s o) t
      | none => false))
    (!Desc.clearOutside d [(128, 208), (336, 1), (352, 64)] || decide (Desc.fld d 18 2 ≥ 1024)
      || !(isSwitch (BitVec.ofNat 16 (Desc.fld d 16 2)) && nodeLegal (BitVec.ofNat 16 (Desc.fld d 16 2)))) 64)
  eff o d _ s := epcWriteReq s (.epc o d 0) (epTargetNode d) (bindOff (epIndex d)) ((Desc.bytes d).drop 16 |>.take 32) (stagedTick s d)

/-- EP_REDUCE_BIND (R572, R586). -/
def execEpReduceBind (r : CmdRef) (d : Desc) (s : State) := up s (runRow specEpReduceBind r d default)

/-- WHAT of EP_QUERY: the offset and size of the item, and the limit of INDEX. -/
def queryItem (d : Desc) : Nat × Nat × Nat :=
  let w := Desc.fld d 24 1
  if w = 0 then (rangeOff (epIndex d), 48, 4096)
  else if w = 1 then (bindOff (epIndex d), 32, 64)
  else (0x1400 + 8 * epIndex d, 8, 96)

def specEpQuery : CmdSpec where
  op := 0x9E
  dest := here
  chk o d s := firstFail (epRows s d (!epCred s o)
    (!Desc.clearOutside d [(128, 72), (384, 32)] || decide (Desc.fld d 24 1 > 2) || carriedHere o) (queryItem d).2.2)
  eff o d _ s := epcReadReq s (.epc o d 0) (epTargetNode d) (queryItem d).1 (queryItem d).2.1

/-- EP_QUERY (R586, R510). -/
def execEpQuery (r : CmdRef) (d : Desc) (s : State) := up s (runRow specEpQuery r d default)

/-! ### The answers of the end point -/

/-- The rows of R587 that need the entry: the tenant that holds it, its validity, a rotation that breaks R86, and then
the descriptor's reserved fields. -/
def entryRows (s : State) (o : Origin) (d : Desc) (b : List Byte) (clear : Bool) : Option Status :=
  let e := epEntryOf b
  let valid := bitOf (fieldAt b 25 1) 0
  firstFail [
    (valid && !covers s (credOf s o) e.tenant, stTenantDenied),
    (!valid || e.destroying || (Desc.opcode d == 0x9A &&
      decide (Desc.fld d 16 4 / 2 ^ 30 ≠ (e.keyCurrent.toNat / 2 ^ 30 + 1) % 4)), stKeyMismatch),
    (!clear, stOutOfRange)]

/-- The entry as an end-point command changes it. -/
def entryAfter (s : State) (d : Desc) (e : EpEntry) : EpEntry :=
  if Desc.opcode d = 0x99 then { e with destroying := true }
  else if Desc.opcode d = 0x9A then { e with
    keyPrevious := e.keyCurrent, keyCurrent := BitVec.ofNat 32 (Desc.fld d 16 4), prevValid := true, graceOpen := true
    rotateTime := s.now }
  else { e with graceOpen := false, prevValid := false }

/-- EPC_DATA has come for a command. -/
def epcGot (s : State) (o : Origin) (d : Desc) (i : Nat) (data : List Byte) : State :=
  let op := Desc.opcode d
  if op = 0x52 then runnerSetGot s o d data
  else if op = 0x98 then
    match (List.range (Nat.min 31 (4096 - i))).find? fun j => !bitOf (fieldAt data (64 * j + 25) 1) 0 with
    | some j =>
      epcWriteReq s (.epc o d (4096 + i + j)) (epTargetNode d) (rangeOff (i + j)) ((epEntryBytes (epNewEntry d)).take 48) (stagedTick s d)
    | none => if i + 31 ≥ 4096 then complete s o d stResourceRefused [] else scanFrom s o d (i + 31)
  else if op = 0x99 ∨ op = 0x9A ∨ op = 0x9B then
    match entryRows s o d data (i == 1) with
    | some st => complete s o d st []
    | none =>
      epcWriteReq s (.epc o d 0) (epTargetNode d) (rangeOff (epIndex d)) ((epEntryBytes (entryAfter s d (epEntryOf data))).take 48) (stagedTick s d)
  else if op = 0x9E then
    let w := Desc.fld d 24 1
    let valid := w ≠ 0 ∨ bitOf (fieldAt data 25 1) 0
    let held : Tag := if w = 0 then (epEntryOf data).tenant else BitVec.ofNat 16 (fieldAt data 4 2)
    if w ≠ 1 ∧ valid ∧ !covers s (credOf s o) held then complete s o d stTenantDenied []
    else if w = 0 ∧ (!bitOf (fieldAt data 25 1) 0 ∨ (epEntryOf data).destroying) then complete s o d stKeyMismatch []
    else queryOut s o d (Desc.fld d 16 8) (data.take (queryItem d).2.1)
  else complete s o d stInternal []

/-- The EPC message of a command ended without data: an ACK, a NACK, or silence (R587). -/
def epcEnded (s : State) (o : Origin) (d : Desc) (i : Nat) (st : Status) : State :=
  let op := Desc.opcode d
  if op = 0x53 then runnerLater s o d none
  else if op = 0x52 then
    if st = stOk ∧ i ≠ 0 then runnerLater s o d (some { descRunner s d with epEntry := some (i - 1) })
    else complete s o d stDestLost []
  else
    let data := if st = stOk ∧ op = 0x98 then leBytes 4 (i - 4096) else []
    let s := if st = stOk ∧ op = 0x9C then noteBound s d else s
    if st = stOk ∧ (stagedTick s d).isSome then
      s.onRgn fun g => { g with staged := g.staged ++ [⟨Desc.activate d, orderOf s o, o, d, default, some ([], data)⟩] }
    else complete s o d st data

end Sys2Proof.Machine
end

