-- ==== Sys2Proof/Machine/Links.lean ====
section
/-! DEFINITION. Fabric lanes and links (10_links.md): bring-up, flits, replay, failure and sleep, and the egress of
the switch core (R237 to R242, R263). -/

namespace Sys2Proof.Machine

/-! ### Codes (R490, R473) -/

def failREPLAY : BitVec 4 := 1
def failSIGNAL : BitVec 4 := 2
def failALIGN : BitVec 4 := 3
def failMISWIRE : BitVec 4 := 4
def failIDENTITY : BitVec 4 := 5
def failOVERRUN : BitVec 4 := 6
def failDISABLED : BitVec 4 := 7

/-- Sets STATE of a port, with its trace entry. -/
def setLinkState (s : State) (p : Nat) (st : BitVec 4) : State :=
  traceLink (onLink s p fun l => { l with state := st }) p st (linkOf s p).cause

/-- The link receives and sends flits: in service, or at step 5 of R471 or later. -/
def flitsRun (l : LinkSt) : Bool := l.state == lnkUP || decide (5 ≤ l.step)

/-! ### Leaving service (R481, R486) -/

/-- Packets partly received are discarded whole. R481 counts them in SWC_DISCARD and names no field: which one is
free. -/
def countPartly : Nat → State → State
  | 0, s => s
  | n + 1, s =>
    let k := s.freeWord.toNat % 4
    let s := s.stepFree
    countPartly n (s.onSwc fun c =>
      if k = 0 then { c with noroute := bump c.noroute }
      else if k = 1 then { c with mcastDrop := bump c.mcastDrop }
      else if k = 2 then { c with withheld := bump c.withheld }
      else { c with runnerDrop := bump c.runnerDrop })

/-- Bursts that wait to leave by a port are discarded and counted (R264). -/
def dropBursts (s : State) (p : Fin 64) : State :=
  let n := ((s.swc.bursts.filter fun b => b.port == p).map BurstFlit.at_).eraseDups.length
  s.onSwc fun c => { c with bursts := c.bursts.filter fun b => b.port != p, runnerDrop := bump c.runnerDrop n }

/-- Drops what waits to leave by a port: its cells return. -/
def dropEgress (s : State) (p : Fin 64) : State :=
  let s := dropBursts s p
  let ids := (vcs.flatMap fun v => (egressOf s p v).map EgEntry.id)
    ++ ((s.swc.voq.filter fun v => v.port == p).map Voq.id)
  let s := s.onSwc fun c => { c with
    egress := vcs.foldl (fun t v => t.erase (qkey p v)) c.egress
    voq := c.voq.filter fun v => v.port != p }
  ids.foldl release s

/-- The replay, sleep and bring-up state of a link that carries nothing. -/
def quietLink (l : LinkSt) : LinkSt :=
  { l with
    step := 0, pos := 0, pending := [], trips := [], next := 0, held := [], txRun := 0, expect := 0, wait := none
    rxRun := 0, good := 0, nakDue := false, replayDue := false, parts := [], sleepTx := false, sleepRx := false, mgmt := [] }

/-- A port stops transmitting and leaves service: routes, copies and partly received packets go with it, and a line
cache on it is lost (R163, R164). -/
def leaveService (s : State) (p : Fin 64) : State :=
  let was := (linkOf s p).state == lnkUP
  let n := (linkOf s p).parts.length
  let s := (countPartly n (onLink s p fun l => quietLink { l with configured := false, epReady := false })).emit (.lanesOff p)
  let s := dropEgress s p
  let s := s.onFlt fun c => { c with
    tn := { c.tn with nbrs := c.tn.nbrs.erase p }, probes := c.probes.erase p }
  if was ∧ kindOf s p = .down then memberLost s (Fin.ofNat 34 (2 + (planOf s p).index)) 5 else s

/-- Ends a LINK_RETRAIN in progress on a port. -/
def endRetrain (s : State) (p : Nat) (st : Status) : State :=
  match (linkOf s p).retrain with
  | none => s
  | some (o, d) => complete (onLink s p fun l => { l with retrain := none }) o d st []

/-- The link stays out with a cause (R468, R472, R481). -/
def stayOut (s : State) (p : Fin 64) (cause : BitVec 4) : State :=
  let s := onLink s p fun l => { l with cause := cause, outSince := true }
  capCheck (endRetrain (setLinkState (leaveService s p) p lnkOUT) p stDestLost) false

/-- An end declares its link failed (R480, R481), and reports it unless the cause is DISABLED (R616). -/
def failLink (s : State) (p : Fin 64) (cause : BitVec 4) : State :=
  let far := nodeAt s p
  let s := stayOut s p cause
  if cause = failDISABLED then s else originateReport s .zs 1 (cause.setWidth 8) far p

/-- LINK_FAIL (R480, R481): of a link in service, with a cause that R480 knows. -/
def execLinkFail (port : Fin 64) (cause : BitVec 4) (s : State) := up s fun s =>
  if portUp s port ∧ (cause = failREPLAY ∨ cause = failSIGNAL ∨ cause = failOVERRUN ∨ cause = failDISABLED) then
    failLink s port cause else s

/-- LOSS_OF_SIGNAL (R480): no flit passes LCRC for 1 µs while the receiver is not asleep. -/
def execLossOfSignal (port : Fin 64) (t : Time) (s : State) := up s fun s =>
  let s := s.at_ t
  let l := linkOf s port
  if portUp s port ∧ !l.sleepRx ∧ due s.now l.lastGood (us 1) then failLink s port failSIGNAL else s

/-! ### Bring-up (R462 to R472) -/

/-- The LINK compartment of a port's quadrant does its duty (R35, R711). -/
def linkServed (s : State) (p : Fin 64) : Bool := compOn s compLINK (p.val / 16)

def lanesOf (p : Nat) : List (Fin 256) := (List.range 4).map fun k => Fin.ofNat 256 (4 * p + k)
def laneOf (s : State) (n : Fin 256) : LaneSt := s.lnk.lanes.getD n default
def onLane (s : State) (n : Fin 256) (f : LaneSt → LaneSt) : State :=
  s.onLnk fun l => { l with lanes := l.lanes.set n (f (laneOf s n)) }

/-- The profile that the lane map gives a lane (R460, R461). -/
def laneProfile (s : State) (n : Fin 256) : Equaliser :=
  .profile (s.cfg.profiles.getD (s.cfg.lanes.getD n 0).toNat [])

/-- Sends `n` training blocks on every lane of a port (R462): the record shows the first of each lane, and each later
one continues the lane's sequence with BLOCK one higher. -/
def trainOut (s : State) (p : Fin 64) (n : Nat) : State :=
  let first := (lanesOf p).map fun k => trainingBlock (laneOf s k).prbs (k.val % 4) p (laneOf s k).block.toNat
  let s := s.emit (.training p ((lanesOf p).map (laneProfile s)) first)
  (lanesOf p).foldl (fun s k => onLane s k fun l => { l with
    block := l.block + BitVec.ofNat 16 n, prbs := (prbsBits (448 * n) l.prbs).2 }) s

/-- Starts an attempt at step 1: lanes powered, profiles applied, training blocks sent. A boundary stays where it
stands: only SLIP moves it (R463). -/
def startBringup (s : State) (p : Fin 64) (attempt : Nat) : State :=
  let s := (lanesOf p).foldl (fun s n => onLane s n fun l =>
    { l with lock := false, synced := false, run := 0, block := 0, prbs := Config.prbsStart }) s
  let s := onLink s p fun l => { quietLink l with step := 1, attempts := attempt, farSeen := false }
  trainOut (setLinkState s p lnkTRAINING) p 1

/-- Another port of the quadrant is past step 1: a core brings up one port at a time (R472). -/
def quadBusy (s : State) (p : Fin 64) : Bool :=
  (List.range 16).any fun i =>
    let q := 16 * (p.val / 16) + i
    decide (q ≠ p.val ∧ 2 ≤ (linkOf s q).step)

/-- A failing step: 2 to 5 restart, at most three times in all; 6 does not (R472). -/
def failStep (s : State) (p : Fin 64) (cause : BitVec 4) : State :=
  let l := linkOf s p
  if 2 ≤ l.step ∧ l.step ≤ 5 then
    let s := onLink s p fun l => { l with cause := cause }
    if l.attempts < 3 then startBringup s p (l.attempts + 1) else stayOut s p cause
  else if l.step = 6 then stayOut s p cause
  else s

/-- Messages of the identity exchange (R467, R473). -/
def identityMsgs (s : State) (p : Nat) : List (Byte × BitVec 32) :=
  [(1, s.dev.serial.setWidth 32), (2, (s.dev.serial >>> 32).setWidth 32),
   (3, BitVec.ofNat 32 (0x6476 * 65536 + 0xB0 * 256 + p)), (4, s.dev.nodeId.setWidth 32)]

def pingMsgs : List (Byte × BitVec 32) := List.replicate 16 (0x08, 0)

/-- Step 8: the port is in service; the numbers of its flits and what it has still to echo go on. An end point on it is
identified, and configured by the first switch (R582). -/
def enterService (s : State) (p : Fin 64) : State :=
  let s := onLink s p fun l => { l with
    step := 0, pos := 0, pending := [], trips := [], cause := 0, outSince := false, lastGood := s.now, lastTx := s.now, lastRx := s.now, advanced := s.now }
  let s := capCheck (endRetrain (setLinkState s p lnkUP) p stOk) false
  if kindOf s p = .down then epcReadReq s (.epcIdent p) (slotNode s (planOf s p).index) 0x10 8 else s

/-- What a step needs before it can pass. A search that a host drives keeps no set of pending lanes (R464). -/
def stepDone (s : State) (p : Fin 64) (l : LinkSt) : Bool :=
  if l.step = 1 then !quadBusy s p
  else if l.step = 3 then (l.searchOwner || l.pending.isEmpty) && (lanesOf p).all fun n => (laneOf s n).lock
  else if l.step = 4 then false
  else if l.step = 5 then decide (4096 ≤ l.good)
  else if l.step = 6 then l.farSeen
  else if l.step = 7 then decide (16 ≤ l.trips.length)
  else true

/-- A step passes. -/
def passStep (s : State) (p : Fin 64) : State :=
  let l := linkOf s p
  if l.step = 0 ∨ !stepDone s p l then s
  else if l.step = 2 then
    setLinkState (onLink s p fun l => { l with step := 3, pos := 0, pending := lanesOf p }) p lnkALIGNING
  else if l.step = 5 then
    setLinkState (onLink s p fun l => { l with step := 6, mgmt := l.mgmt ++ identityMsgs s p }) p lnkIDENTIFY
  else if l.step = 6 then onLink s p fun l => { l with step := 7, trips := [], mgmt := l.mgmt ++ pingMsgs }
  else if l.step = 8 then enterService s p
  else onLink s p fun l => { l with step := l.step + 1 }

/-- Step 4 (R465): the lanes are deskewed by BLOCK, and their LANE and PORT compared. The sequence of every lane starts
again, and flits follow. DESIGN CHOICE (log entry 178): a skew above 8 blocks is found before a miswire. -/
def deskew (s : State) (p : Fin 64) (l : List LaneMark) : State :=
  if (linkOf s p).step ≠ 4 then s
  else if skewOf l > 8 then failStep s p failALIGN
  else if !marksAgree l then failStep s p failMISWIRE
  else
    let s := (lanesOf p).foldl (fun s n => onLane s n fun l => { l with prbs := Config.prbsStart }) s
    onLink s p fun l => { l with step := 5 }

/-- LINK_BRINGUP_STEP (R471, R472), driven by the LINK compartment of the port's quadrant. -/
def execLinkBringupStep (port : Fin 64) (res : StepResult) (s : State) := up s fun s =>
  if !linkServed s port then s
  else match res with
  | .pass => passStep s port
  | .marks l => deskew s port l
  | .fail c => failStep s port c

/-- A lane's receiver has found SYNC, or missed it, in so many further blocks (R463): 4,096 found in a row give
MARKER_LOCK, 4 missed take it away. The receiver corrects an inverted lane (R453). -/
def laneSync (l : LaneSt) (found : Bool) (blocks : Nat) (inverted : Bool) : LaneSt :=
  let run := if l.synced = found then l.run + blocks else blocks
  { l with
    synced := found, run := run
    lock := if found then l.lock || decide (4096 ≤ run) else l.lock && decide (run < 4)
    polarity := if found ∧ blocks ≠ 0 then inverted else l.polarity }

/-- MARKER_LOCK (R463). -/
def execMarkerLock (lane : Fin 256) (seen : SyncRun) (inverted : Bool) (s : State) := up s fun s =>
  onLane s lane fun l => laneSync l seen.found seen.blocks inverted

/-- One SLIP of a set of lanes: each boundary moves by one symbol (R463, R464). -/
def slipLanes (s : State) (ns : List (Fin 256)) : State :=
  ns.foldl (fun s n => onLane s n fun l => { l with position := (l.position + 1) % 256 }) s

/-- LINK_SEARCH_STEP (R464): one turn of the loop, driven by the housekeeping core unless a host owns the search. Once
the loop has ended, the lock check: every lane must hold MARKER_LOCK still. -/
def execLinkSearchStep (port : Fin 64) (s : State) := up s fun s =>
  let l := linkOf s port
  if l.step ≠ 3 ∨ l.searchOwner ∨ !linkServed s port then s
  else if l.pending = [] then
    if (lanesOf port).all fun n => (laneOf s n).lock then s else failStep s port failALIGN
  else
    let pend := l.pending.filter fun n => !(laneOf s n).lock
    let s := onLink s port fun l => { l with pending := pend }
    if pend = [] then s
    else
      let s := onLink (slipLanes s pend) port fun l => { l with pos := l.pos + 1 }
      if l.pos + 1 < 256 then s else failStep s port failALIGN

/-- A write of SLIP (R495, R496): honoured only from the search owner, during step 3. -/
def slipWrite (s : State) (lanes : List (Fin 256)) (byHost : Bool) : State :=
  slipLanes s (lanes.eraseDups.filter fun n =>
    let l := linkOf s (n.val / 4)
    decide (l.step = 3) && l.searchOwner == byHost)

def execSlip (lanes : List (Fin 256)) (byHost : Bool) (s : State) := up s fun s => slipWrite s lanes byHost

/-- The far end's identity agrees with the plan (R468). -/
def farAgrees (e : PortPlan) (f : FarId) : Bool :=
  f.part == e.farPart && f.port == e.farPort && (e.farSerial == 0 || f.serial == e.farSerial)
    && (e.farStepping == 0 || f.stepping == e.farStepping)

/-- ID_EXCHANGE (R467, R468). -/
def execIdExchange (port : Fin 64) (far : FarId) (s : State) := up s fun s =>
  if (linkOf s port).step ≠ 6 then s
  else
    let s := onLink s port fun l => { l with far := far }
    if farAgrees (planOf s port) far then onLink s port fun l => { l with farSeen := true }
    else stayOut s port failIDENTITY

/-- PING (R469): it is answered with an ECHO in the next flit. -/
def execPing (port : Fin 64) (_stamp : BitVec 32) (turnaround : Nat) (s : State) := up s fun s =>
  if flitsRun (linkOf s port) then
    onLink s port fun l => { l with mgmt := (0x09, BitVec.ofNat 32 turnaround) :: l.mgmt }
  else s

/-- The median of 16 round trips, each twice an L, in whole ticks (R469). -/
def medianDelay (l : List Nat) : Nat :=
  let x := l.mergeSort fun a b => decide (a ≤ b)
  (x.getD 7 0 + x.getD 8 0) / 4

/-- ECHO (R469, R470): a round trip toward the median. -/
def execEcho (port : Fin 64) (departed arrived : Time) (turnaround : Nat) (s : State) := up s fun s =>
  let l := linkOf s port
  if l.step ≠ 7 ∨ 16 ≤ l.trips.length then s
  else
    let trips := l.trips ++ [arrived - departed - turnaround]
    onLink s port fun l => { l with
      trips := trips, delay := if trips.length = 16 then Nat.min 1023 (medianDelay trips) else l.delay }

/-- The end point's status has come (R582): the first switch writes its node ID, incarnation and incarnation table; a
later one compares the node ID. -/
def epcIdentGot (s : State) (p : Nat) (data : List Byte) : State :=
  let port := Fin.ofNat 64 p
  let me := slotNode s (planOf s p).index
  let node := fieldAt data 6 2
  if !portUp s p then s
  else if node = 0 then configureEp (onLink s p fun l => { l with configured := true, epReady := true }) me
  else if node = me.toNat then onLink s p fun l => { l with epReady := true }
  else stayOut s port failIDENTITY
where
  configureEp (s : State) (me : Node) : State :=
    let table := (List.range 4096).map fun i => s.xp.inc.getD i 0
    let s := epcWriteReq s .none me 0x10 (zeros 5 ++ [incOf s.xp.inc me] ++ leBytes 2 me.toNat) none
    let s := epcWriteReq s .none me 0x140000 (table.take 1984) none
    let s := epcWriteReq s .none me (0x140000 + 1984) ((table.drop 1984).take 1984) none
    epcWriteReq s .none me (0x140000 + 3968) (table.drop 3968) none

/-! ### Egress (R28, R237, R238, R242, R263, R475, R476) -/

/-- Flits that one VC may send on a port within 1 µs (875 flit times): 2 % for VC7, 5 % for VC6. -/
def shareLimit (vc : Fin 8) : Nat := if vc = 7 then 17 else 43

/-- The share of a strict VC is used up at a tick. -/
def shareFull (s : State) (p : Fin 64) (vc : Fin 8) (t : Time) : Bool :=
  decide (shareLimit vc ≤ ((s.swc.share.getD (qkey p vc) []).filter fun x => decide (t < x + us 1)).length)

/-- Below a rate factor of 0.80 a port forwards at 1.25 × factor of its rate (R28): a flit takes 20/7 ticks. -/
def rateLets (s : State) (p : Fin 64) (t : Time) : Bool :=
  rateFull s || decide ((t - (linkOf s p).lastTx) * 7 * s.pwr.rate * 12500 ≥ 204800000)

/-- Ticks from a time to the next start of a window, and since its last start. -/
def toWindow (w t : Nat) : Nat := (w + 4096 - t % 4096) % 4096
def sinceWindow (w t : Nat) : Nat := (t % 4096 + 4096 - w) % 4096

/-- A burst of a Runner leaves in the window that starts at a tick, as known at another (R263): reserved windows of
PEER and GLOBAL ports, and of every port in deterministic mode, count always, and so do those of a Runner of this switch
for which packets wait. -/
def windowHeld (s : State) (p : Fin 64) (i : Nat) (r : Runner) (start t : Time) : Bool :=
  decide (kindOf s p = .peer ∨ kindOf s p = .global) || s.swc.detMode || decide (t + 79 < start)
    || (s.xp.wait.any fun w => (programRunner s w).map Prod.fst == some i)
    || (match r.leaves with
        | some x => decide (start ≤ x ∧ x < start + 256)
        | none => false)

/-- Entries in force whose bursts leave by a port. -/
def egressRunners (s : State) (p : Fin 64) (t : Time) : Tbl Runner :=
  if s.swc.suspended then [] else s.swc.runners.filter fun e => decide (runnerEgress e.2 = p ∧ e.2.active ≤ t)

/-- No held window covers the flit that leaves at a tick. -/
def outsideWindows (s : State) (p : Fin 64) (t : Time) : Bool :=
  (egressRunners s p t).all fun e => (windowStarts e.2.slots e.2.phase).all fun w =>
    let d := sinceWindow w t
    !(decide (d < 256) && windowHeld s p e.1 e.2 (t - d) t)

/-- `n` flits from a tick on have all left before the next held window starts. -/
def fitsWindows (s : State) (p : Fin 64) (t : Time) (n : Nat) : Bool :=
  (egressRunners s p t).all fun e => (windowStarts e.2.slots e.2.phase).all fun w =>
    let d := toWindow w t
    decide (20 * n ≤ 7 * d) || !windowHeld s p e.1 e.2 (t + d) t

/-- The VC has a flit that may leave now: its packet begun, or room to send all of it. -/
def vcReady (s : State) (p : Fin 64) (t : Time) (vc : Fin 8) : Bool :=
  match egressOf s p vc with
  | [] => false
  | e :: _ => !((fcOf s p).xoffRx.getLsbD vc) && (decide (e.left < e.total) || fitsWindows s p t e.left)

/-- Weight of VC0 to VC5 on a port. -/
def weightOf (s : State) (p : Fin 64) (v : Nat) : Nat := (limitsOf s (quadOf p)).weights.getD v 0

/-- Deficit round robin over VC0 to VC5: the VC that sends, with the turn and the deficits after the choice. -/
def drr (s : State) (p : Fin 64) (t : Time) : Nat → Nat → Tbl Nat → Option (Fin 8 × Nat × Tbl Nat)
  | 0, _, _ => none
  | n + 1, v, df =>
    let vc := Fin.ofNat 8 v
    let have_ := df.getD (qkey p vc) 0
    let need := match egressOf s p vc with
      | e :: _ => if e.left = e.total then e.left else 1
      | [] => 1
    if vcReady s p t vc ∧ need ≤ have_ then some (vc, v, df)
    else
      let df := if (egressOf s p vc).isEmpty then df.set (qkey p vc) 0 else df
      let w := (v + 1) % 6
      let k := qkey p (Fin.ofNat 8 w)
      let df := if (egressOf s p (Fin.ofNat 8 w)).isEmpty then df else df.set k (df.getD k 0 + 9 * weightOf s p w)
      drr s p t n w df

/-- VC0 to VC5 in deterministic mode (R268): the packet begun goes on, and then one of the lowest-numbered VC that has
one. No deficit is kept. -/
def fixedVc (s : State) (p : Fin 64) (t : Time) : Option (Fin 8) :=
  let vs := (vcs.take 6).filter (vcReady s p t)
  (vs.find? fun v => match egressOf s p v with
    | e :: _ => decide (e.left < e.total)
    | [] => false).or vs.head?

/-- The VC of the next ordinary flit, with the turn and the deficits (R237). -/
def nextVc (s : State) (p : Fin 64) (t : Time) : Option (Fin 8 × Nat × Tbl Nat) :=
  let rr := (fcOf s p).rrVc
  if !outsideWindows s p t ∨ !rateLets s p t then none
  else if vcReady s p t 7 ∧ !shareFull s p 7 t then some (7, rr, s.swc.deficit)
  else if vcReady s p t 6 ∧ !shareFull s p 6 t then some (6, rr, s.swc.deficit)
  else if s.swc.detMode then (fixedVc s p t).map fun v => (v, rr, [])
  else drr s p t 13 rr s.swc.deficit

/-- A flit with the fields that every flit carries (R180, R242, R474). -/
def flitWith (s : State) (p : Fin 64) (t : Time) (data : List Byte) (vc : Fin 8) (first last idle seqd : Bool) : Flit :=
  let l := linkOf s p
  let m := l.mgmt.headD (0, 0)
  Flit.sealed {
    data := padTo 240 data, vc := vc, first := first, last := last, idle := idle,
    fill := BitVec.ofNat 8 (data.length - 1), xoff := (fcOf s p).xoffTx,
    mtype := m.1, mdata := if m.1 = 0x08 then BitVec.ofNat 32 t else m.2,
    nak := l.nakDue, seqd := seqd, ack := l.expect, lseq := l.next, lcrc := 0 }

/-- A message of the end's identity, which is repeated until the other end echoes it (R467). -/
def isIdentity (m : Byte × BitVec 32) : Bool := decide (1 ≤ m.1.toNat ∧ m.1.toNat ≤ 4)

/-- The ID_ECHO of an identity message (R473). -/
def idEcho (m : Byte × BitVec 32) : Byte × BitVec 32 := (5, (m.2 <<< 8) ||| m.1.setWidth 32)

/-- A flit goes out on the four lanes of its port, one block on each (R452, R453). -/
def putFlit (s : State) (p : Fin 64) (f : Flit) : State :=
  let code := fun k : Fin 256 => scrambled (laneOf s k).prbs (f.laneBlock (k.val % 4))
  let s := (s.emit (.flit p f)).emit (.symbols p ((lanesOf p).map fun k => (code k).1))
  (lanesOf p).foldl (fun s k => onLane s k fun l => { l with prbs := (scrambled l.prbs (f.laneBlock (k.val % 4))).2 }) s

/-- Sends a flit: the management message and the NAK have gone with it; an identity message comes again. -/
def sendFlit (s : State) (p : Fin 64) (f : Flit) : State :=
  putFlit (onLink s p fun l => { l with
    mgmt := l.mgmt.drop 1 ++ (l.mgmt.take 1).filter isIdentity, nakDue := false }) p f

/-- Takes the next flit of a packet from an egress queue and sends it. -/
def sendOrdinary (s : State) (p : Fin 64) (t : Time) (vc : Fin 8) : State :=
  match egressOf s p vc with
  | [] => s
  | e :: rest =>
    let k := e.total - e.left
    let data := ((Packet.bytes e.pkt).drop (240 * k)).take 240
    let s := if k = 0 then tracePacket s p e.pkt else s
    let f := flitWith s p t data vc (decide (k = 0)) (decide (e.left = 1)) false true
    let s := sendFlit s p f
    let s := onLink s p fun l => { l with
      held := l.held ++ [⟨l.next, f⟩], next := l.next + 1, lastTx := t
      advanced := if l.held = [] then t else l.advanced }
    let s := onFc s p fun c => { c with tx := bump c.tx }
    let s := if vc.val < 6 then s.onSwc fun c => { c with
          deficit := c.deficit.set (qkey p vc) (c.deficit.getD (qkey p vc) 0 - 1) }
        else s.onSwc fun c => { c with
          share := c.share.set (qkey p vc) (t :: (c.share.getD (qkey p vc) []).filter fun x => decide (t < x + us 1)) }
    if e.left ≤ 1 then release (s.onSwc fun c => { c with egress := c.egress.set (qkey p vc) rest }) e.id
    else s.onSwc fun c => { c with egress := c.egress.set (qkey p vc) ({ e with left := e.left - 1 } :: rest) }

/-- Sends a Runner flit: unsequenced, and kept for no replay (R264, R474). -/
def sendRunner (s : State) (p : Fin 64) (t : Time) (b : BurstFlit) : State :=
  let s := s.onSwc fun c => { c with bursts := c.bursts.erase b }
  let s := sendFlit s p (flitWith s p t b.data b.vc b.first b.last false false)
  onFc (onLink s p fun l => { l with lastTx := t }) p fun c => { c with tx := bump c.tx }

/-- A non-idle flit waits to leave by a port. -/
def flitWaits (s : State) (p : Fin 64) : Bool :=
  (vcs.any fun v => !(egressOf s p v).isEmpty) || s.swc.bursts.any fun b => b.port == p

/-- Held flits are to be sent again before any new one (R478): a NAK asked for it, or ACK has not advanced for 2 µs. -/
def replayWaits (s : State) (p : Fin 64) : Bool :=
  let l := linkOf s p
  l.replayDue || (!l.held.isEmpty && due s.now l.advanced (us 2))

/-- EGRESS_FLIT_SEND (R237): a Runner flit that is due, an ordinary flit, or else an IDLE flit. -/
def execEgressFlitSend (port : Fin 64) (t : Time) (s : State) := up s fun s =>
  let s := s.at_ t
  let l := linkOf s port
  if !quadUp s (port.val / 16) ∨ !flitsRun l ∨ l.sleepTx then s
  else
    let idle := fun s : State => sendFlit s port (flitWith s port t [] 0 false false true false)
    if !portUp s port then idle s
    else match s.swc.bursts.find? fun b => decide (b.port = port ∧ b.at_ ≤ t) with
    | some b => sendRunner s port t b
    | none => if 512 ≤ l.held.length ∨ replayWaits s port then idle s
    else match nextVc s port t with
      | none => idle s
      | some (vc, rr, df) =>
        let s := s.onSwc fun c => { c with deficit := df }
        sendOrdinary (onFc s port fun c => { c with rrVc := rr }) port t vc

/-! ### Replay (R476 to R479) -/

/-- A run of 8 declares the link failed. -/
def runCheck (s : State) (p : Fin 64) : State :=
  let l := linkOf s p
  if 8 ≤ l.rxRun ∨ 8 ≤ l.txRun then (if l.step = 5 then failStep s p failREPLAY else failLink s p failREPLAY) else s

/-- REPLAY (R478): after a NAK, or an ACK that has not advanced for 2 µs. A timeout adds 1 to the sender's run. -/
def execReplay (port : Fin 64) (t : Time) (s : State) := up s fun s =>
  let s := s.at_ t
  let l := linkOf s port
  if !portUp s port ∨ !replayWaits s port then s
  else
    let s := onLink (countReplay s) port fun l => { l with
      replayDue := false, advanced := s.now, replays := bump l.replays
      lastTx := if l.held.isEmpty then l.lastTx else s.now
      txRun := if l.replayDue then l.txRun else l.txRun + 1 }
    let s := l.held.foldl (fun s h => putFlit s port (Flit.sealed { h.flit with
      xoff := (fcOf s port).xoffTx, ack := (linkOf s port).expect, nak := false })) s
    runCheck s port

/-- The ACK of a flit (R476, R478, R479): held flits before it are released, and an advance ends the runs. A NAK
asks for a replay. -/
def takeAck (s : State) (p : Fin 64) (f : Flit) : State :=
  let l := linkOf s p
  let oldest := match l.held with
    | h :: _ => h.lseq
    | [] => l.next
  let n := (f.ack - oldest).toNat
  let adv := decide (0 < n ∧ n ≤ l.held.length)
  onLink s p fun l => { l with
    held := if adv then l.held.drop n else l.held
    advanced := if adv then s.now else l.advanced
    txRun := if adv then 0 else l.txRun
    rxRun := if adv then 0 else l.rxRun
    -- a NAK with nothing held asks for nothing again
    replayDue := (f.nak || l.replayDue) && decide ((if adv then l.held.drop n else l.held) ≠ []) }

/-- The receiver's account would hold more than its M with the packets that it has received (R244, R470). -/
def overrun (s : State) (p : Fin 64) (vc : Fin 8) : Bool :=
  let rx := ((s.lnk.rx.filter fun x => decide (x.1 = p ∧ x.2.1 = vc)).map fun x => x.2.2.cells).sum
  decide (accountCells s (quadOf p) (some p) vc + rx > (limitsOf s (quadOf p)).m)

/-- Takes the data of an accepted sequenced flit: packets are put together by VC (R182, R183). -/
def takeData (s : State) (p : Fin 64) (f : Flit) : State :=
  let l := linkOf s p
  let old := if f.first then [] else l.parts.getD f.vc []
  let got := old ++ f.data.take (f.fill.toNat + 1)
  if f.last then
    let s := onLink s p fun l => { l with parts := l.parts.erase f.vc }
    match Packet.ofBytes got with
    | some pkt =>
      let s := s.onLnk fun k => { k with rx := k.rx ++ [(p, f.vc, pkt)] }
      if overrun s p f.vc then failLink s p failOVERRUN else s
    | none => s
  else onLink s p fun l => { l with parts := l.parts.set f.vc got }

/-- Wakes the outgoing direction: 32 training blocks, then flits (R484). -/
def wakeTx (s : State) (p : Fin 64) : State :=
  if (linkOf s p).sleepTx then trainOut (capCheck (onLink s p fun l => { l with sleepTx := false }) false) p 32 else s

/-- Accepts a flit. `burst` says that it belongs to a Runner's burst: its data are not ordinary. -/
def acceptFlit (s : State) (p : Fin 64) (burst : Bool) (f : Flit) : State :=
  let s := if f.mtype = 0x10 then onLink s p fun l => { l with sleepRx := true }
    else if isIdentity (f.mtype, f.mdata) then onLink s p fun l => { l with mgmt := l.mgmt ++ [idEcho (f.mtype, f.mdata)] }
    else if f.mtype = 5 then onLink s p fun l => { l with mgmt := l.mgmt.filter fun m => !(isIdentity m && idEcho m == (5, f.mdata)) }
    else s
  if f.idle then s
  else
    let s := onFc s p fun c => { c with rx := bump c.rx }
    if burst && !f.seqd then s else takeData s p f

/-- An LCRC failure, or a flit treated as one, in state NORMAL: NAK, RUN + 1, WAIT. -/
def flitLost (s : State) (p : Fin 64) : State :=
  runCheck (onLink s p fun l => { l with nakDue := true, rxRun := l.rxRun + 1, wait := some s.now, good := 0 }) p

/-- A flit arrives (R477). -/
def flitAs (burst : Bool) (port : Fin 64) (f : Flit) (s : State) : State :=
  let l := linkOf s port
  if !quadUp s (port.val / 16) ∨ !flitsRun l then s
  else if !f.lcrcOk then
    let s := onLink s port fun l => { l with lcrcFail := bump l.lcrcFail, good := 0 }
    if l.wait = none then flitLost s port else s
  else
    let good := l.good + 1
    let s := onLink s port fun l => { l with
      lastGood := s.now, good := good, sleepRx := false
      txRun := if 256 ≤ good then 0 else l.txRun
      rxRun := if 256 ≤ good then 0 else l.rxRun }
    let s := takeAck (onFc s port fun c => { c with xoffRx := f.xoff }) port f
    -- a non-idle flit that passes LCRC has come, whether or not the receiver takes it (R483, R484)
    let s := if f.idle then s else wakeTx (onLink s port fun l => { l with lastRx := s.now }) port
    match l.wait with
    | none =>
      if !f.seqd then acceptFlit s port burst f
      else if f.lseq = l.expect then acceptFlit (onLink s port fun l => { l with expect := l.expect + 1 }) port burst f
      else flitLost (onLink s port fun l => { l with lcrcFail := bump l.lcrcFail }) port
    | some _ =>
      if f.lseq ≠ l.expect then s
      else if f.seqd then
        acceptFlit (onLink s port fun l => { l with wait := none, expect := l.expect + 1 }) port burst f
      else acceptFlit (onLink s port fun l => { l with wait := none }) port burst f

/-- A flit that is no Runner's arrives. -/
def flitIn (port : Fin 64) (f : Flit) (s : State) : State := flitAs false port f s

/-! ### Runners' bursts (R260 to R265) -/

/-- A flit of a burst is accepted, where the link has it (R477). -/
def runnerFlitOk (s : State) (p : Fin 64) (f : Flit) : Bool :=
  let l := linkOf s p
  quadUp s (p.val / 16) && flitsRun l && f.lcrcOk && !f.seqd && (l.wait.isNone || f.lseq == l.expect)

/-- The packets of a burst's flits, each flit but the last of a packet full (R182); none where one is cut. -/
def burstPackets : List Flit → List Byte → Option (List Packet)
  | [], got => if got.isEmpty then some [] else none
  | f :: t, got =>
    let more := got ++ f.data.take (f.fill.toNat + 1)
    if f.first != got.isEmpty || (!f.last && f.fill.toNat != 239) then none
    else if f.last then (Packet.ofBytes more).bind fun p => (burstPackets t []).map (p :: ·)
    else burstPackets t more

/-- The link takes the flits of a burst (R242, R477): those that it accepts. -/
def burstIn (s : State) (p : Fin 64) (fs : List Flit) : State × List Flit :=
  fs.foldl (fun x f => (flitAs true p f x.1, if runnerFlitOk x.1 p f then x.2 ++ [f] else x.2)) (s, [])

/-- A burst that the link has taken is forwarded 175 ticks after its arrival, through the cell buffer while R265 applies,
or discarded whole (R261, R262, R264). -/
def burstGo (s : State) (port : Fin 64) (t : Time) (i : Nat) (r : Runner) (fs : List Flit) (whole : Bool) : State :=
  match burstPackets fs [] with
  | none => countBurst s
  | some pkts =>
    if !whole ∨ !burstOk r pkts t then countBurst s
    else if s.swc.suspended then pkts.foldl (fun s p => forwardPacket s port p.vc p) s
    else if !portUp s (runnerEgress r) ∨ r.lost then countBurst s
    else s.onSwc fun c => { c with
      runners := c.runners.set i { r with bursts := r.bursts + 1, leaves := some (t + 175) }
      bursts := c.bursts ++ fs.map fun f => ⟨runnerEgress r, t + 175, f.vc, f.first, f.last, f.data.take (f.fill.toNat + 1)⟩ }

/-- The entry in force that expects a burst whose first flit arrives at a tick (R262). -/
def burstEntry (s : State) (port : Fin 64) (t : Time) (fs : List Flit) : Option (Nat × Runner) :=
  if fs.head?.any fun f => f.first && !f.idle then
    s.swc.runners.find? fun e => runnerIngress e.2 == some port && decide (e.2.active ≤ t) && burstHits e.2 t
  else none

/-- The flits that a burst consists of: up to 64, without an IDLE flit between (R262). -/
def burstOf (fs : List Flit) : List Flit := (fs.takeWhile fun f => !f.idle).take 64

/-- RUNNER_BURST (R261 to R265): flits arrive from a tick on, without gaps. Those that no entry in force expects are
ordinary. -/
def execRunnerBurst (port : Fin 64) (flits : List Flit) (t : Time) (s : State) := up s fun s =>
  let s := s.at_ t
  match (if portUp s port then burstEntry s port t flits else none) with
  | none => capCheck (flits.foldl (fun s f => flitIn port f s) s) false
  | some (i, r) =>
    let b := burstOf flits
    let (s, fs) := burstIn s port b
    let s := burstGo s port t i r fs (fs.length == b.length)
    capCheck ((flits.drop b.length).foldl (fun s f => flitIn port f s) s) false

/-- FLIT_RECEIVE (R242, R477, R479), at a port of the switch or of the ZE-208. -/
def execFlitReceive (at_ : LinkEnd) (f : Flit) (s : State) : Host.Outcome State Fault Refusal :=
  match at_.part with
  | .zs => up s fun s => capCheck (flitIn at_.port f s) false
  | .ze => .next (epFlitIn s at_.port.val f)

/-- RECEIVER_WAIT_TIMEOUT (R477): in WAIT for 2 µs, NAK again. -/
def execReceiverWaitTimeout (port : Fin 64) (t : Time) (s : State) := up s fun s =>
  let s := s.at_ t
  match (linkOf s port).wait with
  | none => s
  | some w =>
    if due s.now w (us 2) then
      runCheck (onLink s port fun l => { l with nakDue := true, rxRun := l.rxRun + 1, wait := some s.now }) port
    else s

/-! ### Sleep (R483, R484, R494) -/

/-- What R483 asks of a direction that is to sleep. -/
def maySleep (s : State) (p : Fin 64) (t : Time) : Bool :=
  let l := linkOf s p
  let idle := us (if s.pwr.standby then 1 else s.pwr.sleepIdle)
  portUp s p && !l.sleepTx && due t l.lastTx idle && due t l.lastRx idle && l.held.isEmpty
    && (vcs.all fun v =>
        let u := accountCells s (quadOf p) (some p) v
        decide (u = 0 ∨ u + 256 ≤ guarantee s (quadOf p) (some p) v))
    && !(s.swc.runners.any fun e => runnerEgress e.2 == p) && !l.sleepDisable
    && vcs.all fun v => (egressOf s p v).isEmpty

/-- SLEEP_ENTER (R483): SLEEP goes in the direction's last flit. -/
def execSleepEnter (port : Fin 64) (t : Time) (s : State) := up s fun s =>
  let s := s.at_ t
  if maySleep s port s.now then
    let s := onLink s port fun l => { l with mgmt := (0x10, 0) :: l.mgmt }
    let s := sendFlit s port (flitWith s port t [] 0 false false true false)
    capCheck (onLink s port fun l => { l with sleepTx := true }) false
  else s

/-- SLEEP_WAKE (R484): a flit is to be sent; one that comes in the opposite direction wakes it as it is accepted. -/
def execSleepWake (port : Fin 64) (s : State) := up s fun s =>
  if portUp s port ∧ flitWaits s port then wakeTx s port else s

/-- A write of SLEEP_DISABLE or SEARCH_OWNER (R494); SEARCH_OWNER is ignored outside MAINTENANCE. -/
def writePortCtrl (s : State) (p : Fin 64) (sleep search : Bool) : State :=
  let s := onLink s p fun l => { l with
    sleepDisable := sleep, searchOwner := if s.flt.service then l.searchOwner else search }
  if sleep then onLink (wakeTx s p) p fun l => { l with
    sleepRx := false, lastGood := if l.sleepRx then s.now else l.lastGood } else s

/-- SLEEP_DISABLE (R494): it keeps both directions awake. -/
def execSleepDisable (port : Fin 64) (s : State) := up s fun s =>
  if quadUp s (port.val / 16) then writePortCtrl s port true (linkOf s port).searchOwner else s

/-! ### Link commands (R486, R487) -/

def linkPort (d : Desc) : Nat := Desc.fld d 16 1

def linkRows (s : State) (o : Origin) (d : Desc) : List (Bool × Status) := [
  (!isOperator s o, stTenantDenied),
  (!Desc.clearOutside d [(128, 8)] || decide (linkPort d > 63) || !quadUp s (linkPort d / 16), stOutOfRange)]

def specLinkRetrain : CmdSpec where
  op := 0x88
  dest := here
  chk o d s := firstFail (linkRows s o d ++ [
    (s.flt.service || decide ((linkOf s (linkPort d)).step ≠ 0), stResourceRefused)])
  eff o d _ s :=
    let p := Fin.ofNat 64 (linkPort d)
    let s := if portUp s p then setLinkState (leaveService s p) p lnkDOWN else s
    let s := onLink s p fun l => { l with retrain := some (o, d), outSince := false, cause := 0 }
    startBringup s p 1

/-- LINK_RETRAIN (R482, R486, R487): it completes when the port comes into service, or stays out. -/
def execLinkRetrain (r : CmdRef) (d : Desc) (s : State) := up s (runRow specLinkRetrain r d default)

def specLinkDisable : CmdSpec where
  op := 0x89
  dest := here
  chk o d s := firstFail (linkRows s o d ++ [(!portUp s (linkPort d), stAlreadyDone)])
  eff o d _ s := complete (failLink s (Fin.ofNat 64 (linkPort d)) failDISABLED) o d stOk []

/-- LINK_DISABLE (R480, R486). -/
def execLinkDisable (r : CmdRef) (d : Desc) (s : State) := up s (runRow specLinkDisable r d default)

end Sys2Proof.Machine
end

