-- ==== Sys2Proof/Machine/Power.lean ====
section
/-! DEFINITION. The power governor, the regulator, thermal limits and the supply event recorder (14_power.md). -/

namespace Sys2Proof.Machine

/-! ### The rate factor and its slope (R644, R648) -/

/-- Rows of R644: VCORE in mV, and the rate factor in hundredths at 25, 55, 85 and 105 °C. -/
def rateRows : List (Nat × List Nat) :=
  [(550, [32, 31, 30, 29]), (600, [58, 57, 55, 53]), (650, [76, 74, 72, 70]), (700, [92, 90, 87, 84]),
   (750, [106, 103, 100, 97]), (800, [117, 113, 110, 107]), (850, [125, 122, 118, 114])]

/-- A row at a temperature of 25 to 105 °C, in 1/6,000. -/
def rowAt (l : List Nat) (t : Nat) : Nat :=
  let (k, lo, w) := if t < 55 then (0, 25, 30) else if t < 85 then (1, 55, 30) else (2, 85, 20)
  60 * l.getD k 0 - (l.getD k 0 - l.getD (k + 1) 0) * (t - lo) * (60 / w)

/-- Rise of the rate factor over each 50 mV above a row, in 1/6,000. -/
def segSlope (k t : Nat) : Nat :=
  rowAt ((rateRows.getD (k + 1) (0, [])).2) t - rowAt ((rateRows.getD k (0, [])).2) t

/-- Twice the slope of R644 at a VCORE, in 1/6,000 over 50 mV: at a row, of the two segments that meet there. -/
def slope2 (mv t : Nat) : Nat :=
  let k := (mv - 550) / 50
  if (mv - 550) % 50 ≠ 0 then 2 * segSlope k t
  else if k = 0 then 2 * segSlope 0 t
  else if k ≥ 6 then 2 * segSlope 5 t
  else segSlope (k - 1) t + segSlope k t

/-- A drop of the rate factor in 1/1,024 as a drop of VCORE in 0.5 mV (R670). -/
def depthOf (drop mv t : Nat) : Nat := drop * 1200000 / (1024 * slope2 mv t)

/-! ### Throttles (R327 to R329, R655) -/

/-- The throttles in force; every engine has the same. -/
def dutyNow (s : State) : Nat := (engineOf s 0).duty
def gatherNow (s : State) : Nat := (engineOf s 0).gather
def throttled (s : State) : Bool := decide (dutyNow s < 16 ∨ gatherNow s < 4096)

/-- Sets both throttles of every engine. -/
def setThrottle (s : State) (duty gather : Nat) : State :=
  if duty = dutyNow s ∧ gather = gatherNow s then s
  else
    let was := throttled s
    let s := (List.range 16).foldl (fun s e => onEngine s e fun x => { x with
      duty := duty, gather := gather
      pausedAt := if gather = 0 then (if x.gather = 0 then x.pausedAt else some s.now) else none }) s
    let s := s.onPwr fun p => { p with
      throttleAt := (s.now :: p.throttleAt).filter fun t => decide (s.now ≤ t + us 11) }
    let s := if throttled s ∧ !was then traceQuench (countQuench s) duty gather
      else if was ∧ !throttled s then traceQuench s duty gather else s
    (List.range 16).foldl pumpLines s

/-- Relative power of the core domain of R644 in thousandths, at 85 °C. -/
def relativeRows : List Nat := [161, 352, 541, 758, 1000, 1252, 1515]

/-- Core-domain power at a VCORE, relative to 0.750 V, in 1/50,000. Between the rows it is interpolated linearly, as the
worked example of R661 has it; R644 gives it at 85 °C only, and at another temperature it is free (log entry 23). -/
def coreRelative (mv t : Nat) : Nat :=
  if t = 85 then
    let lo := relativeRows.getD ((mv - 550) / 50) 0
    50 * lo + (relativeRows.getD ((mv - 550) / 50 + 1) lo - lo) * ((mv - 550) % 50)
  else Config.coreRelative mv t

/-- The core-domain blocks: the switch core, the arrays, and the gather, reduction and accumulator units (R645). -/
def corePart (s : State) (activity mv duty gather : Nat) : Nat :=
  Config.corePower activity s.pwr.rate s.pwr.calib duty gather * coreRelative mv (hotLogic s) / 50000

/-- The other blocks: the same at every VCORE, DRAM access at 2.8 pJ for each byte moved (R645). -/
def otherPart (activity duty gather : Nat) : Nat :=
  Config.otherPower activity duty gather + 28 * Config.bytesMoved activity duty gather / 10000

/-- The estimate of R653, in mW. -/
def estAt (s : State) (activity mv duty gather : Nat) : Nat :=
  corePart s activity mv duty gather + otherPart activity duty gather

/-- The highest value not above `n` at which an estimate meets the target, else 0. -/
def highest (s : State) (n : Nat) (est : Nat → Nat) : Nat :=
  ((List.range (n + 1)).reverse.find? fun k => meets s (est k)).getD 0

/-- The governor leaves throttles and regulator alone while a warning, a trip or STANDBY holds them. -/
def governs (s : State) : Bool := !s.pwr.pfw && !s.pwr.tripped && !s.pwr.standby

/-- Quench (R655): ARRAY_DUTY first, and GATHER_LIMIT once it is 0. -/
def quench (s : State) (activity : Nat) : State :=
  let mv := s.pwr.setpoint
  let d := highest s (dutyNow s) fun d => estAt s activity mv d (gatherNow s)
  if d ≠ 0 ∨ meets s (estAt s activity mv 0 (gatherNow s)) then setThrottle s d (gatherNow s)
  else setThrottle s 0 (highest s (gatherNow s) fun g => estAt s activity mv 0 g)

/-- Restores GATHER_LIMIT, then ARRAY_DUTY, each to the highest value whose estimate meets the target (R656). -/
def restoreThrottles (s : State) (activity : Nat) : State :=
  let mv := s.pwr.setpoint
  let g := Nat.max (gatherNow s) (highest s 4096 fun g => estAt s activity mv (dutyNow s) g)
  let s := setThrottle s (dutyNow s) g
  if gatherNow s < 4096 then s
  else setThrottle s (Nat.max (dutyNow s) (highest s 16 fun d => estAt s activity mv d 4096)) (gatherNow s)

/-- POWER_ESTIMATE (R653, R655, R657). -/
def execPowerEstimate (t : Time) (activity : Nat) (s : State) := up s fun s =>
  let s := s.at_ t
  let e := estAt s activity s.pwr.setpoint (dutyNow s) (gatherNow s)
  let s := s.onPwr fun p => { p with
    estimate := e, lastEst := ((s.now, e) :: p.lastEst).filter fun x => decide (s.now ≤ x.1 + us 3) }
  if !governs s then s
  else
    let s := if meets s e then s else quench s activity
    let atLimits := dutyNow s = 0 ∧ gatherNow s = 0 ∧ !meets s (estAt s activity s.pwr.setpoint 0 0)
    s.onPwr fun p => { p with limitsSince := if atLimits then some (p.limitsSince.getD s.now) else none }

/-- ESTIMATE_CALIBRATE (R653). -/
def execEstimateCalibrate (t : Time) (current : Nat) (s : State) := up s fun s =>
  (s.at_ t).onPwr fun p => { p with calib := current }

/-! ### VCORE (R656, R657) -/

/-- The setpoints from a value down to 550 mV. -/
def setpointsFrom (v : Nat) : List Nat := (List.range ((v - 550) / 5 + 1)).map fun k => v - 5 * k

/-- The setpoint that R656 chooses: the highest at which the demand, with both throttles open, meets the target. -/
def chooseSetpoint (s : State) (demand : Nat) : Nat :=
  let v := if s.pwr.fixed then s.pwr.fixedSet else s.pwr.vmax
  ((setpointsFrom v).find? fun v => meets s (estAt s demand v 16 4096)).getD 550

/-- In FIXED mode the setpoint holds while the throttles alone meet the target (R657). -/
def retargetTo (s : State) (demand : Nat) : Nat :=
  if s.pwr.fixed ∧ !s.pwr.fixedLeft then s.pwr.fixedSet else chooseSetpoint s demand

/-- The regulator is commanded: the NVM step of Dawn has completed, it is not silent, and no warning holds it
(R651, R662). -/
def regulatorFree (s : State) : Bool := decide (4 ≤ s.dev.step) && !s.pwr.vrSilent && !s.pwr.pfw && !s.pwr.tripped

/-- Commands a setpoint; the throttles are restored once it has settled. -/
def command (s : State) (v : Nat) : State :=
  if regulatorFree s then (s.onPwr fun p => { p with setpoint := v, ramping := true }).emit (.regulator v) else s

/-- VCORE_RETARGET (R656, R661): after the demand window of a cap change. -/
def execVcoreRetarget (t : Time) (_activity demand : Nat) (s : State) := up s fun s =>
  let s := s.at_ t
  match s.pwr.capSince with
  | none => s
  | some t0 =>
    if governs s ∧ due s.now t0 (us 100) then
      command (s.onPwr fun p => { p with capSince := none }) (retargetTo s demand)
    else s

/-- VCORE_SETTLED (R656). -/
def execVcoreSettled (t : Time) (activity : Nat) (s : State) := up s fun s =>
  let s := s.at_ t
  if !s.pwr.ramping then s
  else
    let s := s.onPwr fun p => { p with ramping := false }
    if governs s then restoreThrottles s activity else s

/-- HEADROOM_CHECK (R656, R657): the computation of R656 again. VCORE rises before any throttle is restored; a
silent regulator holds its setpoint (R651). -/
def execHeadroomCheck (t : Time) (activity demand : Nat) (s : State) := up s fun s =>
  let s := s.at_ t
  if !governs s ∨ s.pwr.ramping ∨ s.pwr.capSince ≠ none then s
  else
    let v := retargetTo s demand
    let s := if s.pwr.fixedLeft ∧ v = s.pwr.fixedSet then s.onPwr fun p => { p with fixedLeft := false } else s
    if v = s.pwr.setpoint ∨ s.pwr.vrSilent then restoreThrottles s activity else command s v

/-- FIXED_LEFT (R657): in FIXED mode both throttles have been at their limits for 1 ms and the estimate still exceeds
the target. -/
def execFixedLeft (t : Time) (_activity demand : Nat) (s : State) := up s fun s =>
  let s := s.at_ t
  match s.pwr.limitsSince with
  | none => s
  | some t0 =>
    if s.pwr.fixed ∧ !s.pwr.fixedLeft ∧ governs s ∧ due s.now t0 (ms 1) then
      command (s.onPwr fun p => { p with fixedLeft := true, limitsSince := none }) (chooseSetpoint s demand)
    else s

/-! ### The regulator (R651) -/

/-- VR_SILENT holds while the regulator answers nothing; telemetry goes to an open entry (R670). -/
def execRegulatorPoll (t : Time) (m : RegReading) (s : State) := up s fun s =>
  let s := s.at_ t
  if s.dev.step < 4 then s
  else
    let heard := m.current.isSome || m.vcore.isSome || m.vin.isSome
    s.onPwr fun p => { p with
      vrLast := if heard then s.now else p.vrLast
      vrSilent := p.vrSilent && !heard
      measured := m.vcore.getD p.measured
      vin := m.vin.getD p.vin
      openS := match p.openS, m.vin with
        | some x, some v => some { x with vinMin := Nat.min x.vinMin v }
        | x, _ => x }

/-- VR_SILENT (R651). -/
def execVrSilent (t : Time) (s : State) := up s fun s =>
  let s := s.at_ t
  if s.dev.step ≥ 4 ∧ !s.pwr.vrSilent ∧ due s.now s.pwr.vrLast (ms 10) then
    powerEvent (s.onPwr fun p => { p with vrSilent := true }) 0x74 none
  else s

/-! ### The supply event recorder (R669 to R674) -/

/-- Windows of 10 µs and of 1 µs. -/
def baseWindows : Nat := 390
def rateWindows : Nat := 39

/-- Sensors of in-service quadrants. -/
def liveSensors (s : State) : List Nat := (List.range 64).filter fun i => quadUp s (i / 16)

/-- Sum of a sensor's readings over the baseline windows. -/
def baseSum (s : State) (i : Nat) : Nat := (s.pwr.windows.map fun w => w.getD i 0).sum

/-- A sensor reads more than THRESH / `div` below its baseline. -/
def sensorLow (s : State) (rs : List Nat) (div i : Nat) : Bool :=
  let n := s.pwr.windows.length
  decide (n ≠ 0) && decide (rs.getD i 0 * 400 * div * n < baseSum s i * (400 * div - s.pwr.thresh))

def lowSensors (s : State) (rs : List Nat) (div : Nat) : List Nat := (liveSensors s).filter (sensorLow s rs div)

/-- A sensor's drop below its baseline. -/
def dropOf (s : State) (rs : List Nat) (i : Nat) : Nat := baseSum s i / s.pwr.windows.length - rs.getD i 0

/-- The median of some values, the mean of the middle two for an even number. -/
def median (l : List Nat) : Nat :=
  let m := l.mergeSort
  let n := m.length
  if n % 2 = 1 then m.getD (n / 2) 0 else (m.getD (n / 2 - 1) 0 + m.getD (n / 2) 0) / 2

/-- DEPTH of the present window. R644 gives no slope outside 25 to 105 °C: it is free there. -/
def windowDepth (s : State) (rs : List Nat) : State × Nat :=
  let low := lowSensors s rs 1
  let t := hotLogic s
  if low = [] then (s, 0)
  else if 25 ≤ t ∧ t ≤ 105 then (s, depthOf (median (low.map (dropOf s rs))) s.pwr.setpoint t)
  else (s.stepFree, s.freeWord.toNat % 65536)

def maskOfList (l : List Nat) : Nat := l.foldl (fun m i => m ||| 2 ^ i) 0

/-- Bits 3:0 of QUADS from a mask of sensors. -/
def quadBits (m : Nat) : Nat := (List.range 4).foldl (fun v q => if bitsOf m (16 * q) 16 ≠ 0 then v + 2 ^ q else v) 0

/-- The estimate rose by more than 40 W within 2 µs before a tick. -/
def loadStep (s : State) (t : Time) : Bool :=
  let l := s.pwr.lastEst.filter fun x => decide (x.1 ≤ t ∧ t ≤ x.1 + us 2)
  l.any fun x => l.any fun y => decide (y.1 < x.1 ∧ x.2 > y.2 + 40000)

/-- Opens an entry: it is written to the ring at once (R671). -/
def openSupply (s : State) (start depth : Nat) (low : List Nat) : State :=
  let p := s.pwr
  let m := maskOfList low
  let x : Supply := {
    start := start, duration := 0, depth := depth, setpoint := p.setpoint, vinBefore := p.vin, vinMin := 0xFFFF
    quads := BitVec.ofNat 8 (quadBits m + 16 * (low.headD 0 / 16)), sensors := m
    flags := BitVec.ofNat 8 (b2n p.pfw + 2 * b2n p.ramping
      + 4 * b2n (p.throttleAt.any fun t => decide (t < start ∧ start ≤ t + us 10))
      + 8 * b2n (loadStep s start) + 16 * b2n (s.flt.tn.lock == .unlocked))
    temp := hotLogic s, index := p.total.toNat }
  s.onPwr fun p => { p with
    openS := some x, below := 0, ring := (x :: p.ring).take 1024, total := bump p.total, next := (p.next + 1) % 1024 }

/-- The open entry takes in one more window. -/
def extendSupply (s : State) (rs : List Nat) (x : Supply) : State :=
  let low := lowSensors s rs 1
  let quiet := decide ((lowSensors s rs 2).length < 4)
  let (s, d) := windowDepth s rs
  let m := x.sensors ||| maskOfList low
  let x := { x with
    duration := Nat.min 0xFFFFFFFF (x.duration + 1), depth := Nat.max x.depth d, sensors := m
    quads := BitVec.ofNat 8 (quadBits m)
      ||| (if x.sensors = 0 then BitVec.ofNat 8 (16 * (low.headD 0 / 16)) else x.quads &&& 0x30)
    flags := x.flags ||| (if s.pwr.ramping then 2 else 0) }
  s.onPwr fun p => { p with openS := some x, below := if quiet then p.below + 1 else 0 }

/-- Replaces an entry of the ring, while the ring still holds it. -/
def ringPut (l : List Supply) (x : Supply) : List Supply := l.map fun y => if y.index = x.index ∧ y.start = x.start then x else y

/-- Closes the open entry after 4 quiet windows, with the alarm of R674. -/
def closeSupply (s : State) : State :=
  match s.pwr.openS with
  | none => s
  | some x =>
    if s.pwr.below < 4 then s
    else
      let s := s.onPwr fun p => { p with openS := none, below := 0, ring := ringPut p.ring x }
      let may : Bool := match s.pwr.alarmAt with
        | some t => due s.now t (ms 10)
        | none => true
      if x.depth ≥ 2 * s.pwr.alarm ∧ may then
        powerEvent (s.onPwr fun p => { p with alarmAt := some s.now }) 0x70 (some x)
      else s

/-- The readings of a window: the rate factor over the last 1 µs (R648), and the baseline where the window is
undisturbed. -/
def takeWindow (s : State) (rs : List Nat) (disturbed : Bool) : State :=
  let low := ((liveSensors s).map fun i => rs.getD i 0).foldl Nat.min 4095
  let s := s.onPwr fun p =>
    let lows := (low :: p.lows).take rateWindows
    { p with
      readings := rs, lows := lows, rate := lows.sum / lows.length
      windows := if disturbed then p.windows else (rs :: p.windows).take baseWindows }
  if rateFull s then s else s.onSwc fun c => { c with suspended := true }

/-- SENSOR_WINDOW (R647, R648, R669): a window that ends at `t`. -/
def execSensorWindow (t : Time) (readings : List Nat) (s : State) := up s fun s =>
  let s := s.at_ t
  match s.pwr.openS with
  | some x => closeSupply (takeWindow (extendSupply s readings x) readings true)
  | none =>
    let low := lowSensors s readings 1
    if low.length ≥ 4 then
      let (s, d) := windowDepth s readings
      let s := openSupply s (s.now - 64) d low
      takeWindow (s.onPwr fun p => { p with openS := p.openS.map fun x => { x with duration := 1 } }) readings true
    else takeWindow s readings false

/-! ### The early warning (R662, R663) -/

/-- PFW_N_ASSERT (R662): the open entry is marked, or one is opened. -/
def execPfwNAssert (s : State) := up s fun s =>
  if s.pwr.pfw then s
  else
    let s := setThrottle s 0 0
    let s := s.onPwr fun p => { p with pfw := true, capSince := none }
    let s := match s.pwr.openS with
      | some x =>
        let x := { x with flags := x.flags ||| 1 }
        s.onPwr fun p => { p with openS := some x, ring := ringPut p.ring x }
      | none => openSupply s s.now 0 []
    powerEvent s 0x72 s.pwr.openS

/-- PFW_N_DEASSERT (R663): deasserted for 1 ms without a break, at `t`. -/
def execPfwNDeassert (t : Time) (_activity demand : Nat) (s : State) := up s fun s =>
  let s := s.at_ t
  if !s.pwr.pfw then s
  else
    let s := s.onPwr fun p => { p with pfw := false }
    if governs s then command s (retargetTo s demand) else if s.pwr.standby ∧ !s.pwr.tripped then command s 600 else s

/-! ### Thermal limits (R667, R668) -/

/-- Takes temperature readings: 8 logic sensors of each quadrant, and the stacks. -/
def takeTemps (s : State) (logic dram : List Nat) : State :=
  let hot := fun q => ((logic.drop (8 * q)).take 8).foldl Nat.max 0
  let s := s.onPwr fun p => { p with
    qtemp := [0, 1, 2, 3].foldl (fun t q => t.set q (hot q)) p.qtemp
    qpeak := [0, 1, 2, 3].foldl (fun t q => t.set q (Nat.max (t.getD q 0) (hot q))) p.qpeak }
  (List.range 16).foldl (fun s k => s.onStack k fun x => { x with temp := dram.getD k x.temp }) s

/-- Every reading has fallen `n` below its limit. -/
def cooled (s : State) (logic dram : List Nat) (n : Nat) : Bool :=
  (logic.all fun t => decide (t + n ≤ s.pwr.logicLimit)) && dram.all fun t => decide (t + n ≤ 103)

/-- THERMAL_CAP_STEP (R667): each time it begins to lower the cap it starts from the estimate. -/
def execThermalCapStep (t : Time) (logic dram : List Nat) (s : State) := up s fun s =>
  let s := takeTemps (s.at_ t) logic dram
  let hot := logic.any (fun t => decide (t ≥ s.pwr.logicLimit)) || dram.any fun t => decide (t ≥ 103)
  let was := s.pwr.lowering
  let lower := hot || (s.pwr.lowering && !cooled s logic dram 2)
  let s := s.onPwr fun p => { p with lowering := lower }
  if lower then
    setCap s fun p => { p with thermal := Nat.max 1 ((if was then p.thermal else Nat.min p.thermal (p.estimate / 1000)) - 5) }
  else if cooled s logic dram 4 then setCap s fun p => { p with thermal := Nat.min 600 (p.thermal + 5) }
  else s

/-- A port stops transmitting at a trip (R668): it stays out, and nothing is reported from here. -/
def tripPort (s : State) (p : Nat) : State :=
  if portUp s p ∨ (linkOf s p).step ≠ 0 then stayOut s (Fin.ofNat 64 p) failDISABLED else s

/-- THERMAL_TRIP (R668). -/
def execThermalTrip (logic dram : List Nat) (s : State) := up s fun s =>
  if s.pwr.tripped ∨ !(logic.any (fun t => decide (t ≥ 115)) || dram.any fun t => decide (t ≥ 110)) then s
  else
    let s := takeTemps s logic dram
    let s := setThrottle s 0 0
    let s := (List.range 64).foldl tripPort s
    let s := { (s.onPwr fun p => { p with tripped := true }) with dev := { s.dev with thermtrip := true } }
    powerEvent (s.emit (.pin "THERMTRIP_N" false)) 0x73 none

/-! ### Power commands (R665, R676, R677) -/

/-- STANDBY is refused while a program runs or a group is ARMED (R665). -/
def standbyRefused (s : State) : Bool :=
  (s.cru.progs.any fun e => e.2.state == .running || e.2.state == .ending) || s.col.groups.any fun e => e.2.state == .armed

/-- A setpoint in mV that the regulator does not take (R650, R677). -/
def mvBad (v : Nat) : Bool := decide (v < 550 ∨ v > 850 ∨ v % 5 ≠ 0)

/-- What is wrong with the body of a power command (R676, R677). -/
def powerBad (d : Desc) : Bool :=
  let op := Desc.opcode d
  if op = 0xB8 then !Desc.clearOutside d [(128, 16), (144, 8), (384, 16)] || decide (Desc.fld d 16 2 > 600 ∨ Desc.fld d 18 1 > 1)
  else if op = 0xB9 then !Desc.clearOutside d [(128, 1), (144, 16), (160, 16), (176, 1), (384, 16)]
    || mvBad (Desc.fld d 18 2) || mvBad (Desc.fld d 20 2)
  else if op = 0xBA then !Desc.clearOutside d [(384, 16), (448, 64)]
  else !Desc.clearOutside d [(128, 8), (136, 1), (384, 16)] || decide (Desc.fld d 16 1 < 1 ∨ Desc.fld d 16 1 > 40)

def modeFixed (d : Desc) : Bool := Desc.bit d 128
def modeStandby (d : Desc) : Bool := Desc.bit d 176

/-- The regulator is commanded, and the throttles are closed, ARRAY_DUTY first (R328), or left to R656. -/
def enterMode (s : State) (d : Desc) : State :=
  let s := s.onPwr fun p => { p with
    fixed := modeFixed d, fixedSet := Desc.fld d 18 2, vmax := Desc.fld d 20 2, standby := modeStandby d
    fixedLeft := false, capSince := if modeStandby d then none else some s.now }
  if modeStandby d then setThrottle (command s 600) 0 0 else s

def specPwrMode : CmdSpec where
  op := 0xB9
  dest := targetAt 48
  chk o d s := firstFail [
    (!isOperator s o, stTenantDenied),
    (powerBad d || !targetLegal s d 48, stOutOfRange),
    (modeStandby d && standbyRefused s, stResourceRefused),
    (s.pwr.standby == modeStandby d && s.pwr.fixed == modeFixed d, stAlreadyDone)]
  eff o d _ s := complete (enterMode s d) o d stOk []

/-- PWR_MODE (R665, R676). -/
def execPwrMode (r : CmdRef) (d : Desc) (s : State) := up s (runRow specPwrMode r d default)

/-- The entries of the ring, oldest first, as 32 KiB; the open one as it stands. -/
def supplyImage (s : State) : List Byte :=
  padTo 32768 (s.pwr.ring.reverse.flatMap fun x =>
    match s.pwr.openS with
    | some y => if y.index = x.index ∧ y.start = x.start then supplyBytes y true else supplyBytes x false
    | none => supplyBytes x false)

def specSupplyDump : CmdSpec where
  op := 0xBA
  dest := targetAt 48
  chk o d s := firstFail [
    (!isOperator s o, stTenantDenied),
    (powerBad d || !targetLegal s d 48 || carriedHere o, stOutOfRange)]
  eff o d _ s :=
    if dmaOk s (originPort o) then
      complete (dmaWrite s (originPort o) (Desc.fld d 56 8) (supplyImage s)) o d stOk (leBytes 2 s.pwr.ring.length)
    else complete s o d stInternal []

/-- SUPPLY_DUMP (R676). -/
def execSupplyDump (r : CmdRef) (d : Desc) (s : State) := up s (runRow specSupplyDump r d default)

def specSupplyCtrl : CmdSpec where
  op := 0xBB
  dest := targetAt 48
  chk o d s := firstFail [
    (!isOperator s o, stTenantDenied),
    (powerBad d || !targetLegal s d 48, stOutOfRange)]
  eff o d _ s :=
    complete (s.onPwr fun p => { p with
      thresh := Desc.fld d 16 1, ring := if Desc.bit d 136 then [] else p.ring }) o d stOk []

/-- SUPPLY_CTRL (R676). -/
def execSupplyCtrl (r : CmdRef) (d : Desc) (s : State) := up s (runRow specSupplyCtrl r d default)

/-! ### Power state (R664) -/

/-- DEV_STATUS code of the power state. DUSK begins with step 5 of R632, once the switch's own drain has ended. -/
def powerState (s : State) : Nat :=
  if s.flt.dusk && !(s.flt.drains.any fun d => d.subject == s.dev.nodeId) then 3 else if s.pwr.standby then 2
  else if throttled s ∨ s.pwr.unmet ∨ s.pwr.pfw then 1 else 0

end Sys2Proof.Machine
end

