-- ==== Sys2Proof/Machine/ZsResolve.lean ====
section
/-! DEFINITION. Responses at the switch (R202): what the resolution of each of its own requests means, carried commands
(R198), the row tables (R197, R751) and the books of a ROW cap (R676). -/

namespace Sys2Proof.Machine

/-! ### Carried commands (R198, R634) -/

/-- The verdicts that a command for the manager gives: KIND and SUBJECT, where the verdict names one. -/
def commandVerdicts (d : Desc) : List (Byte × Option Node) :=
  let op := Desc.opcode d
  let n := fun o => (BitVec.ofNat 16 (Desc.fld d o 2) : Node)
  if op = 0xA9 then [(4, none)]
  else if op = 0xAA then [(5, some (n 16))]
  else if op = 0xAB then ([n 16, n 18, n 20, n 22].filter (· ≠ 0)).map fun x => (3, some x)
  else if op = 0xAC then [(2, some (n 16))]
  else []

/-- A verdict of a kind, about a subject, that was decided at a tick or later has been applied here. -/
def appliedSince (s : State) (began : Time) (w : Byte × Option Node) : Bool :=
  s.flt.tn.applied.any fun v => decide (v.kind = w.1 ∧ began ≤ v.decided) && (w.2 == none || w.2 == some v.subject)

/-- Every verdict of a command has been applied here. -/
def verdictsIn (s : State) (d : Desc) (began : Time) : Bool := (commandVerdicts d).all (appliedSince s began)

/-- Ends a carried command with the record that came back for it. -/
def finishCarry (s : State) (c : Carry) (rec_ : List Byte) : State :=
  let s := s.onHif fun f => { f with carries := f.carries.filter fun x => x.id != c.id }
  match c.origin with
  | .ring r => writeCompletion s r (patchBytes rec_ 8 (leBytes 4 r.slot.toNat)) (Desc.notify c.desc)
  | .carried src _ id _ _ => sendMgmt s .carryCpl src (carryCplPayload id rec_)

/-- The status of a switch-core or power command whose TARGET cannot be reached (R273, R677): of the rows above DEST_LOST,
those that the state of no switch enters still come first; a SUPPLY_DUMP names a host address (R198). -/
def unreached (s : State) (o : Origin) (d : Desc) : Status :=
  let op := Desc.opcode d
  let rows : List (Bool × Status) :=
    if op = 0x50 ∨ op = 0x51 then
      [(!isOperator s o && credOf s o != tagOf (mcTag d), stTenantDenied), (mcBad s d, stOutOfRange)]
    else if op = 0x52 then
      let r := descRunner s d
      [(!isOperator s o, stTenantDenied),
       (runnerReserved s d || decide (r.slots = 0) || runnerIngress r == some (runnerEgress r), stOutOfRange)]
    else if op = 0x53 then
      [(!isOperator s o, stTenantDenied), (!Desc.clearOutside d runnerFields || decide (runnerIndex d > 63), stOutOfRange)]
    else if op = 0x54 then [(!isOperator s o, stTenantDenied), (!Desc.clearOutside d routeFields || (routeKey d).isNone, stOutOfRange)]
    else if op = 0x55 then [(!isOperator s o, stTenantDenied), (!Desc.clearOutside d [(128, 1), (384, 16)], stOutOfRange)]
    else if 0xB8 ≤ op ∧ op ≤ 0xBB then [(!isOperator s o, stTenantDenied), (powerBad d || op == 0xBA, stOutOfRange)]
    else []
  (firstFail rows).getD stDestLost

/-- Ends a carried command that has no answer. -/
def carryLost (s : State) (id : Nat) : State :=
  match s.hif.carries.find? fun c => c.id == id with
  | none => s
  | some c => complete (s.onHif fun f => { f with carries := f.carries.filter fun x => x.id != id }) c.origin c.desc
      (unreached s c.origin c.desc) []

/-- Carried commands whose answers wait for verdicts that have now been applied (R634). -/
def carriesGo (s : State) : State :=
  s.hif.carries.foldl (fun s c => match c.done with
    | some r => if verdictsIn s c.desc c.began then finishCarry s c r else s
    | none => s) s

/-- CARRY_CPL at the switch that carried the command (R198); a late one is discarded. -/
def carryCplGot (s : State) (y : List Byte) : State :=
  match s.hif.carries.find? fun c => c.id == fieldAt y 4 4 with
  | none => s
  | some c =>
    let r := (y.drop 16).take 64
    if r.getD 1 0 = stOk ∧ !verdictsIn s c.desc c.began then
      s.onHif fun f => { f with carries := f.carries.map fun x => if x.id = c.id then { c with done := some r } else x }
    else finishCarry s c r

/-- CARRY_TIMEOUT (R198): no CARRY_CPL within 20 ms of the CARRY_CMD's ACK. -/
def execCarryTimeout (id : Nat) (t : Time) (s : State) := up s fun s =>
  let s := s.at_ t
  match s.hif.carries.find? fun c => c.id == id with
  | none => s
  | some c =>
    match c.acked, c.done with
    | some a, none => if due s.now a (ms 20) then carryLost s id else s
    | _, _ => s

/-! ### The ROW cap that the manager has sent (R676) -/

def onRowCap (s : State) (id : Nat) (f : RowCap → RowCap) : State :=
  s.onPwr fun p => { p with rowSent := p.rowSent.map fun c => if c.id = id then f c else c }

/-- Completes a PWR_CAP: DATA returns the number of switches reached. -/
def endRowCap (s : State) (c : RowCap) : State :=
  complete (s.onPwr fun p => { p with rowSent := p.rowSent.filter fun x => x.id != c.id }) c.origin c.desc stOk
    (leBytes 4 c.reached ++ capData s)

/-- Caps that every switch holds and whose activation tick has come: they have been applied everywhere. -/
def rowCapsDone (s : State) : State :=
  (s.pwr.rowSent.filter fun c => decide (c.waiting = 0 ∧ c.activate ≤ s.now)).foldl endRowCap s

/-- One CAP_SET is resolved. -/
def capAcked (s : State) (id : Nat) (ok : Bool) : State :=
  rowCapsDone (onRowCap s id fun c => { c with waiting := c.waiting - 1, reached := c.reached + b2n ok })

/-- ROW_CAP_TIMEOUT (R676): 10 ms after the CAP_SETs were sent. -/
def execRowCapTimeout (t : Time) (s : State) := up s fun s =>
  let s := s.at_ t
  (s.pwr.rowSent.filter fun c => due s.now c.sent (ms 10)).foldl endRowCap s

/-! ### The row tables of a joining switch (R197, R751) -/

/-- The parts that make up the tables: WHAT and PART. -/
def tableParts : List (Nat × Nat) := [(0, 0), (0, 1), (0, 2), (1, 0), (1, 1), (2, 0), (3, 0)]

/-- Every part has come. -/
def tablesIn (s : State) : Bool := tableParts.all fun x => s.flt.tables.contains x

/-- An entry of the remap table (R624). -/
def remapBytes (logical : Nat) (e : RemapEntry) : List Byte :=
  leBytes 2 logical ++ leBytes 2 e.physical.toNat ++ [e.inc, BitVec.ofNat 8 e.st] ++ zeros 2

def remapOf (b : List Byte) : RemapEntry := ⟨BitVec.ofNat 16 (fieldAt b 2 2), b.getD 4 0, (b.getD 5 0).toNat⟩

/-- The remap table as FLT_QUERY and TABLE_DATA give it: 256 entries. -/
def remapImage (s : State) : List Byte := padTo 2048 ((s.flt.remap.take 256).flatMap fun e => remapBytes e.1 e.2)

/-- Adopts one part of a table. -/
def adoptPart (s : State) (what part : Nat) (data : List Byte) : State :=
  let s := s.onFlt fun c => { c with tables := if c.tables.contains (what, part) then c.tables else c.tables ++ [(what, part)] }
  if what = 0 then
    s.onXp fun x => { x with
      inc := (List.range data.length).foldl (fun t i => setInc t (1984 * part + i) (data.getD i 0)) x.inc }
  else if what = 1 then
    (List.range (data.length / 8)).foldl (fun s i =>
      let b := (data.drop (8 * i)).take 8
      if b.getD 5 0 = 0 then s
      else s.onFlt fun c => { c with remap := c.remap.set (fieldAt b 0 2) (remapOf b) }) s
  else if what = 2 then
    s.onFlt fun c => { c with
      spares := ((List.range (data.length / 2)).map fun i => (BitVec.ofNat 16 (fieldAt data (2 * i) 2) : Node)).filter (· ≠ 0) }
  else s.onFlt fun c => { c with rowMode := some (data.getD 0 0 == 1) }

/-- The row's incarnations, and the NODE_ID of a remapped coordinate, go to every end point that this switch has
configured (R751). The end point still answers to the coordinate of its slot. -/
def reconfigureEps (s : State) : State :=
  ((List.range 64).filter fun p => portUp s p && (linkOf s p).configured).foldl (fun s p =>
    let own : Node := BitVec.ofNat 16 (rackOf s.dev.nodeId * 256 + swOf s.dev.nodeId * 32 + (planOf s p).index)
    let me := slotNode s (planOf s p).index
    let table := (List.range 4096).map fun i => s.xp.inc.getD i 0
    let s := epcWriteReq s .none own 0x140000 (table.take 1984) none
    let s := epcWriteReq s .none own (0x140000 + 1984) ((table.drop 1984).take 1984) none
    let s := epcWriteReq s .none own (0x140000 + 3968) (table.drop 3968) none
    epcWriteReq s .none own 0x10 (zeros 5 ++ [incOf s.xp.inc me] ++ leBytes 2 me.toNat) none) s

/-- A part has come from the manager of the row; one that another switch sends is dropped. The last one writes the
tables on to the end points. -/
def tableGot (s : State) (p : Packet) : State :=
  let y := p.payload
  if p.src ≠ s.flt.tn.manager ∨ s.flt.tn.lock ≠ .unlocked ∨ tablesIn s then s
  else
    let s := adoptPart s (fieldAt y 1 1) (fieldAt y 4 2) ((y.drop 16).take (fieldAt y 2 2))
    if tablesIn s then reconfigureEps s else s

/-! ### Resolution -/

/-- A partner has confirmed that it freed a copy, or is lost (R705, R707). -/
def partnerFreed (s : State) (ri : Nat) (ok : Bool) : State :=
  s.onSec fun c => { c with scrubs := c.scrubs.map fun e =>
    if e.2.waitPartner.contains ri then
      (e.1, { e.2 with
        waitPartner := e.2.waitPartner.erase ri
        partner := e.2.partner + b2n ok, partnerLost := e.2.partnerLost + b2n (!ok) })
    else e }

/-- A mirrored write's PARTNER_WRITE that failed: the copy is lost, and the write lands here alone (R433). -/
def partnerWriteFailed (s : State) (wid ri : Nat) : State :=
  let s := partnerCopyLost s ri
  match s.partnerW.find? fun m => m.wid == wid with
  | some m => landMirror s m
  | none => s

/-- A MGMT answer's data. -/
def answerData (p : Packet) : List Byte := (p.payload.drop 16).take (fieldAt p.payload 2 2)

/-- What the resolution of a request of the switch means. `p` is the answer, or the request itself where none came. -/
def zsResolved (s : State) (c : Cause) (req : Packet) (st : Status) (p : Packet) : State :=
  let got := p.opcode == opMGMT && isMgmtAnswer p.msg
  match c with
  | .program _ _ id => storeResolved s id req.off st
  | .partnerWrite wid ri => if st = stOk then mirrorAcked s wid else partnerWriteFailed s wid ri
  | .partnerRead line => if got then partnerDataGot s line p.payload else partnerDataFailed s line
  | .grantReq o d k => if got then grantGot s o d k p.payload else complete s o d stDestLost []
  | .partnerFree ri => partnerFreed s ri (st == stOk)
  | .carry id =>
    if st = stOk then s.onHif fun f => { f with
        carries := f.carries.map fun x => if x.id = id then { x with acked := some s.now } else x }
    else carryLost s id
  | .epc o d i => if got then epcGot s o d i (answerData p) else epcEnded s o d i st
  | .epcIdent port => if got then epcIdentGot s port (answerData p) else s
  | .table _ _ => if got then tableGot s p else s
  | .capSet id => capAcked s id (st == stOk)
  | _ => s

/-- Ends one request of the switch. -/
def zsEnd (s : State) (o : Op) (st : Status) (p : Packet) : State :=
  zsResolved (s.onXp fun x => resolved x s.now o st) o.cause o.pkt st p

/-- The answer to a request has as its status what the request's kind gives it. -/
def isFinal (p : Packet) : Bool := p.opcode != opHOLD

/-- The ACK of a result names the result's REGION and OFFSET (R186, R396), which any other ACK leaves 0. -/
def namesResult (p : Packet) : Bool := p.opcode == opACK && (p.region != 0 || p.offset != 0)

/-- A response that answers a request of this switch, and not a result it has sent to a member (R202, R396). A result's
answer repeats that packet's own SEQ. DEDUCED (log entry 184): a NACK or a HOLD, or an ACK with REGION and OFFSET 0, that
fits both is taken for the request's when STREAM and TENANT are the request's. -/
def answersOp (s : State) (p : Packet) : Option Op :=
  if namesResult p then none else
  match accepts s.xp s.dev.nodeId p with
  | some o => if o.pkt.stream = p.stream ∧ o.pkt.tenant = p.tenant then some o
      else if (resultFor s p).isSome then none else some o
  | none => none

/-- A response at the switch (R202, R209, R225). -/
def zsResponse (s : State) (a : Arrival) : State :=
  let s := consume s a.pkt
  if s.flt.tn.lock = .unlocked ∧ !unlockedOk a.pkt then s
  else
    pump (match answersOp s a.pkt with
      | none =>
        if a.pkt.crcOk ∧ a.pkt.dst = s.dev.nodeId ∧ a.pkt.dstInc = incOf s.xp.inc s.dev.nodeId then memberAnswer s a.pkt
        else s
      | some o =>
        let s := s.onXp fun x => heard x s.now a.pkt
        if isFinal a.pkt then zsEnd s o (finalStatus a.pkt) a.pkt else s)

/-- Ends every unresolved request, sent or waiting, that a condition selects (R221). -/
def zsEndAll (s : State) (sel : Packet → Bool) : State :=
  let ops := s.xp.ops.filter fun o => sel o.pkt
  let ws := s.xp.wait.filter fun w => sel w.pkt
  let s := s.onXp fun x => { x with wait := x.wait.filter fun w => !sel w.pkt }
  let s := ops.foldl (fun s o => zsEnd s o (giveUpStatus o.pkt) o.pkt) s
  ws.foldl (fun s w => zsResolved s w.cause w.pkt (giveUpStatus w.pkt) w.pkt) s

/-- RETRANSMIT at the switch (R207). -/
def zsRetransmit (s : State) (o : Op) : State :=
  let p := retransmission o.pkt
  let o' := { o with pkt := p, sent := o.sent + 1, last := s.now }
  originate (countRetx (s.onXp fun x => { x with ops := x.ops.map fun q => if q = o then o' else q })) (Fin.ofNat 4 o.port) p.vc none p

/-- GIVE_UP at the switch (R210). -/
def zsGiveUp (s : State) (o : Op) : State :=
  pump (zsEnd (reportGiveUp s .zs o.pkt.dst) o (giveUpStatus o.pkt) o.pkt)

end Sys2Proof.Machine
end

