-- ==== Sys2Proof/Machine/Fault.lean ====
section
/-! DEFINITION. The time base, the election, reports, verdicts and what they do at a node (13_time_faults.md). -/

namespace Sys2Proof.Machine

/-! ### Terms, eligibility and quorum (R612, R613, R615) -/

/-- This switch is eligible (R612). -/
def eligible (s : State) : Bool := s.cfg.eligible && s.sec.owned && decide (7 ≤ s.dev.step) && !s.flt.dusk

/-- A node adopts a higher term and its manager (R613). An UNLOCKED switch asks the new manager for its tables again
(R751). -/
def adoptTerm (s : State) (part : Part) (term : Nat) (m : Node) : State :=
  let n := tnOf s part
  if term ≤ n.term then s
  else
    let s := onTn s part fun n => { n with term := term, manager := m, termAt := nowOf s part, electing := false }
    match part with
    | .ze => s
    | .zs => s.onFlt fun c => { c with
        role := false, window := none
        tables := if n.manager = m ∨ n.lock ≠ .unlocked then c.tables else [] }

/-- The bit of a switch in a STATUS map (R610). -/
def statusBit (n : Node) : Nat := 16 * rackOf n + 8 * planeOf n + swOf n

/-- A node's own bit: that of a switch. -/
def ownBit (s : State) (part : Part) : BitVec 256 := match part with
  | .zs => 1#256 <<< statusBit s.dev.nodeId
  | .ze => 0

/-- A neighbour that has sent STATUS within 1 ms: a child. -/
def childNow (n : Neighbor) (now : Time) : Bool := match n.statusAt with
  | some t => decide (now < t + ms 1)
  | none => false

/-- The subtree of a node: its own bit and the maps of its children. -/
def subtree (s : State) (part : Part) : BitVec 256 :=
  ((tnOf s part).nbrs.filter fun e => childNow e.2 (nowOf s part)).foldl (fun m e => m ||| e.2.map) (ownBit s part)

def bitCount (m : BitVec 256) : Nat := (bitList m.toNat 256).length

/-- The manager holds quorum (R615). -/
def quorum (s : State) : Bool :=
  decide (bitCount s.cfg.switches < 2 * bitCount (subtree s .zs &&& s.cfg.switches))

/-- The beacon of a node's parent. -/
def parentBeacon (n : TimeNode) : Option Beacon := match n.parent with
  | some p => (n.nbrs.get? p).map Neighbor.b
  | none => none

/-- QUORUM as a node knows it: the manager from the maps, any other node from its parent's beacon. -/
def quorumKnown (s : State) (part : Part) : Bool :=
  let far := match parentBeacon (tnOf s part) with
    | some b => b.flags.getLsbD 2
    | none => false
  match part with
  | .zs => if s.flt.role then quorum s else far
  | .ze => far

/-! ### Beacons (R608, R609) -/

/-- DEPTH that a node sends. A switch that joins a locked row sends 0xFF until it has the row's tables (R751). -/
def depthSent (s : State) (part : Part) : Nat := match part with
  | .zs => if s.flt.tn.lock = .unlocked ∧ !tablesIn s then 255 else s.flt.tn.depth
  | .ze => s.ep.tn.depth

/-- The beacon that a node sends on a port at its time base. Beacons leave on a whole tick, so T_DEPART has fraction
0. DESIGN CHOICE (log entry 60). -/
def beaconNow (s : State) (part : Part) (port : Nat) : Beacon :=
  let n := tnOf s part
  let now := nowOf s part
  let nb := (n.nbrs.getD port default)
  let c := candidate n now
  let d := standby n now
  let countOf := fun (x : Node) => ((n.live.get? x.toNat).map Prod.fst).getD 0
  let elig := match part with
    | .zs => eligible s
    | .ze => false
  { flags := BitVec.ofNat 8 (b2n elig + 2 * b2n (n.lock != .unlocked) + 4 * b2n (quorumKnown s part) + 8 * b2n n.electing)
    depth := BitVec.ofNat 8 (depthSent s part), frac := if nb.heard then BitVec.ofNat 8 (16 * (nb.frac % 16)) else 0
    term := n.term, sender := nodeOf s part, manager := n.manager, candidate := c, standby := d, tDepart := now
    echoDepart := if nb.heard then nb.b.tDepart else 0, echoArrive := if nb.heard then nb.arrived else 0
    candCount := if c = 0 then 0 else countOf c, stbyCount := if d = 0 then 0 else countOf d }

/-- ELECTING is set anywhere that a node has heard of. -/
def electingHeard (n : TimeNode) : Bool := n.electing || n.nbrs.any fun e => e.2.heard && e.2.b.flags.getLsbD 3

/-- Ticks between beacons on a port (R609). -/
def beaconEvery (s : State) (part : Part) (port : Nat) : Nat :=
  let n := tnOf s part
  let now := nowOf s part
  let child : Bool := match n.nbrs.get? port with
    | some x => childNow x now
    | none => false
  if electingHeard n ∨ (n.term ≠ 0 ∧ now < n.termAt + ms 1) ∨ n.parent = some port ∨ child then us 10 else us 100

def atPart (s : State) (part : Part) (t : Time) : State := match part with
  | .zs => s.at_ t
  | .ze => s.epAt t

/-- A command on either part: at the switch while it runs, at the ZE-208 always. -/
def onPart (part : Part) (s : State) (k : State → State) : Host.Outcome State Fault Refusal := match part with
  | .zs => up s k
  | .ze => .next (k s)

/-- BEACON_SEND (R609). -/
def execBeaconSend (part : Part) (port : Fin 64) (t : Time) (s : State) := onPart part s fun s =>
  let s := atPart s part t
  let last := ((tnOf s part).nbrs.get? port).map Neighbor.sentAt
  let now := nowOf s part
  let ready : Bool := match last with
    | some x => decide (x = 0) || due now x (beaconEvery s part port)
    | none => true
  if nodeLinkUp s part port ∧ ready then
    let b := beaconNow s part port
    onTn (sendVc7 s part port (beaconBytes b)) part fun n => { n with
      nbrs := n.nbrs.set port { (n.nbrs.getD port default) with sentAt := now } }
  else s

/-! ### Liveness (R609, R613) -/

/-- A liveness count has been seen: the switch is live once it has risen (R613). -/
def sawCount (now : Time) (n : TimeNode) (x : Node) (count : BitVec 32) : TimeNode :=
  if x = 0 ∨ !isSwitch x then n
  else match ((n.live.get? x.toNat).map Prod.fst).or (n.counted.get? x.toNat) with
    | some c =>
      if 0 < (count - c).toNat ∧ (count - c).toNat < 2 ^ 31 then
        { n with live := n.live.set x.toNat (count, now), counted := n.counted.erase x.toNat }
      else n
    | none => { n with counted := n.counted.set x.toNat count }

/-- Since when this switch has been its own CANDIDATE. -/
def refreshCand (s : State) : State :=
  if eligible s ∧ candidate s.flt.tn s.now = s.dev.nodeId then
    s.onFlt fun c => { c with candSince := some (c.candSince.getD s.now) }
  else s.onFlt fun c => { c with candSince := none }

/-- LIVENESS_TICK (R609): every 10 µs. -/
def execLivenessTick (t : Time) (s : State) := up s fun s =>
  let s := s.at_ t
  let ready : Bool := match s.flt.tn.live.get? s.dev.nodeId.toNat with
    | some (_, x) => due s.now x (us 10)
    | none => true
  if eligible s ∧ ready then
    let n := s.flt.liveCount + 1
    refreshCand (s.onFlt fun c => { c with
      liveCount := n, tn := { c.tn with live := c.tn.live.set s.dev.nodeId.toNat (n, s.now) } })
  else refreshCand s

/-- LIVENESS_AGEOUT (R613): the manager's age-out opens an election. -/
def execLivenessAgeout (node : Node) (t : Time) (s : State) := up s fun s =>
  let s := s.at_ t
  match s.flt.tn.live.get? node.toNat with
  | some e =>
    if isLive s.now e then s
    else refreshCand (if node = s.flt.tn.manager ∧ !s.flt.role then onTn s .zs fun n => { n with electing := true } else s)
  | none => s

/-! ### The time tree (R602) -/

/-- A neighbour's rank as a parent: depth, a switch before an end point, the lower node ID. -/
def parentRank (b : Beacon) : Nat := b.depth.toNat * 2 ^ 17 + (if isSwitch b.sender then 0 else 2 ^ 16) + b.sender.toNat

/-- The best candidate parent on a link in service. -/
def bestParent (s : State) (part : Part) : Option (Nat × Beacon) :=
  let l := ((tnOf s part).nbrs.filter fun e => e.2.heard && nodeLinkUp s part e.1 && decide (e.2.b.depth.toNat ≤ 7)).map
    fun e => (e.1, e.2.b)
  match l with
  | [] => none
  | x :: t => some (t.foldl (fun a b => if parentRank b.2 < parentRank a.2 then b else a) x)

/-- A node takes its parent; a locked node with none is in HOLDOVER. -/
def reparent (s : State) (part : Part) : State :=
  let root := match part with
    | .zs => s.flt.role
    | .ze => false
  let n := tnOf s part
  let s' :=
    if root then onTn s part fun n => { n with parent := none, depth := 0, lock := if n.lock = .holdover then .locked else n.lock }
    else match bestParent s part with
      | some (p, b) => onTn s part fun n => { n with
          parent := some p, depth := b.depth.toNat + 1, parentLostAt := none
          lock := if n.lock = .holdover then .locked else n.lock }
      | none => onTn s part fun n => { n with
          parent := none, depth := 255, parentLostAt := if n.parent.isSome then some (nowOf s part) else n.parentLostAt
          lock := if n.lock = .unlocked then .unlocked else .holdover }
  let m := tnOf s' part
  if part = .zs ∧ (m.parent ≠ n.parent ∨ m.lock ≠ n.lock) then traceTime s' else s'

/-- PARENT_LOSS (R602): the parent's link is out of service, or it has no depth of 7 or less. -/
def execParentLoss (part : Part) (t : Time) (s : State) := onPart part s fun s =>
  let s := atPart s part t
  let n := tnOf s part
  let lost : Bool := match n.parent with
    | none => decide (n.lock = .locked)
    | some p => !nodeLinkUp s part p || (match n.nbrs.get? p with
        | some x => decide (7 < x.b.depth.toNat)
        | none => true)
  if lost then reparent s part else s

/-! ### The sync exchange (R603) -/

/-- The offset of an exchange, parent minus child, in 1/16 tick. Divisions cut toward 0. -/
def exchangeOffset (b : Beacon) (arrival frac : Nat) : Int :=
  let t1 : Int := 16 * b.echoDepart
  let t2 : Int := 16 * b.echoArrive + (b.frac.toNat / 16)
  let t3 : Int := 16 * b.tDepart + (b.frac.toNat % 16)
  let t4 : Int := 16 * arrival + frac
  ((t2 - t1) + (t3 - t4)).tdiv 2

/-- The median of an even number of samples: the mean of the middle two. DESIGN CHOICE (log entry 61). -/
def medianInt (l : List Int) : Int :=
  let x := l.mergeSort fun a b => decide (a ≤ b)
  let k := x.length
  if k = 0 then 0
  else if k % 2 = 1 then x.getD (k / 2) 0
  else (x.getD (k / 2 - 1) 0 + x.getD (k / 2) 0).tdiv 2

/-- An exchange with the parent: its beacon echoes one that this node has sent, and the parent's time base is locked,
so that there is a row's time to take (R600, R601). -/
def takeExchange (s : State) (part : Part) (port : Nat) (b : Beacon) (arrival frac : Nat) : State :=
  if (tnOf s part).parent ≠ some port ∨ b.echoDepart = 0 ∨ !b.flags.getLsbD 1 then s
  else onTn s part fun n =>
    let l := (exchangeOffset b arrival frac :: n.samples).take 64
    { n with samples := l, exchanges := n.exchanges + 1, offset := medianInt l, toSlew := medianInt l }

/-- The correction of this tick (R601): a tick added or left out, at most one in 1,024, while the time base lies a tick
or more from the median. DESIGN CHOICE (log entry 96): it is made as the time base counts. -/
def slewOf (n : TimeNode) : Int :=
  if n.lock = .unlocked ∨ n.parent = none ∨ n.sinceSlew < 1024 then 0
  else if 16 ≤ n.toSlew then 1 else if n.toSlew ≤ -16 then -1 else 0

/-- The time base has moved against its parent's by whole ticks: so have the exchanges that it has made. -/
def movedBy (n : TimeNode) (k : Int) : TimeNode :=
  { n with toSlew := n.toSlew - 16 * k, samples := n.samples.map (· - 16 * k) }

def slewed (n : TimeNode) : TimeNode :=
  { movedBy n (slewOf n) with sinceSlew := if slewOf n = 0 then Nat.min 1024 (n.sinceSlew + 1) else 0 }

/-- A node's time base counts one tick, or slews. -/
def countTick (s : State) (part : Part) : State :=
  let d := (1 + slewOf (tnOf s part)).toNat
  let s := onTn s part slewed
  match part with
  | .zs => s.reachTick (s.now + d)
  | .ze => s.epReachTick (s.ep.now + d)

/-- A node it hears of is locked. -/
def lockedHeard (n : TimeNode) : Bool := n.nbrs.any fun e => e.2.heard && e.2.b.flags.getLsbD 1

/-- An UNLOCKED switch in Dawn step 7 that finds a locked row asks its manager for the parts it lacks (R751). -/
def askTables (s : State) : State :=
  let m := s.flt.tn.manager
  if s.flt.tn.lock ≠ .unlocked ∨ !lockedHeard s.flt.tn ∨ m = 0 ∨ m = s.dev.nodeId ∨ s.dev.step < 7 then s
  else
    let asked := fun (x : Nat × Nat) =>
      (s.xp.ops.map fun o => (o.cause, o.pkt.dst)).any (fun c => c.1 == .table x.1 x.2 && c.2 == m)
        || (s.xp.wait.map fun w => (w.cause, w.pkt.dst)).any (fun c => c.1 == .table x.1 x.2 && c.2 == m)
    (tableParts.filter fun x => !s.flt.tables.contains x && !asked x).foldl (fun s x =>
      sendMgmt s (.table x.1 x.2) m ([0xB6, BitVec.ofNat 8 x.1] ++ zeros 2 ++ leBytes 2 x.2 ++ zeros 10)) s

/-- A step of the time base carries along the times that intervals are counted from. -/
def shiftTime (d : Int) (t : Time) : Time := ((t : Int) + d).toNat

def shiftNode (d : Int) (n : TimeNode) : TimeNode :=
  { n with
    termAt := shiftTime d n.termAt, parentLostAt := n.parentLostAt.map (shiftTime d)
    statusOut := n.statusOut.map (shiftTime d)
    live := n.live.map fun e => (e.1, (e.2.1, shiftTime d e.2.2))
    nbrs := n.nbrs.map fun e => (e.1, { e.2 with
      arrived := shiftTime d e.2.arrived, sentAt := shiftTime d e.2.sentAt, statusAt := e.2.statusAt.map (shiftTime d) }) }

def shiftXport (d : Int) (x : Xport) : Xport :=
  { x with
    ops := x.ops.map fun o => { o with
      first := shiftTime d o.first, last := shiftTime d o.last, held := o.held.map (shiftTime d) }
    src := x.src.map fun e => (e.1, { e.2 with
      streams := e.2.streams.map fun x => (x.1, { x.2 with waits := x.2.waits.map fun w => (w.1, shiftTime d w.2) })
      rateAt := shiftTime d e.2.rateAt, halvedAt := e.2.halvedAt.map (shiftTime d), creditAt := shiftTime d e.2.creditAt })
    busy := x.busy.map fun b => { b with accepted := shiftTime d b.accepted, lastHold := b.lastHold.map (shiftTime d) }
    cw := x.cw.map fun c => (c.1, shiftTime d c.2)
    avoid := x.avoid.map fun a => (a.1, a.2.1, shiftTime d a.2.2) }

def shiftPort (d : Int) (h : HostPort) : HostPort :=
  { h with
    beat := shiftTime d h.beat, silentAt := h.silentAt.map (shiftTime d)
    msixLast := h.msixLast.map fun e => (e.1, shiftTime d e.2)
    dma := h.dma.map fun r => { r with issued := shiftTime d r.issued } }

def shiftLink (d : Int) (l : LinkSt) : LinkSt :=
  { l with
    advanced := shiftTime d l.advanced, wait := l.wait.map (shiftTime d), lastGood := shiftTime d l.lastGood
    lastTx := shiftTime d l.lastTx, lastRx := shiftTime d l.lastRx }

def shiftPwr (d : Int) (p : Pwr) : Pwr :=
  { p with
    lastEst := p.lastEst.map fun x => (shiftTime d x.1, x.2), throttleAt := p.throttleAt.map (shiftTime d)
    limitsSince := p.limitsSince.map (shiftTime d), capSince := p.capSince.map (shiftTime d)
    vrLast := shiftTime d p.vrLast, alarmAt := p.alarmAt.map (shiftTime d) }

def shiftCru (d : Int) (c : Cru) : Cru :=
  { c with
    engines := c.engines.map fun e => (e.1, { e.2 with pausedAt := e.2.pausedAt.map (shiftTime d) })
    progs := c.progs.map fun e => (e.1, { e.2 with launchAt := e.2.launchAt.map (shiftTime d) }) }

def shiftCore (d : Int) (c : Machine.Core) : Machine.Core :=
  { c with times := c.times.map (shiftTime d), compTimes := c.compTimes.map fun x => (x.1, shiftTime d x.2) }

def shiftResult (d : Int) (r : ResultBuf) : ResultBuf :=
  { r with waiting := r.waiting.map fun w => { w with last := shiftTime d w.last, held := w.held.map (shiftTime d) } }

def shiftBook (d : Int) (b : RebuildBook) : RebuildBook := { b with last := b.last.map (shiftTime d) }

/-- The one step of the switch's time base (R601). -/
def stepZs (s : State) (d : Int) : State :=
  let s := { s with now := shiftTime d s.now }
  let s := s.onFlt fun c => { c with
    tn := shiftNode d c.tn, candSince := c.candSince.map (shiftTime d), window := c.window.map (shiftTime d)
    probes := c.probes.map fun e => (e.1, shiftTime d e.2), mgr := c.mgr.map fun m => { m with began := shiftTime d m.began } }
  let s := s.onXp (shiftXport d)
  let s := s.onHif fun f => { f with
    ports := f.ports.map fun e => (e.1, shiftPort d e.2)
    carries := f.carries.map fun c => { c with acked := c.acked.map (shiftTime d), began := shiftTime d c.began }
    begun := f.begun.map fun x => (x.1, shiftTime d x.2) }
  let s := s.onLnk fun l => { l with ports := l.ports.map fun e => (e.1, shiftLink d e.2) }
  let s := s.onPwr (shiftPwr d)
  let s := s.onCru (shiftCru d)
  let s := s.onSec fun c => { c with
    cores := c.cores.map fun e => (e.1, shiftCore d e.2), update := c.update.map fun u => { u with began := shiftTime d u.began } }
  let s := s.onCol fun c => { c with groups := c.groups.map fun e => (e.1, { e.2 with results := e.2.results.map (shiftResult d) }) }
  let s := s.onRgn fun g => { g with regions := g.regions.map fun e => (e.1, { e.2 with lastRebuild := e.2.lastRebuild.map (shiftTime d) }) }
  let s := s.onPool fun p => { p with ringBooks := p.ringBooks.map fun e => (e.1, shiftBook d e.2) }
  s.onCoh fun c => { c with recalls := c.recalls.map fun r => { r with since := shiftTime d r.since } }

/-- The one step of the ZE-208's time base (R601). -/
def stepZe (s : State) (d : Int) : State :=
  s.onEp fun e => { e with
    now := shiftTime d e.now, tn := shiftNode d e.tn, xp := shiftXport d e.xp
    d2d := e.d2d.map fun x => { x with issued := shiftTime d x.issued }
    binds := e.binds.map fun x => (x.1, { x.2 with lastLand := shiftTime d x.2.lastLand }) }

/-- The fabric mode becomes SERVICE or MAINTENANCE; SEARCH_OWNER returns to 0 on entry to SERVICE (R494). -/
def setMode (s : State) (service : Bool) : State :=
  let s := s.onFlt fun c => { c with service := service }
  if service then s.onLnk fun l => { l with ports := l.ports.map fun e => (e.1, { e.2 with searchOwner := false }) } else s

/-- What a first lock needs beside its 64 exchanges: a switch holds the row's tables (R751). -/
def lockReady (s : State) (part : Part) : Bool :=
  let n := tnOf s part
  n.lock == .unlocked && n.parent.isSome && decide (64 ≤ n.exchanges)
    && (match part with
        | .zs => tablesIn s
        | .ze => true)

/-- FIRST_LOCK (R601, R603): the time base steps once by the median offset. A switch takes the row's mode (R631); a
ZE-208 that has its node ID is CONFIGURED (R582). -/
def execFirstLock (part : Part) (s : State) := onPart part s fun s =>
  if !lockReady s part then s
  else
    let d := (tnOf s part).offset.tdiv 16
    match part with
    | .zs =>
      let s := onTn (stepZs s d) .zs fun n => { movedBy n d with lock := .locked }
      traceTime (setMode s (s.flt.rowMode.getD false))
    | .ze => (onTn (stepZe s d) .ze fun n => { movedBy n d with lock := .locked }).onEp fun e => { e with
        configured := decide (e.nodeId ≠ 0) && !e.trip }

/-! ### Node event records (R629, R630) -/

def nodeRecordKind (v : Verdict) : Byte :=
  if v.kind = 1 then (if v.physical = 0xFFFF then 0x30 else 0x31)
  else if v.kind = 2 then 0x31 else if v.kind = 3 then 0x32 else if v.kind = 4 then 0x34
  else if v.kind = 5 then 0x35 else 0x33

def nodeRecord (s : State) (v : Verdict) (tag : Tag) (ended poisoned : Nat) : List Byte :=
  [nodeRecordKind v, if v.kind = 1 then stDestLost else stOk] ++ leBytes 2 tag.toNat ++ leBytes 2 v.subject.toNat
    ++ leBytes 2 v.physical.toNat ++ leBytes 8 v.apply ++ leBytes 8 v.decided ++ leBytes 4 v.term ++ leBytes 4 v.id
    ++ leBytes 8 (if isOp tag then 0 else stepOf s tag) ++ [v.newInc, v.cause] ++ leBytes 2 s.flt.tn.manager.toNat
    ++ leBytes 4 ended ++ leBytes 4 poisoned ++ zeros 12

/-- The results of a group that a member has yet to acknowledge, each by the group's tag. -/
def resultTags (n : Node) (g : RGroup) : List Tag :=
  match g.table.idxOf? n with
  | none => []
  | some rank => (g.results.filter fun r => r.waiting.any fun w => w.rank == rank).map fun _ => g.tenant

/-- Requests of the switch toward a node, by tenant tag: results of groups among them (R396). -/
def endedTags (s : State) (n : Node) : List Tag :=
  ((s.xp.ops.filter fun o => o.pkt.dst == n).map fun o => o.pkt.tenant)
    ++ ((s.xp.wait.filter fun w => w.pkt.dst == n).map fun w => w.pkt.tenant)
    ++ s.col.groups.flatMap fun e => resultTags n e.2

def countTag (l : List Tag) (t : Tag) : Nat := (l.filter (· == t)).length

/-- Tenants with a queue of a node that EP_BIND of this switch bound (log entry 194). -/
def boundTags (s : State) (n : Node) : List Tag := (s.swc.epBound.filter fun b => b.node == n).map EpBound.tenant

/-- Writes a verdict's records: the operator copy to both hosts, and a copy to the owner of each tenant for which it
ended a request, poisoned a line or unbound a queue here. -/
def nodeRecords (s : State) (v : Verdict) (ended poisoned unbound : List Tag) : State :=
  let s := bothEvent s (nodeRecord s v opTag (countTag ended opTag) (countTag poisoned opTag))
  (((ended ++ poisoned ++ unbound).filter fun t => !isOp t).eraseDups).foldl (fun s t =>
    ownerEvent s t (nodeRecord s v t (countTag ended t) (countTag poisoned t))) s

/-! ### Applying a verdict (R221, R620, R621, R625 to R627, R631, R632) -/

/-- The slot here whose EP0 serves a coordinate (R791): that of the end point which serves it, when it attaches here. The
directory's holders are those of plane A. -/
def cellSlot (s : State) (n : Node) : Option Nat := if planeOf s.dev.nodeId ≠ 0 then none else slotOfNode s n

/-- Runners whose egress leads to a lost end point's slot discard their bursts until they are set up anew (R626). -/
def slotRunnersLost (s : State) (n : Node) : State :=
  match (physicalOf s n).filter fun p => rackOf p = rackOf s.dev.nodeId && epSwOf p = swOf s.dev.nodeId && !isSwitch n with
  | none => s
  | some p =>
    let cut := fun e : Nat × Runner => if slotPort s (slotOf p) = some (runnerEgress e.2) then (e.1, { e.2 with lost := true }) else e
    s.onSwc fun c => { c with runners := c.runners.map cut }

/-- The loss of a node at the switch (R621), with the tags of the requests ended and of the lines poisoned. -/
def loseNodeZs (s : State) (n : Node) : State × List Tag × List Tag :=
  let ended := endedTags s n
  let ris := (s.rgn.regions.filter fun e => e.2.partner == n && e.2.protection == 3).map Prod.fst
  let s := ris.foldl partnerCopyLost s
  let s := zsEndAll s fun p => p.dst == n
  let s := s.onXp fun x => forgetNode x n
  let poisoned : List Tag := match cellSlot s n with
    | some l => (ownedBy s (Fin.ofNat 34 (2 + l))).map fun x => x.r.tenant
    | none => []
  let s : State := match cellSlot s n with
    | some l => memberLost s (Fin.ofNat 34 (2 + l)) 5
    | none => s
  let s := slotRunnersLost (breakGroups s n) n
  let s := s.onSwc fun c => { c with epBound := c.epBound.filter fun b => b.node != n }
  if isSwitch n then
    (s.onPool fun p => { p with copies := p.copies.map fun c => if c.home = n then { c with orphaned := true } else c },
      ended, poisoned)
  else (s, ended, poisoned)

/-- A coordinate is now served by an end point: its incarnation advances, and its entry says where it is; a coordinate
at its own slot needs none (R626, R627). -/
def remapZs (s : State) (n phys : Node) (inc : Byte) : State :=
  let s := s.onXp fun x => setIncOf x n inc
  s.onFlt fun c => { c with
    spares := c.spares.filter (· ≠ phys)
    remap := if phys = n then c.remap.erase n.toNat else c.remap.set n.toNat ⟨phys, inc, 1⟩ }

/-- A coordinate that nothing serves: LOST or DRAINED. A switch has no entry: it returns by a new Dawn. -/
def unservedZs (s : State) (n : Node) (st : Nat) (inc : Byte) : State :=
  if isSwitch n then s
  else (s.onXp fun x => setIncOf x n inc).onFlt fun c => { c with remap := c.remap.set n.toNat ⟨0xFFFF, inc, st⟩ }

/-- ARG of a DRAIN: a smaller value than 611 is applied as 611 (R611). -/
def drainArg (v : Verdict) : Nat := Nat.max 611 v.arg
def drainSecond (v : Verdict) : Time := v.apply + drainArg v * 4096

/-- The spare list after a KIND 5 verdict: at most 256 end points (R622). -/
def spareList (l : List Node) (n : Node) (add : Bool) : List Node :=
  if add then (if l.contains n ∨ 256 ≤ l.length then l else l ++ [n]) else l.filter (· ≠ n)

/-- What a verdict does at the switch at its APPLY. -/
def applyZs (s : State) (v : Verdict) : State :=
  let s := s.onFlt fun c => { c with verdictsN := bump c.verdictsN }
  if v.kind = 1 then
    let unbound := boundTags s v.subject
    let (s, ended, poisoned) := loseNodeZs s v.subject
    let s := if v.physical = 0xFFFF then unservedZs s v.subject 2 v.newInc else remapZs s v.subject v.physical v.newInc
    nodeRecords s v ended poisoned unbound
  else if v.kind = 2 then nodeRecords (remapZs s v.subject v.physical v.newInc) v [] [] []
  else if v.kind = 3 then
    s.onFlt fun c => { c with
      drains := c.drains ++ [⟨v.subject, drainSecond v, v⟩], dusk := c.dusk || decide (v.subject = s.dev.nodeId) }
  else if v.kind = 4 then nodeRecords (setMode s (decide (v.arg = 1))) v [] [] []
  else if v.kind = 5 then 
    nodeRecords (s.onFlt fun c => { c with spares := spareList c.spares v.subject (v.arg == 1) }) v [] [] []
  else nodeRecords s v [] [] []

/-- The loss of a node at the ZE-208. -/
def loseNodeZe (s : State) (n : Node) : State :=
  let s := epEndAll s fun p => p.dst == n
  s.onEp fun e => { e with
    xp := forgetNode e.xp n, rwin := e.rwin.filter fun r => r.1 / 1024 != n.toNat }

/-- The line cache is written back and emptied (R168, R632). -/
def epEmptyCache (s : State) : State :=
  let back := s.ep.cache.filter fun c => c.dirty != 0 || c.owned
  let s := s.onEp fun e => { e with cache := [] }
  back.foldl (fun s c => epWriteback s c (.writeback 96 0 c) 0) s

/-- What a verdict does at the ZE-208 at its APPLY. -/
def applyZe (s : State) (v : Verdict) : State :=
  let remap := fun s : State => onEpXp s fun x => setIncOf x v.subject v.newInc
  if v.kind = 1 then remap (loseNodeZe s v.subject)
  else if v.kind = 2 then remap s
  else if v.kind = 3 ∧ v.subject = s.ep.nodeId then
    epEmptyCache (s.onEp fun e => { e with
      ranges := e.ranges.map fun r => (r.1, { r.2 with destroying := true }), binds := [] })
  else s

/-- Applies a verdict at a node, once. One of a lower term than the node knows is dropped (R620). -/
def applyVerdict (s : State) (part : Part) (v : Verdict) : State :=
  let low := decide (v.term < (tnOf s part).term)
  let s := onTn s part fun n => { n with verdicts := n.verdicts.erase v, applied := if low then n.applied else v :: n.applied }
  if low then s
  else match part with
    | .zs => applyZs s v
    | .ze => applyZe s v

/-- The switches of a spare's or a rejoining end point's slot tell it its coordinate, staged for APPLY (R626). -/
def stageSpare (s : State) (v : Verdict) : State :=
  if (v.kind = 1 ∨ v.kind = 2) ∧ v.physical ≠ 0xFFFF ∧ !isSwitch v.physical ∧ rackOf v.physical = rackOf s.dev.nodeId
      ∧ epSwOf v.physical = swOf s.dev.nodeId then
    epcWriteReq s .none (slotNode s (slotOf v.physical)) 0x10 (zeros 5 ++ [v.newInc] ++ leBytes 2 v.subject.toNat) (some v.apply)
  else s

/-- Commands of this switch, and commands it carried, that have had their verdicts. -/
def commandsGo (s : State) : State :=
  let s := (s.flt.mgr.filter fun m => m.decided && verdictsIn s m.desc m.began).foldl (fun s m =>
    complete (s.onFlt fun c => { c with mgr := c.mgr.filter fun x => x.id != m.id }) m.origin m.desc stOk []) s
  carriesGo s

/-- A verdict stands at a node: it waits for its APPLY, or has missed it (R620). -/
def acceptVerdict (s : State) (part : Part) (v : Verdict) : State :=
  let s := if part = .zs then stageSpare s v else s
  let s := onTn s part fun n => { n with verdicts := n.verdicts ++ [v] }
  if v.apply < nowOf s part then
    let s := applyVerdict s part v
    match part with
    | .zs => commandsGo (s.onFlt fun c => { c with late := bump c.late })
    | .ze => s
  else s

/-- The verdicts that are due, in the order of their instants and IDs. -/
def dueVerdicts (n : TimeNode) (now : Time) : List Verdict :=
  (n.verdicts.filter fun v => decide (v.apply ≤ now)).mergeSort fun a b => decide (a.apply < b.apply ∨ (a.apply = b.apply ∧ a.id ≤ b.id))

/-- A node applies the verdicts whose instant has come. -/
def verdictsGo (s : State) (part : Part) : State :=
  let s := (dueVerdicts (tnOf s part) (nowOf s part)).foldl (fun s v => applyVerdict s part v) s
  match part with
  | .zs => commandsGo s
  | .ze => s

/-- VERDICT_APPLY (R620, R621): the first instant of a verdict up to the tick given. -/
def execVerdictApply (part : Part) (t : Time) (s : State) := onPart part s fun s =>
  match part with
  | .zs => verdictsGo (s.reachTick t) .zs
  | .ze => atEp (s.epReachTick t) fun s => verdictsGo s .ze

/-- VERDICT (R611, R620): a lower term is neither applied nor flooded; a higher one is adopted first. -/
def execVerdict (part : Part) (via : Heard) (v : Verdict) (s : State) := onPart part s fun s =>
  if !hears s part via.port via.dst then s
  else
    let s := if part = .zs then traceTimefault s via.port 0x10 false v.subject.toNat v.term else s
    if v.term < (tnOf s part).term then s
    else
      let s := adoptTerm s part v.term v.manager
      if seenKey s part (verdictKey v) then s
      else
        let s := flood (markSeen s part (verdictKey v)) part (some via.port.val) (verdictBytes v)
        match part with
        | .zs => acceptVerdict s .zs v
        | .ze => atEp s fun s => acceptVerdict s .ze v

/-- The second instant of a drain at the switch (R632, steps 4 to 6). -/
def endDrain (s : State) (d : Drain) : State :=
  let s := s.onFlt fun c => { c with drains := c.drains.erase d }
  let unbound := boundTags s d.subject
  let ps := (List.range 64).filter fun p => portUp s p && (nodeAt s p == d.subject || s.dev.nodeId == d.subject)
  let (s, ended, poisoned) := loseNodeZs s d.subject
  let s := unservedZs s d.subject 3 (incOf s.xp.inc d.subject)
  let s := ps.foldl (fun s p => failLink s (Fin.ofNat 64 p) failDISABLED) s
  nodeRecords s d.verdict ended poisoned unbound

/-- The second instant of a drain at the ZE-208: its own ports stop and its configuration is cleared; requests toward
another drained node end. -/
def endDrainZe (s : State) (n : Node) : State :=
  if n = s.ep.nodeId ∧ s.ep.configured then epLosePort (epLosePort ((s.emit (.lanesOff 64)).emit (.lanesOff 65)) 1) 0
  else loseNodeZe s n

/-- A DRAIN that the ZE-208 has applied, at whose second instant the time has come. -/
def drainDueZe (s : State) (n : Node) : Bool :=
  s.ep.tn.applied.any fun v => decide (v.kind = 3 ∧ v.subject = n ∧ drainSecond v ≤ s.ep.now)

/-- DRAIN_SECOND_INSTANT (R632): at one tick of the row's time, at every node. -/
def execDrainSecondInstant (subject : Node) (t : Time) (s : State) : Host.Outcome State Fault Refusal :=
  let s := if s.dev.vio ∧ !s.dev.held then
      let s := s.reachTick t
      match s.flt.drains.find? fun d => decide (d.subject = subject ∧ d.second ≤ s.now) with
      | some d => endDrain s d
      | none => s
    else s
  let s := if s.ep.tn.lock = .unlocked then s else s.epAt t
  .next (if drainDueZe s subject then atEp s fun s => endDrainZe s subject else s)

/-- The drains whose second instant has come at the switch. -/
def drainsGo (s : State) : State :=
  (s.flt.drains.filter fun d => decide (d.second ≤ s.now)).foldl endDrain s

/-! ### Deciding (R618, R619, R623) -/

/-- The manager decides: the verdict is flooded, and stands here as at any node. -/
def issueVerdict (s : State) (kind : Byte) (subject phys : Node) (inc cause : Byte) (arg : Nat) : State :=
  let s := s.onFlt fun c => { c with verdictId := c.verdictId + 1 }
  let v : Verdict := {
    kind := kind, subject := subject, physical := phys, newInc := inc, cause := cause, term := s.flt.tn.term
    id := s.flt.verdictId, decided := s.now, apply := s.now + 1250000, manager := s.dev.nodeId, arg := arg }
  acceptVerdict (flood (markSeen s .zs (verdictKey v)) .zs none (verdictBytes v)) .zs v

/-- A free value where the manual gives a verdict's field none. -/
def freeNode (s : State) : Node := s.freeWord.setWidth 16

/-- The reports that no earlier verdict explains. -/
def openReports (s : State) : List Report := s.flt.reports.filter fun m => !explained s m

/-- The last probe report of each neighbour that has probed a subject. -/
def probeReports (l : List Report) (n : Node) : List Report :=
  let mine := l.filter fun m => m.subject == n && (m.kind == 4 || m.kind == 5)
  ((mine.map Report.reporter).eraseDups).filterMap fun r => (mine.filter fun m => m.reporter == r).getLast?

/-- Every neighbour that has probed reports PROBE_FAIL. -/
def probesFailed (l : List Report) (n : Node) : Bool :=
  let p := probeReports l n
  !p.isEmpty && p.all fun m => m.kind == 4

/-- A LINK_DOWN report about a node. SUBJECT 0 also stands for an unknown far end (R784): coordinate 0 is meant where
the reporter is a switch of its slot. -/
def downOf (m : Report) (n : Node) : Bool :=
  m.kind == 1 && m.subject == n && (n != 0 || decide (rackOf m.reporter = 0 ∧ swOf m.reporter = 0))

/-- The links to a node are all reported out of service: both ports of an end point, or every link that the manager
knows of to a switch. -/
def linksOut (l : List Report) (n : Node) : Bool :=
  let down := l.filter fun m => downOf m n
  if isSwitch n then
    let links := Config.switchLinks n.toNat
    !links.isEmpty && links.all fun x => down.any fun m => m.reporter.toNat == x.1 && m.port.toNat == x.2
  else (down.any fun m => planeOf m.reporter == 0) && down.any fun m => planeOf m.reporter == 1

/-- The causes for which R618 declares a coordinate lost. -/
def lossCauses (l : List Report) (n : Node) : List Byte :=
  (if linksOut l n then [(0 : Byte)] else []) ++ (if probesFailed l n then [1] else [])
    ++ if isSwitch n then [] else (l.filter fun m => m.kind == 3 && m.subject == n).map Report.cause

/-- The coordinates that a window's decision concerns, ascending. -/
def windowSubjects (s : State) : List Node :=
  (((openReports s).map Report.subject).eraseDups.filter fun n =>
    nodeLegal n && decide (lossCauses (openReports s) n ≠ [])
      && (match s.flt.remap.get? n.toNat with
          | some e => decide (e.st = 1)
          | none => true)).mergeSort fun a b => decide (a.toNat ≤ b.toNat)

/-- The first spare for a coordinate (R623). -/
def spareFor (spares : List Node) (n : Node) : Option Node :=
  let rank := fun x : Node => (rackOf x + 16 - rackOf n) % 16 * 65536 + x.toNat
  match spares with
  | [] => none
  | x :: t => some (t.foldl (fun a b => if rank b < rank a then b else a) x)

/-- One verdict for each lost coordinate. Which cause a verdict names, where several hold, is free. -/
def decideLosses : List Node → List Node → State → State
  | [], _, s => s
  | n :: t, spares, s =>
    let cs := lossCauses (openReports s) n
    let cause := cs.getD (s.freeWord.toNat % cs.length) 0
    let sp := if isSwitch n then none else spareFor spares n
    let inc := incOf s.xp.inc n
    decideLosses t (spares.filter fun x => some x ≠ sp)
      (issueVerdict s.stepFree 1 n (sp.getD 0xFFFF) (if sp.isSome then inc + 1 else inc) cause 0)

/-- DECISION_WINDOW (R615, R619): 1 ms after the window opened, or as soon after as the manager holds quorum. -/
def execDecisionWindow (t : Time) (s : State) := up s fun s =>
  let s := s.at_ t
  match s.flt.window with
  | none => s
  | some w =>
    if s.flt.role ∧ due s.now w (ms 1) ∧ quorum s then
      decideLosses (windowSubjects s) s.flt.spares (s.onFlt fun c => { c with window := none })
    else s

/-! ### Commands for the manager (R622, R627, R631, R632, R634, R635, R676) -/

/-- An end point that R622 admits as a spare. Of an end point other than the one modelled the answer is free. -/
def spareAdmitted (s : State) (n : Node) : Bool :=
  (s.flt.remap.all fun e => !(e.2.st == 1 && e.2.physical == n)) &&
  (if n = s.ep.nodeId then
    s.ep.configured && (s.ep.queues.all fun q => q.2.state == .disabled) && s.ep.ranges.isEmpty && s.ep.binds.isEmpty
  else !Config.remoteBusy n.toNat s.now)

/-- A node that DUSK may not drain. -/
def duskBarred (s : State) (n : Node) : Bool :=
  if n = s.dev.nodeId then
    (s.rgn.regions.any fun e => !isOp e.2.tenant) || !s.pool.copies.isEmpty || !s.col.groups.isEmpty
      || s.cru.progs.any fun e => e.2.state != .ended
  else if n = s.ep.nodeId then s.ep.queues.any fun q => q.2.state != .disabled
  else Config.remoteBusy n.toNat s.now

def nodeField (d : Desc) (off : Nat) : Node := BitVec.ofNat 16 (Desc.fld d off 2)
def endPoint (n : Node) : Bool := !isSwitch n && nodeLegal n && decide (n ≠ 0xFFFF)

/-- The nodes that DUSK names. -/
def duskNodes (d : Desc) : List Node := [nodeField d 16, nodeField d 18, nodeField d 20, nodeField d 22].filter (· ≠ 0)

/-- DUSK names end points of one compute tray, four slots in a row, or up to two switches of one switch tray. -/
def duskBad (d : Desc) : Bool :=
  let l := duskNodes d
  let h := l.headD 0
  if l.all endPoint then l.any fun n => n.toNat / 4 != h.toNat / 4
  else if l.all fun n => isSwitch n && nodeLegal n then
    decide (2 < l.length) || l.any fun n => Config.switchTray n.toNat != Config.switchTray h.toNat
  else true

/-- Credentials and what is wrong with the descriptor itself. -/
def mgrFormat (s : State) (o : Origin) (d : Desc) : List (Bool × Status) :=
  let op := Desc.opcode d
  let bad :=
    if op = 0xA9 then !Desc.clearOutside d [(128, 8)] || decide (Desc.fld d 16 1 > 1)
    else if op = 0xAA then !Desc.clearOutside d [(128, 16), (144, 1)] || !endPoint (nodeField d 16)
    else if op = 0xAB then !Desc.clearOutside d [(128, 64)] || duskBad d
    else if op = 0xAC then !Desc.clearOutside d [(128, 32)] || !endPoint (nodeField d 16) || !endPoint (nodeField d 18)
    else powerBad d || !targetLegal s d 48
  [(!isOperator s o, stTenantDenied), (bad, stOutOfRange)]

/-- A coordinate that REJOIN may map: LOST or DRAINED. -/
def unserved (s : State) (n : Node) : Bool := match s.flt.remap.get? n.toNat with
  | some e => decide (e.st ≠ 1)
  | none => false

/-- The remap table has no room for the end points named that it does not list yet (R624, R635). -/
def remapFull (s : State) (l : List Node) : Bool :=
  decide (256 < s.flt.remap.length + (l.filter fun n => endPoint n && (s.flt.remap.get? n.toNat).isNone).length)
    && l.any endPoint

/-- The rows that the manager decides (R635). -/
def mgrRows (s : State) (d : Desc) : List (Bool × Status) :=
  let op := Desc.opcode d
  let n := nodeField d 16
  if op = 0xA9 then [(s.flt.service == (Desc.fld d 16 1 == 1), stAlreadyDone)]
  else if op = 0xAA then
    let add := Desc.bit d 144
    [(add && (decide (256 ≤ s.flt.spares.length) || !spareAdmitted s n), stResourceRefused),
     (add && s.flt.spares.contains n, stAlreadyDone)]
  else if op = 0xAB then [(s.flt.service || (duskNodes d).any (duskBarred s) || remapFull s (duskNodes d), stResourceRefused)]
  else if op = 0xAC then
    let p := nodeField d 18
    [(!unserved s n, stOutOfRange),
     (s.flt.service || (decide (p ≠ n) && !spareAdmitted s p), stResourceRefused)]
  else []

/-- The manager decides a command's verdicts. MODE names no coordinate: SUBJECT and PHYSICAL are free. -/
def decideVerdicts (s : State) (d : Desc) : State :=
  let op := Desc.opcode d
  let n := nodeField d 16
  if op = 0xA9 then issueVerdict s.stepFree 4 (freeNode s) 0xFFFF 0 6 (Desc.fld d 16 1)
  else if op = 0xAA then issueVerdict s 5 n n 0 6 (b2n (Desc.bit d 144))
  else if op = 0xAB then
    (duskNodes d).foldl (fun s n => issueVerdict s 3 n 0xFFFF (incOf s.xp.inc n) 5 611) s
  else issueVerdict s 2 n (nodeField d 18) (incOf s.xp.inc n + 1) 6 0

/-- The manager sends a ROW cap to every switch of the cabling plan (R193, R676), and holds it itself. -/
def sendRowCap (s : State) (o : Origin) (d : Desc) : State :=
  let cap := if Desc.fld d 16 2 = 0 then 600 else Desc.fld d 16 2
  let act := Nat.max (s.now + ms 1) (if Desc.staged d then Desc.activate d else 0)
  let id := s.flt.mgrId
  let all := (bitList s.cfg.switches.toNat 256).map fun i =>
    (BitVec.ofNat 16 (0x8000 + i / 16 * 256 + i / 8 % 2 * 16 + i % 8 * 2) : Node)
  let others := all.filter (· ≠ s.dev.nodeId)
  let c : RowCap := ⟨id, s.now, act, others.length, all.length - others.length, o, d⟩
  let s := s.onFlt fun f => { f with mgrId := id + 1 }
  let s := stageRowCap (s.onPwr fun p => { p with rowSent := p.rowSent ++ [c] }) act cap
  let pay := [(0xB0 : Byte), 0] ++ leBytes 2 cap ++ leBytes 4 s.flt.tn.term ++ leBytes 8 act
  rowCapsDone (others.foldl (fun s n => sendMgmt s (.capSet id) n pay) s)

def dropMgr (s : State) (id : Nat) : State := s.onFlt fun c => { c with mgr := c.mgr.filter fun m => m.id != id }

/-- The manager, with quorum, takes one command: refused, staged, sent on as caps, or decided. A carried command is
answered at once; its issuing switch waits for the verdict (R634). -/
def mgrDecide (s : State) (m : MgrCmd) : State :=
  let s := dropMgr s m.id
  match firstFail (mgrFormat s m.origin m.desc ++ mgrRows s m.desc) with
  | some st => complete s m.origin m.desc st []
  | none =>
    if Desc.opcode m.desc = 0xB8 then sendRowCap s m.origin m.desc
    else if Desc.staged m.desc ∧ s.now < Desc.activate m.desc then
      s.onRgn fun g => { g with staged := g.staged ++ [⟨Desc.activate m.desc, g.order, m.origin, m.desc, default, none⟩], order := g.order + 1 }
    else
      let s := decideVerdicts s m.desc
      if carriedHere m.origin then complete s m.origin m.desc stOk []
      else commandsGo (s.onFlt fun c => { c with mgr := c.mgr ++ [{ m with began := s.now, decided := true }] })

/-- Commands that wait for a manager with quorum: it is this switch, or the one they are carried to. -/
def mgrGo (s : State) : State :=
  (s.flt.mgr.filter fun m => !m.decided).foldl (fun s m =>
    if s.flt.role then (if quorum s then mgrDecide s m else s)
    else if quorumKnown s .zs ∧ s.flt.tn.manager ≠ 0 ∧ s.flt.tn.manager ≠ s.dev.nodeId then
      carryOut (dropMgr s m.id) m.origin m.desc s.flt.tn.manager
    else s) s

/-- A command for the manager enters. -/
def addMgr (s : State) (o : Origin) (d : Desc) : State :=
  mgrGo ((effectEnds s o).onFlt fun c => { c with mgr := c.mgr ++ [⟨c.mgrId, o, d, s.now, false⟩], mgrId := c.mgrId + 1 })

/-- A command for the manager at the switch whose ring took it, or that it was carried to: it is staged at the manager
(R271). -/
def runMgr (s : State) (o : Origin) (d : Desc) : State :=
  if barred s d then complete s o d stResourceRefused [] else
  match firstFail (mgrFormat s o d) with
  | some st => complete s o d st []
  | none => addMgr s o d

def specMgr (op : Nat) : CmdSpec where
  op := op
  dest := here
  chk o d s := firstFail (mgrFormat s o d)
  eff o d _ s := addMgr s o d

/-- The commands that go to the manager: those of R634, and PWR_CAP with SCOPE 1. -/
def forManager (d : Desc) : Bool :=
  let op := Desc.opcode d
  decide (0xA9 ≤ op ∧ op ≤ 0xAC) || (decide (op = 0xB8) && decide (Desc.fld d 18 1 = 1))

/-- Runs a ring command for the manager, when it has its turn. -/
def mgrRow (op : Nat) (r : CmdRef) (d : Desc) (s : State) : State :=
  match mayBegin s op r d with
  | none => s
  | some f => runMgr (markBegun s r f) (.ring r) d

/-- MODE_SET (R631, R634). -/
def execModeSet (r : CmdRef) (d : Desc) (s : State) := up s (mgrRow 0xA9 r d)
/-- SPARE_SET (R622, R634). -/
def execSpareSet (r : CmdRef) (d : Desc) (s : State) := up s (mgrRow 0xAA r d)
/-- DUSK (R632, R634). -/
def execDusk (r : CmdRef) (d : Desc) (s : State) := up s (mgrRow 0xAB r d)
/-- REJOIN (R627, R634). -/
def execRejoin (r : CmdRef) (d : Desc) (s : State) := up s (mgrRow 0xAC r d)

/-- PWR_CAP with SCOPE 0: the HOST cap of TARGET (R652). -/
def specPwrCap : CmdSpec where
  op := 0xB8
  dest := targetAt 48
  chk o d s := firstFail (mgrFormat s o d)
  eff o d _ s :=
    let s := setCap s fun p => { p with host := if Desc.fld d 16 2 = 0 then 600 else Desc.fld d 16 2 }
    complete s o d stOk (capData s)

/-- PWR_CAP (R652, R676). -/
def execPwrCap (r : CmdRef) (d : Desc) (s : State) := up s fun s =>
  if forManager d then mgrRow 0xB8 r d s else runRow specPwrCap r d default s

/-- MANAGER_QUORUM_TIMEOUT (R635, R677): no manager with quorum within 10 ms. -/
def execManagerQuorumTimeout (id : Nat) (t : Time) (s : State) := up s fun s =>
  let s := s.at_ t
  match s.flt.mgr.find? fun m => m.id == id && !m.decided with
  | some m => if due s.now m.began (ms 10) then complete (dropMgr s id) m.origin m.desc stDestLost [] else s
  | none => s

/-- CAP_SET at a switch (R193), from step 6 of R201 on. -/
def serveCapSet (s : State) (a : Arrival) : State :=
  let y := a.pkt.payload
  let term := fieldAt y 4 4
  let s := if term < s.flt.tn.term then s
    else stageRowCap (adoptTerm s .zs term a.pkt.src) (fieldAt y 8 8) (fieldAt y 2 2)
  ackReq s a

/-- TABLE_REQ (R197): the manager of the current term answers, any other switch refuses. -/
def serveTableReq (s : State) (a : Arrival) : State :=
  let y := a.pkt.payload
  let what := fieldAt y 1 1
  let part := fieldAt y 4 2
  if !s.flt.role then refuse s a stDestLost
  else
    let inc := (List.range 4096).map fun i => s.xp.inc.getD i 0
    let spares := padTo 512 (s.flt.spares.flatMap fun n => leBytes 2 n.toNat)
    let row := [BitVec.ofNat 8 (b2n s.flt.service), 0] ++ leBytes 2 s.flt.tn.manager.toNat
      ++ leBytes 2 (standby s.flt.tn s.now).toNat ++ zeros 2
    let all := if what = 0 then inc else if what = 1 then remapImage s else if what = 2 then spares else row
    let data := (all.drop (1984 * part)).take 1984
    answerMgmt s a ([0xB7, BitVec.ofNat 8 what] ++ leBytes 2 data.length ++ leBytes 2 part ++ zeros 2
      ++ leBytes 4 s.flt.tn.term ++ zeros 4 ++ data)

/-! ### Beacons and the manager's role (R601, R602, R613) -/

/-- BEACON (R603, R608, R613). -/
def beaconIn (part : Part) (port : Nat) (b : Beacon) (arrival frac : Nat) (s : State) : State :=
  let s := atPart s part arrival
  let s := onTn s part fun n => { n with
    nbrs := n.nbrs.set port { (n.nbrs.getD port default) with b := b, arrived := arrival, frac := frac, heard := true } }
  let s := adoptTerm s part b.term b.manager
  let now := nowOf s part
  let s := onTn s part fun n => sawCount now (sawCount now n b.candidate b.candCount) b.standby b.stbyCount
  takeExchange (reparent s part) part port b arrival frac

def execBeacon (part : Part) (via : Heard) (b : Beacon) (arrival : Time) (arrivalFrac : Fin 16) (s : State) :=
  onPart part s fun s =>
    if !hears s part via.port via.dst then s
    else match part with
      | .ze => beaconIn .ze via.port b arrival arrivalFrac s
      | .zs => mgrGo (askTables (refreshCand (traceTimefault (beaconIn .zs via.port b arrival arrivalFrac s) via.port 0x01 false 0 b.term)))

/-- Takes the manager role (R601, R613): the term rises by 1, the time base locks if no row is locked yet, a KIND 6
verdict goes out, and a window opens for the reports that nothing explains. SUBJECT and PHYSICAL of that verdict, and
its CAUSE where there was no manager, are free. -/
def takeRole (s : State) : State :=
  let n := s.flt.tn
  let prev := n.manager
  let first := decide (n.lock = .unlocked)
  let s := onTn s .zs fun n => { n with
    term := n.term + 1, manager := s.dev.nodeId, termAt := s.now, electing := false, parent := none, depth := 0
    lock := .locked, parentLostAt := none }
  let s := s.onFlt fun c => { c with
    role := true, verdictId := 0
    window := if openReports s = [] then none else some s.now }
  let s := if first then setMode s s.cfg.startService else s
  let s := traceTime s
  let subj := freeNode s
  let cause : Byte := if prev = 0 then s.freeWord.setWidth 8 else 7
  let phys : Node := (s.freeWord >>> 16).setWidth 16
  mgrGo (issueVerdict s.stepFree 6 subj phys (incOf s.xp.inc subj) cause 0)

/-- TAKE_MANAGER_ROLE (R613): 300 µs as its own CANDIDATE. In a locked row only a locked switch takes it (R601). -/
def execTakeManagerRole (t : Time) (s : State) := up s fun s =>
  let s := refreshCand (s.at_ t)
  match s.flt.candSince with
  | none => s
  | some c =>
    if !s.flt.role ∧ due s.now c (us 300) ∧ (s.flt.tn.lock ≠ .unlocked ∨ !lockedHeard s.flt.tn) then takeRole s else s

/-! ### STATUS, REPORT and PROBE (R610, R616, R617) -/

/-- A node sends its own STATUS to its parent, every 100 µs (R610). -/
def statusSend (s : State) (part : Part) : State :=
  match (tnOf s part).parent with
  | some p =>
    if nodeLinkUp s part p && (tnOf s part).statusOut.all (fun x => due (nowOf s part) x (us 100)) then
      onTn (sendVc7 s part p (statusBytes (nodeOf s part) (subtree s part))) part fun n => { n with
        statusOut := some (nowOf s part) }
    else s
  | none => s

/-- STATUS (R610): a child's map is kept; with this node as the sender, its own goes to its parent. -/
def execStatus (part : Part) (via : Heard) (sender : Node) (map : BitVec 256) (t : Time) (s : State) := onPart part s fun s =>
  let s := atPart s part t
  if sender = nodeOf s part then statusSend s part
  else if !hears s part via.port via.dst then s
  else
    let s := onTn s part fun n => { n with
      nbrs := n.nbrs.set via.port { (n.nbrs.getD via.port default) with map := map, statusAt := some (nowOf s part) } }
    match part with
    | .zs => mgrGo (traceTimefault s via.port 0x12 false sender.toNat s.flt.tn.term)
    | .ze => s

/-- REPORT (R610, R616). -/
def execReport (part : Part) (via : Heard) (m : Report) (s : State) := onPart part s fun s =>
  if !hears s part via.port via.dst ∨ seenKey s part (reportKey m) then s
  else
    let s := flood (markSeen s part (reportKey m)) part (some via.port.val) (reportBytes m)
    match part with
    | .zs => holdReport (traceTimefault s via.port 0x08 false m.subject.toNat s.flt.tn.term) m
    | .ze => s

/-- PROBE (R610): answered on its link. STATE of a switch is not given: it is free. -/
def execProbe (part : Part) (via : Heard) (s : State) := onPart part s fun s =>
  if !hears s part via.port via.dst then s
  else match part with
    | .ze =>
      let e := s.ep
      sendVc7 s .ze via.port [0x0A, BitVec.ofNat 8 (b2n e.configured + 2 * b2n (e.m0 || e.m1) + 4 * b2n e.trip)]
    | .zs =>
      let b : Byte := s.freeWord.setWidth 8
      sendVc7 (traceTimefault s.stepFree via.port 0x09 false 0 s.flt.tn.term) .zs via.port [0x0A, b]

/-- A probe ends (R616, R617). -/
def probeEnd (s : State) (port : Nat) (ok : Bool) : State :=
  let subject := nodeAt s port
  originateReport (s.onFlt fun c => { c with probes := c.probes.erase port }) .zs (if ok then 5 else 4) 0 subject 0

/-- PROBE_REPLY (R617): CONFIGURED and D2D_UP of an end point, anything of a switch. -/
def execProbeReply (via : Heard) (state : Byte) (s : State) := up s fun s =>
  if s.flt.probes.has via.port ∧ hears s .zs via.port via.dst then probeEnd s via.port (isSwitch (nodeAt s via.port) || decide (state &&& 3 = 3)) else s

/-- PROBE_TIMEOUT (R617): no reply within 100 µs. -/
def execProbeTimeout (port : Fin 64) (t : Time) (s : State) := up s fun s =>
  let s := s.at_ t
  match s.flt.probes.get? port with
  | some x => if due s.now x (us 100) then probeEnd s port false else s
  | none => s

/-- D2D_LINK_DOWN (R610): an EP_DOWN report with CAUSE 2. -/
def execD2dLinkDown (s : State) : Host.Outcome State Fault Refusal :=
  .next (if s.ep.m0 ∨ s.ep.m1 then reportEpDown (s.onEp fun e => { e with m0 := false, m1 := false }) 2 else s)

/-! ### STEP_MARK and the trace commands (R605, R628, R634) -/

def specStepMark : CmdSpec where
  op := 0xA8
  dest := targetAt 48
  chk o d s :=
    let t : Tag := nodeField d 16
    firstFail [
      (!credNames s o t || !activeOrOp s t, stTenantDenied),
      (!Desc.clearOutside d [(128, 16), (192, 64), (384, 16)] || !targetLegal s d 48 || !tagLegal t, stOutOfRange)]
  eff o d _ s :=
    complete (s.onFlt fun c => { c with step := c.step.set (Desc.fld d 16 2) (BitVec.ofNat 64 (Desc.fld d 24 8)) }) o d stOk []

/-- STEP_MARK (R628). -/
def execStepMark (r : CmdRef) (d : Desc) (s : State) := up s (runRow specStepMark r d default)

/-- A start of capture: the stores are empty, nothing is lost yet. DESIGN CHOICE (log entry 62): the manual does not
say what becomes of entries that an earlier capture left. -/
def startTrace (s : State) : State := s.onFlt fun c => { c with trace := c.trace.map fun e =>
  (e.1, { e.2 with entries := [], lost := 0, pendLoss := false }) }

def specTraceCtrl : CmdSpec where
  op := 0xAD
  dest := here
  chk o d s := firstFail [
    (!isOperator s o, stTenantDenied),
    (!Desc.clearOutside d [(128, 8), (136, 5), (143, 1), (144, 16)]
      || !(nodeField d 18 == 0xFFFF || tagLegal (nodeField d 18)), stOutOfRange)]
  eff o d _ s :=
    let on := Desc.bit d 143
    let s := if on ∧ !s.flt.tOn then startTrace s else s
    complete (s.onFlt fun c => { c with
      tMask := BitVec.ofNat 8 (Desc.fld d 16 1), tSample := bitsOf (Desc.fld d 17 1) 0 4, tWrap := Desc.bit d 140
      tOn := on, tFilter := nodeField d 18 }) o d stOk []

/-- TRACE_CTRL (R605). -/
def execTraceCtrl (r : CmdRef) (d : Desc) (s : State) := up s (runRow specTraceCtrl r d default)

/-- Writes a dump by DMA; DATA returns a count. -/
def dumpOut (s : State) (o : Origin) (d : Desc) (addr : Nat) (data : List Byte) (count : Nat) : State :=
  if dmaOk s (originPort o) then complete (dmaWrite s (originPort o) addr data) o d stOk (leBytes 4 count)
  else complete s o d stInternal []

def specTraceDump : CmdSpec where
  op := 0xAE
  dest := here
  chk o d s := firstFail [
    (!isOperator s o, stTenantDenied),
    (!Desc.clearOutside d [(128, 8), (448, 64)] || decide (Desc.fld d 16 1 > 3) || carriedHere o, stOutOfRange)]
  eff o d _ s :=
    let l := (traceOf s (Desc.fld d 16 1)).entries.reverse
    dumpOut s o d (Desc.fld d 56 8) l.flatten l.length

/-- TRACE_DUMP (R634). -/
def execTraceDump (r : CmdRef) (d : Desc) (s : State) := up s (runRow specTraceDump r d default)

def specFltQuery : CmdSpec where
  op := 0xAF
  dest := here
  chk o d s := firstFail [
    (!isOperator s o, stTenantDenied),
    (!Desc.clearOutside d [(448, 64)] || carriedHere o, stOutOfRange)]
  eff o d _ s := queryOut s o d (Desc.fld d 56 8) (remapImage s)

/-- FLT_QUERY (R634). -/
def execFltQuery (r : CmdRef) (d : Desc) (s : State) := up s (runRow specFltQuery r d default)

end Sys2Proof.Machine
end

