-- ==== Sys2Proof/Machine/Sec.lean ====
section
/-! DEFINITION. Identity, attestation, measurement, scrubbing, housekeeping firmware and debug
(15_security_firmware.md): the commands of R726 but the flash ones, TENANT_RELEASE, and their events. -/

namespace Sys2Proof.Machine

/-! ### TENANT_RELEASE and its scrub (R80, R705 to R708, R790) -/

/-- Ends the commands that run on the regions of a released tenant (R790). -/
def endRegionJobs (s : State) (rs : List Nat) : State :=
  let s := (s.rgn.pageJobs.filter fun j => rs.contains j.region).foldl (fun s j =>
    let s := dropJob s j
    let s := if j.out then (match s.region? j.region with
        | some r => leavePage s r j
        | none => s)
      else freePage s j
    complete s j.origin j.desc stKeyMismatch []) s
  (s.coh.publishes.filter fun p => rs.contains p.region || rs.contains p.source).foldl (fun s p =>
    complete (s.onCoh fun c => { c with publishes := c.publishes.erase p }) p.origin p.desc stKeyMismatch []) s

/-- What the switch holds for a tenant outside its regions goes (R705). -/
def dropHoldings (s : State) (t : Tag) : State :=
  let s := (progsOf s t).foldl (fun s x => endProg s x.1 stAborted none) s
  let s := (s.col.groups.filter fun e => e.2.tenant == t).foldl (fun s e => destroyGroup s e.1) s
  let s := s.onCoh fun c => { c with counters := c.counters.filter fun e => e.2.holder != t }
  let s := s.onSwc fun c => { c with
    mcast := c.mcast.filter fun e => e.2.tenant != t
    mcastOld := (c.mcast.filter fun e => e.2.tenant == t).foldl (fun l e => l.set e.1 e.2) c.mcastOld
    runners := c.runners.filter fun e => e.2.tenant != t
    runnersOld := (c.runners.filter fun e => e.2.tenant == t).foldl (fun l e => l.set e.1 e.2) c.runnersOld }
  (List.range 2).foldl (fun s p => s.onHp p fun h => { h with rings := h.rings.map fun e =>
    (e.1, if e.2.binding = t ∧ e.2.state ≠ .disabled then { e.2 with state := .disabled } else e.2) }) s

/-- The scrub record's counts at activation; those of the regions rise as each is filled. -/
def scrubBegun (s : State) (t : Tag) : Scrub :=
  { (default : Scrub) with
    start := s.now, regions := (regionsOf s t).length
    slots := ((progsOf s t).map fun x => x.2.slots.length).sum
    groups := (s.col.groups.filter fun e => e.2.tenant == t).length
    programs := (progsOf s t).length
    waitPartner := ((regionsOf s t).filter fun e => e.2.protection == 3).map Prod.fst }

def releaseTenant (s : State) (i : Nat) : State :=
  let t : Tag := BitVec.ofNat 16 i
  let rs := (regionsOf s t).map Prod.fst
  let sc := scrubBegun s t
  let s := s.onRgn fun g => { g with tenants := g.tenants.modify i fun r => { r with state := .releasing } }
  let s := s.onSec fun c => { c with scrubs := c.scrubs.set i sc }
  let s := rs.foldl destroyRegion (endRegionJobs s rs)
  let s := s.onRgn fun g => { g with ranges := g.ranges.filter fun e => e.tenant != t }
  dropHoldings s t

def specTenantRelease : CmdSpec where
  op := 0x2D
  dest := here
  chk o d s := firstFail [
    (!isOperator s o, stTenantDenied),
    (decide ((s.tenant (descTenant d)).state ≠ .active), stAlreadyDone),
    (tenantRsvd d, stOutOfRange)]
  eff o d _ s := complete (releaseTenant s (descTenant d)) o d stOk []

/-- TENANT_RELEASE (R80, R705). -/
def execTenantRelease (r : CmdRef) (d : Desc) (s : State) := up s (runRow specTenantRelease r d default)

/-- Every row of R705 is done, and the scrub compartment of every quadrant runs (R35, R711). -/
def scrubDone (s : State) (t : Tag) (b : Scrub) : Bool :=
  (regionsOf s t).isEmpty && (progsOf s t).isEmpty && (dyingGroups s).all (fun e => e.2.tenant != t)
    && b.waitPartner.isEmpty && (List.range 4).all fun q => !quadUp s q || compOn s compSCRUB q

def scrubRecord (s : State) (t : Tag) (b : Scrub) : List Byte :=
  [0x68, stOk] ++ leBytes 2 t.toNat ++ leBytes 4 b.regions ++ leBytes 8 b.start ++ leBytes 8 s.now
    ++ leBytes 4 b.granules ++ leBytes 4 b.skipped ++ leBytes 2 b.slots ++ leBytes 2 b.groups ++ leBytes 2 b.programs
    ++ leBytes 2 b.partner ++ leBytes 2 b.partnerLost ++ zeros 2 ++ leBytes 4 b.recalled ++ leBytes 4 (s.sec.scrubN + 1)
    ++ zeros 12

/-- Scrub records kept (R708). -/
def keepLast {α : Type} (n : Nat) (l : List α) : List α := l.drop (l.length - n)

/-- TENANT_SCRUB_DONE (R706 to R708). -/
def execTenantScrubDone (tenant : BitVec 12) (s : State) := up s fun s =>
  let i := tenant.toNat
  let t : Tag := BitVec.ofNat 16 i
  match s.sec.scrubs.get? i with
  | none => s
  | some b =>
    if scrubDone s t b then
      let r := scrubRecord s t b
      let s := s.onRgn fun g => { g with tenants := g.tenants.modify i fun x => { x with state := .free } }
      let s := s.onSec fun c => { c with
        scrubs := c.scrubs.erase i, scrubN := (c.scrubN + 1) % 2 ^ 32, scrubRecs := keepLast 64 (c.scrubRecs ++ [r]) }
      bothEvent s r
    else s

/-! ### Debug level (R720, R721) -/

/-- The debug level in force: the highest of any open session. -/
def debugLevel (s : State) : Nat := s.sec.sessions.foldl (fun m e => Nat.max m e.2.1) 0

/-- Opens a session at a level; reaching a level marks the history until the next Dawn. -/
def openSession (s : State) (n level : Nat) (host : Option (Fin 2)) : State :=
  s.onSec fun c => { c with
    sessions := c.sessions.set n (level, host)
    histD1 := c.histD1 || decide (1 ≤ level), histD2 := c.histD2 || decide (2 ≤ level) }

def closeSession (s : State) (n : Nat) : State := s.onSec fun c => { c with sessions := c.sessions.erase n }

/-- The session that a command names is open, at its operation's level or above. -/
def sessionOk (s : State) (n level : Nat) : Bool :=
  match s.sec.sessions.get? n with
  | some e => decide (level ≤ e.1)
  | none => false

/-! ### The attestation report (R693 to R700) -/

def reportsQueued : Nat := 8

def identityDigest (s : State) : List Byte := if s.sec.keyReady then shake256 s.sec.pk else zeros 64

/-- A program entry (R694). -/
def reportProgram (p : Nat) (pr : Program) : List Byte :=
  leBytes 2 pr.tenant.toNat ++ [BitVec.ofNat 8 (p / 16), BitVec.ofNat 8 p, BitVec.ofNat 8 (progCode pr),
    BitVec.ofNat 8 (b2n pr.signed)] ++ zeros 2 ++ leBytes 8 pr.loadTime ++ padTo 64 pr.digest
    ++ (if pr.signed then padTo 64 pr.signer else zeros 64)

/-- A region entry (R695). -/
def reportRegion (s : State) (ri : Nat) (r : Region) (m : Measure) : List Byte :=
  leBytes 2 r.tenant.toNat ++ leBytes 2 ri
    ++ [BitVec.ofNat 8 (b2n m.valid + 2 * b2n r.isCast + 4 * b2n m.debugWritten + 8 * b2n (degraded s r))]
    ++ zeros 3 ++ leBytes 8 (if r.isCast then m.version else 0) ++ leBytes 8 (if m.valid then m.tick else 0)
    ++ leBytes 4 r.length ++ zeros 4 ++ (if m.valid then padTo 64 m.digest else zeros 64)

/-- The tenant tag of a scrub record. -/
def scrubTag (b : List Byte) : Tag := BitVec.ofNat 16 (fieldAt b 2 2)

/-- A report lists an entry: every one, or those of the tenant that FILTER names (R699). -/
def listed (filter t : Tag) : Bool := filter == opTag || filter == t

def reportEntries (s : State) (f : Tag) : List (List Byte) × List (List Byte) × List (List Byte) :=
  ((s.cru.progs.filter fun x => progHolds x.2 && listed f x.2.tenant).map fun x => reportProgram x.1 x.2,
   s.sec.measures.filterMap fun e =>
     match s.region? e.1 with
     | some r => if listed f r.tenant then some (reportRegion s e.1 r e.2) else none
     | none => none,
   s.sec.scrubRecs.filter fun b => listed f (scrubTag b))

/-- The snapshot at this tick: header and entries (R693, R698). -/
def reportBody (s : State) (f : Tag) (nonce : Nat) : List Byte :=
  let (ps, rs, cs) := reportEntries s f
  let c := s.sec
  let tail := ps.flatten ++ rs.flatten ++ cs.flatten
  leBytes 4 0x50545441 ++ [1, BitVec.ofNat 8 (b2n c.owned + 2 * powerState s + 16 * b2n s.flt.service),
      BitVec.ofNat 8 (debugLevel s), BitVec.ofNat 8 (b2n c.histD1 + 2 * b2n c.histD2)]
    ++ leBytes 2 0x6476 ++ [0xB0, s.dev.quadUp.setWidth 8] ++ leBytes 2 s.dev.nodeId.toNat ++ leBytes 2 f.toNat
    ++ leBytes 8 s.dev.serial.toNat ++ leBytes 8 s.now ++ leBytes 32 nonce
    ++ identityDigest s ++ padTo 64 c.fwDigest ++ padTo 64 c.firstFw ++ padTo 64 c.cfgDigest ++ padTo 64 c.ownerDigest
    ++ leBytes 4 c.updates ++ leBytes 4 Config.romVersion.toNat
    ++ leBytes 2 ps.length ++ leBytes 2 rs.length ++ leBytes 2 cs.length ++ zeros 2
    ++ leBytes 4 (416 + tail.length) ++ zeros 12 ++ tail

def signatureBytes : Nat := 49856

/-- The whole report: body, identity public key, and the signature over the body's digest (R697). -/
def wholeReport (s : State) (body : List Byte) : List Byte :=
  body ++ padTo 64 s.sec.pk ++ padTo signatureBytes (idSign s.sec.seed (shake256 body))

def attestFilter (d : Desc) : Tag := BitVec.ofNat 16 (Desc.fld d 48 2)
def attestLen (s : State) (d : Desc) : Nat := (reportBody s (attestFilter d) (Desc.fld d 16 32)).length + 64 + signatureBytes

def specAttestReport : CmdSpec where
  op := 0xC0
  dest := here
  chk o d s := firstFail [
    (!(isOperator s o || (covers s (credOf s o) (attestFilter d))), stTenantDenied),
    (!Desc.clearOutside d (Desc.byteFields [(16, 32), (48, 2), (52, 4), (56, 8)]) || !tagLegal (attestFilter d)
      || decide (attestLen s d > Desc.fld d 52 4), stOutOfRange),
    (!s.sec.keyReady || decide (s.sec.queue.length ≥ reportsQueued), stResourceRefused)]
  info _ d st s := if st = stOutOfRange ∧ tagLegal (attestFilter d) ∧ attestLen s d > Desc.fld d 52 4 then
    leBytes 4 (attestLen s d) else []
  eff o d _ s := s.onSec fun c => { c with
    queue := c.queue ++ [⟨o, d, reportBody s (attestFilter d) (Desc.fld d 16 32)⟩] }

/-- ATTEST_REPORT (R698 to R700). -/
def execAttestReport (r : CmdRef) (d : Desc) (s : State) := up s (runRow specAttestReport r d default)

/-- REPORT_SIGNED (R697, R700): the oldest request's report is signed and written. -/
def execReportSigned (t : Time) (s : State) := up s fun s =>
  let s := s.at_ t
  match s.sec.queue with
  | [] => s
  | q :: rest =>
    if !homedOn s compATTEST 1 then s
    else
      let s := s.onSec fun c => { c with queue := rest, reportsN := bump c.reportsN }
      let b := wholeReport s q.body
      let p := originPort q.origin
      if dmaOk s p then complete (dmaWrite s p (Desc.fld q.desc 56 8) b) q.origin q.desc stOk (leBytes 4 b.length)
      else complete s q.origin q.desc stInternal []

def secKeyBytes (s : State) : List Byte := padTo 64 s.sec.pk ++ s.sec.endorsement

def specSecQuery : CmdSpec where
  op := 0xC8
  dest := here
  chk _ d s := firstFail [
    (!Desc.clearOutside d (Desc.byteFields [(56, 8)]), stOutOfRange),
    (!s.sec.keyReady, stResourceRefused)]
  eff o d _ s :=
    let p := originPort o
    if dmaOk s p then
      complete (dmaWrite s p (Desc.fld d 56 8) (secKeyBytes s)) o d stOk (leBytes 4 (secKeyBytes s).length)
    else complete s o d stInternal []

/-- SEC_QUERY (R686, R726). -/
def execSecQuery (r : CmdRef) (d : Desc) (s : State) := up s (runRow specSecQuery r d default)

/-! ### Measurement (R701 to R704) -/

def measureOf? (s : State) (ri : Nat) : Option Measure := s.sec.measures.get? ri

/-- The version that a measurement of a region now would take. -/
def measureVersion (r : Region) : Nat := if r.isCast then r.version else 0

/-- The region is measured: its digest is that of the bytes it serves. -/
def measured (s : State) (ri : Nat) (r : Region) : Bool :=
  match measureOf? s ri with
  | some m => m.valid && (!r.isCast || m.version == r.version)
  | none => false

def specRegionMeasure : CmdSpec where
  op := 0xC1
  barLate := true
  dest := here
  chk := regionChk fun r d s => [
    (!Desc.clearOutside d (Desc.byteFields [(16, 2)]) || !r.attested || r.isBacked, stOutOfRange),
    (barred s d || (measureOf? s (descRegion d)).isNone && decide (s.sec.measures.length ≥ measureTable), stResourceRefused),
    (measured s (descRegion d) r, stAlreadyDone)]
  eff o d _ s :=
    let ri := descRegion d
    let r := (s.region? ri).getD default
    let s := if r.isCast then s else s.onRegion ri fun r => { r with sealedNow := true }
    match measureOf? s ri with
    | some m =>
      if m.running.contains (measureVersion r) then
        s.onSec fun c => { c with measures := c.measures.set ri { m with origin := m.origin.or (some (o, d)) } }
      else measureStart s ri (measureVersion r) (some (o, d))
    | none => measureStart s ri (measureVersion r) (some (o, d))

/-- REGION_MEASURE (R702, R703): seals the region and starts its measurement. -/
def execRegionMeasure (r : CmdRef) (d : Desc) (s : State) := up s (runRow specRegionMeasure r d default)

/-- Reads the bytes of a region from an offset on, line by line through the ladder. -/
def measureRead (s : State) (ri base n : Nat) (fs : List ReadFault) (got : List Nat) : State × List (Nat × LineRes) :=
  (List.range (n / 64)).foldl (fun (acc : State × List (Nat × LineRes)) i =>
    match lineHome acc.1 ri (base + 64 * i) with
    | some h =>
      let (s, res) := readLine acc.1 h fs got 0
      (s, acc.2 ++ [(h.line, res)])
    | none => acc) (s, [])

/-- Ends a measurement: the digest, or POISONED (R703). -/
def measureEnd (s : State) (ri v : Nat) (dig : Option (List Byte)) : State :=
  match measureOf? s ri with
  | none => s
  | some m =>
    let m1 := { m with running := m.running.tail }
    let m2 := match dig with
      | some g => { m1 with version := v, digest := g, valid := true, tick := s.now }
      | none => m1
    let done := decide (m1.running = [])
    let s := (s.onSec fun c => { c with measures := c.measures.set ri (if done then { m2 with origin := none } else m2) }).onCoh
      fun c => { c with blocked := c.blocked.filter fun b => b.who != .measure ri }
    match done, m.origin with
    | true, some (o, d) => complete s o d (if dig.isSome then stOk else stPoisoned) []
    | _, _ => s

/-- MEASURE_DONE (R702 to R704): the Keccak engine has gone through the region; lines that the cell holds OWNED are
recalled first, and lines that only the partner holds are fetched. -/
def execMeasureDone (region : BitVec 16) (t : Time) (faults : List ReadFault) (s : State) := up s fun s =>
  let s := s.at_ t
  let ri := region.toNat
  match measureOf? s ri, s.region? ri with
  | some m, some r =>
    match m.running with
    | [] => s
    | v :: _ =>
      if !homedOn s compATTEST 1 then s
      else if r.isScratch then measureEnd s ri v (some (shake256 (readScratch s r 0 r.bytes)))
      else
        let base := if r.isCast then v % 2 * r.bytes else 0
        let b := s.coh.blocked.find? fun b => b.who == .measure ri
        let waits := match b with
          | some b => !b.wants.isEmpty
          | none => false
        let owned := (ownedOf s ri).filter fun x => spanHits x.1.off 64 base r.bytes
        if waits || s.partnerW.any (fun m => m.reg == ri) then s
        else if owned ≠ [] then owned.foldl (fun s x => snoop s x.1 x.2 true false) s
        else
          let got := match b with
            | some b => b.got
            | none => []
          let s := s.onCoh fun c => { c with blocked := c.blocked.filter fun b => b.who != .measure ri }
          let (s, res) := measureRead s ri base r.bytes faults got
          if anyPoison res then measureEnd s ri v none
          else if wantsOf res ≠ [] then
            let hs := (List.range (r.bytes / 64)).filterMap fun i => lineHome s ri (base + 64 * i)
            awaitPartner ((hs.filter fun h => (wantsOf res).contains h.line).foldl partnerReadReq s) (.measure ri) ri base
              (wantsOf res) got
          else measureEnd s ri v (some (shake256 (joinData res)))
  | _, _ => s

/-! ### Housekeeping cores and compartments (R711 to R714) -/

/-- Home cores of a compartment that has them; the others run on every core for its quadrant. -/
def compHomes (comp : Nat) : List Nat :=
  if comp = compRING then [0, 3] else if comp = compATTEST ∨ comp = compUPDATE then [1] else if comp = 5 then [2] else []

/-- A compartment has its place on a core. -/
def compPlaced (s : State) (comp n : Nat) : Bool :=
  coreRuns s n && (match compHomes comp with
    | [] => true
    | l => l.any fun h => compPlace s h == some n)

/-- The firmware event record (R714). CAUSE and CORE are free where the event has none. -/
def fwRecord (s : State) (kind : Byte) (core comp cause : Byte) (restarts : Nat) : List Byte :=
  [kind, if kind = 0x7A ∨ kind = 0x7C then stInternal else stOk] ++ leBytes 2 0x8000 ++ [core, comp, cause, 0]
    ++ leBytes 8 s.now ++ leBytes 4 restarts ++ zeros 12 ++ padTo 32 s.sec.fwDigest

def fwEvent (s : State) (kind core comp cause : Byte) (restarts : Nat) : State :=
  bothEvent s (fwRecord s kind core comp cause restarts)

/-- Restarts within the last second (R713). -/
def within1s (now : Time) (t : Time) : Bool := decide (now < t + ms 1000)

/-- PROGRAM_LOAD commands of a quadrant start again from their DMA reads (R350, R711). -/
def restartLoads (s : State) (q : Nat) : State :=
  (List.range 2).foldl (fun s p =>
    let mine := fun r : DmaRead => decide (Desc.opcode r.desc = 0x60 ∧ loadEngine r.desc / 4 = q)
    let l := (s.hp p).dma.filter mine
    let s := s.onHp p fun h => { h with dma := h.dma.filter fun r => !mine r }
    l.foldl (fun s r => dmaRead s r.origin r.desc r.pick 0 r.addr r.len []) s) s

/-- The ports of a quadrant that are coming up start again from step 1; that counts as no attempt (R711). -/
def restartPorts (s : State) (q : Nat) : State :=
  (List.range 16).foldl (fun s i =>
    let p := 16 * q + i
    if (linkOf s p).step = 0 then s else startBringup s (Fin.ofNat 64 p) (linkOf s p).attempts) s

/-- The old image runs on, as it was: an update ends without a commit (R717, R718). -/
def rollBack (s : State) (cause : Byte) : State :=
  match s.sec.update with
  | none => s
  | some u =>
    let s := s.onSec fun c => { c with update := none }
    let n := BitVec.ofNat 8 ((compPlace s 1).getD 0)
    complete (fwEvent s 0x7C n 0xFF cause 0) u.origin u.desc stInternal []

/-- An update before its step 3 ends with INTERNAL and changes nothing (R718). -/
def dropUpdate (s : State) : State :=
  match s.sec.update with
  | none => s
  | some u =>
    let s := s.onSec fun c => { c with update := none }
    let s := (List.range 2).foldl (fun s p => s.onHp p fun h => { h with dma := h.dma.filter fun r => r.origin != u.origin }) s
    complete s u.origin u.desc stInternal []

/-- What the failure of a compartment, or of its core, does to a live update (R717, R718). -/
def updateFails (s : State) (isUpdate : Bool) : State :=
  match s.sec.update with
  | none => s
  | some u => if u.step ≥ 3 then rollBack s 7 else if isUpdate then dropUpdate s else s

/-- What a restarted compartment does again (R711). -/
def compResumes (s : State) (comp n : Nat) : State :=
  if comp = compLOADER then restartLoads s n else if comp = compLINK then restartPorts s n else s

/-- A core restarts (R712, R713): the fourth time within one second it is held. -/
def coreRestart (s : State) (n : Nat) (cause : Byte) : State :=
  let upd := compPlaced s compUPDATE n
  let c := coreOf s n
  let ts := s.now :: c.times.filter (within1s s.now)
  let s := onCore s n fun c => { c with restarts := bump c.restarts, times := ts }
  let s := fwEvent s 0x79 (BitVec.ofNat 8 n) 0xFF cause ts.length
  let s := updateFails s upd
  let s := restartPorts (restartLoads s n) n
  if ts.length ≥ 4 then
    fwEvent (onCore s n fun c => { c with running := false, held := true }) 0x7A (BitVec.ofNat 8 n) 0xFF cause ts.length
  else s

/-- CORE_FAIL (R712, R713); debug suspends the watchdogs of a halted core (R723). -/
def execCoreFail (core : Fin 4) (cause : Byte) (t : Time) (s : State) := up s fun s =>
  let s := s.at_ t
  if coreRuns s core ∧ !(coreOf s core).halted ∧ cause ≤ 3 then coreRestart s core cause else s

/-- COMPARTMENT_FAIL (R712, R713): the eighth time within one second the compartment is held. A supervisor's failure
is its core's. -/
def execCompartmentFail (core : Fin 4) (comp : Fin 8) (cause : Byte) (t : Time) (s : State) := up s fun s =>
  let s := s.at_ t
  let n := core.val
  let k := comp.val
  if compPlaced s k n ∧ compOn s k n ∧ cause ≤ 2 then
    if k = 0 then coreRestart s n cause
    else
      let c := coreOf s n
      let ts := (k, s.now) :: c.compTimes.filter fun x => within1s s.now x.2
      let cnt := (ts.filter fun x => x.1 == k).length
      let s := onCore s n fun c => { c with compRestarts := bump c.compRestarts, compTimes := ts }
      let s := fwEvent s 0x78 (BitVec.ofNat 8 n) (BitVec.ofNat 8 k) cause cnt
      let s := compResumes (updateFails s (k == compUPDATE)) k n
      if cnt ≥ 8 then
        fwEvent (onCore s n fun c => { c with heldComps := c.heldComps ||| BitVec.ofNat 8 (2 ^ k) }) 0x7A
          (BitVec.ofNat 8 n) (BitVec.ofNat 8 k) cause cnt
      else s
  else s

/-- A held compartment or core runs again, and its restarts count afresh (R713). -/
def clearHeld (s : State) (n : Nat) : State :=
  onCore s n fun c => { c with
    running := c.running || c.held, held := false, heldComps := 0
    times := if c.held then [] else c.times
    compTimes := c.compTimes.filter fun x => !c.heldComps.toNat.testBit x.1 }

/-! ### Live update (R716 to R718, R745) -/

/-- A firmware record as R745 lays it out. -/
structure FwRec where
  (magic : Nat) (version : Nat) (code : Nat) (rsvd : Nat)
  (digest key sig : List Byte)
  deriving DecidableEq, Repr, Inhabited

def fwMax : Nat := 1572864
def shaSigBytes : Nat := 29792

def fwRecOf (bs : List Byte) : FwRec :=
  let n := 16 + fieldAt bs 8 4
  ⟨fieldAt bs 0 4, fieldAt bs 4 4, fieldAt bs 8 4, fieldAt bs 12 4, shake256 (bs.take n),
    (bs.drop n).take 64, bs.drop (n + 64)⟩

/-- The vendor's signature is accepted (R691, R692, R746). -/
def vendorOk (f : FwRec) : Bool := decide (shake256 f.key = Config.vendorKeyDigest) && slhVerify f.key f.digest f.sig

/-- Format of the record: magic, reserved field, length. -/
def fwForm (f : FwRec) (len : Nat) : Bool :=
  decide (f.magic = 0x5746525A ∧ f.rsvd = 0 ∧ len = 16 + f.code + 64 + shaSigBytes ∧ len ≤ fwMax)

def specFwUpdate : CmdSpec where
  op := 0xC2
  barLate := true
  dest := here
  chk o d s := firstFail [
    (!isOperator s o, stTenantDenied),
    (!Desc.clearOutside d (Desc.byteFields [(20, 4), (24, 8)]) || decide (Desc.fld d 20 4 > fwMax ∨ Desc.fld d 20 4 = 0),
      stOutOfRange),
    (barred s d || s.sec.update.isSome, stResourceRefused)]
  eff o d k s :=
    if !dmaOk s (originPort o) then complete s o d stInternal []
    else
      let s := s.onSec fun c => { c with update := some ⟨o, d, [], 0, 1, s.now⟩ }
      dmaRead s o d k 0 (Desc.fld d 24 8) (Desc.fld d 20 4) []

/-- FW_UPDATE (R716): its record is read by DMA. -/
def execFwUpdate (r : CmdRef) (d : Desc) (s : State) := up s (runRow specFwUpdate r d default)

/-- Steps 2 and 3: the record is checked, then ring service pauses and the new image starts. -/
def fwGot (s : State) (o : Origin) (d : Desc) (ok : Bool) (bs : List Byte) : State :=
  let f := fwRecOf bs
  let fail := firstFail [
    (!ok, stInternal),
    (!vendorOk f, stKeyMismatch),
    (!fwForm f bs.length || decide (f.version < s.cfg.minFw), stOutOfRange),
    (!Config.fwImportable f.digest, stFormatUnsupported),
    (decide (f.digest = s.sec.fwDigest), stAlreadyDone)]
  match fail with
  | some st => complete (s.onSec fun c => { c with update := none }) o d st []
  | none => s.onSec fun c => { c with update := some ⟨o, d, f.digest, f.version, 3, s.now⟩ }

/-- The update in its steps 3 to 6. -/
def updating (s : State) : Option FwUp := s.sec.update.filter fun u => decide (u.step ≥ 3)

/-- FW_COMMIT (R716): the self-test has passed within 500 ms; held compartments and cores run again (R713). -/
def execFwCommit (t : Time) (s : State) := up s fun s =>
  let s := s.at_ t
  match updating s with
  | none => s
  | some u =>
    if !homedOn s compUPDATE 1 ∨ s.now > u.began + ms 500 then s
    else
      let s := s.onSec fun c => { c with
        fwDigest := u.digest, fwVersion := u.version, updates := c.updates + 1, update := none }
      let s := (List.range 4).foldl clearHeld s
      let n := BitVec.ofNat 8 ((compPlace s 1).getD 0)
      complete (fwEvent (s.stepFree) 0x7B n 0xFF (s.freeWord.setWidth 8) 0) u.origin u.desc stOk []

/-- FW_ROLLBACK (R717): the self-test failed (4), did not end within 500 ms (5), or the new image crashed (7). -/
def execFwRollback (cause : Byte) (t : Time) (s : State) := up s fun s =>
  let s := s.at_ t
  match updating s with
  | none => s
  | some u =>
    if cause = 4 ∨ cause = 7 ∨ (cause = 5 ∧ due s.now u.began (ms 500)) then rollBack s cause else s

/-! ### Debug commands (R720 to R723) -/

def specDebugOpen : CmdSpec where
  op := 0xC3
  dest := here
  chk o d s := firstFail [
    (!isOperator s o, stTenantDenied),
    (!Desc.clearOutside d (Desc.byteFields [(16, 1)]) || decide (Desc.fld d 16 1 = 0 ∨ Desc.fld d 16 1 > 2), stOutOfRange),
    (([1, 2, 3].find? fun n => !s.sec.sessions.has n).isNone, stResourceRefused)]
  eff o d _ s :=
    let n := ([1, 2, 3].find? fun n => !s.sec.sessions.has n).getD 1
    complete (openSession s n (Desc.fld d 16 1) (some (Fin.ofNat 2 (originPort o)))) o d stOk [BitVec.ofNat 8 n]

/-- DEBUG_OPEN (R720, R721). -/
def execDebugOpen (r : CmdRef) (d : Desc) (s : State) := up s (runRow specDebugOpen r d default)

def specDebugClose : CmdSpec where
  op := 0xC4
  dest := here
  chk o d s := firstFail [
    (!isOperator s o, stTenantDenied),
    (!Desc.clearOutside d (Desc.byteFields [(16, 1)]) || decide (Desc.fld d 16 1 = 0) || !s.sec.sessions.has (Desc.fld d 16 1),
      stOutOfRange)]
  eff o d _ s := complete (closeSession s (Desc.fld d 16 1)) o d stOk []

/-- DEBUG_CLOSE (R720). -/
def execDebugClose (r : CmdRef) (d : Desc) (s : State) := up s (runRow specDebugClose r d default)

def debugSpace (d : Desc) : Nat := Desc.fld d 17 1
def debugLen (d : Desc) : Nat := Desc.fld d 20 4
def debugAddr (d : Desc) : Nat := Desc.fld d 24 8

/-- The address and length of a space lie inside it (R722). -/
def debugSpan (s : State) (d : Desc) : Bool :=
  let a := debugAddr d
  let n := debugLen d
  match debugSpace d with
  | 0 => decide (a % 64 = 0 ∧ n % 64 = 0 ∧ a + n ≤ 2 ^ 40 ∧ gSlot (a / 65536) < stackGranules
      ∧ gSlot ((a + n - 1) / 65536) < stackGranules)
  | 1 => decide (bitsOf a 23 1 = 0 ∧ a < 2 ^ 28 ∧ a % 2 ^ 24 + n ≤ 2 ^ 23) && quadUp s (a / 2 ^ 24 / 4)
  | 2 => decide (a < 2 ^ 24 ∧ a % 2 ^ 22 + n ≤ 2 ^ 22) && quadUp s (a / 2 ^ 22)
  | 3 => decide (a < 4 ∧ n ≤ 65536) && quadUp s a
  | _ => false

/-- Lines that a command of space 0 names; a line's number is its address / 64. -/
def debugLines (d : Desc) : List Nat := (List.range (debugLen d / 64)).map fun i => debugAddr d / 64 + i

/-- A line on a lost stack, or on none. -/
def debugLost (s : State) (d : Desc) : Bool := debugSpace d == 0 && (debugLines d).any fun l => !lineUp s l

def debugRows (s : State) (o : Origin) (d : Desc) (wr : Bool) : List (Bool × Status) :=
  let level := if debugSpace d = 3 then 1 else 2
  [(!isOperator s o, stTenantDenied),
   (!Desc.clearOutside d (Desc.byteFields [(16, 1), (17, 1), (20, 4), (24, 8), (56, 8)])
      || decide (debugLen d = 0 ∨ debugLen d > 2 ^ 20) || !debugSpan s d || (wr && decide (debugSpace d = 3))
      || !sessionOk s (Desc.fld d 16 1) level, stOutOfRange),
   (debugLost s d, stDestLost)]

def protLine (s : State) (line : Nat) : Option Region :=
  let g := line / 1024
  (s.rgn.regions.find? fun e => (regionSpans e.2).any fun x =>
    decide (x.stack = gStack g ∧ x.start ≤ gSlot g ∧ gSlot g < x.start + x.count)).map Prod.snd

def copyLineOf (s : State) (line : Nat) : Option PartnerCopy :=
  let g := line / 1024
  s.pool.copies.find? fun c => (copySpans c).any fun x =>
    decide (x.stack = gStack g ∧ x.start ≤ gSlot g ∧ gSlot g < x.start + x.count)

/-- The metadata of any pool line; a line that nothing has written since its granule was allocated has fresh
metadata, and a granule that nothing holds carries the operator's tag. -/
def rawMeta (s : State) (line : Nat) : LineMeta :=
  match homeOfLine s line with
  | some h => lineMeta s line h.r.tenant
  | none =>
    match protLine s line, copyLineOf s line with
    | some r, _ => lineMeta s line r.tenant
    | none, some c => lineMeta s line c.tenant
    | none, none => lineMeta s line opTag

/-- A line as it is stored: data, CRC and metadata (R413, R414). -/
def rawLine (s : State) (line : Nat) : List Byte :=
  let data := lineData s line
  let md := metaBytes (rawMeta s line)
  data ++ leBytes 4 (crc32c (data ++ md ++ leBytes 8 line)).toNat ++ md

def debugBytes (s : State) (d : Desc) : List Byte :=
  let a := debugAddr d
  let n := debugLen d
  match debugSpace d with
  | 0 => (debugLines d).flatMap (rawLine s)
  | 1 => s.pool.scratch.readN (a / 2 ^ 24 * 2 ^ 23 + a % 2 ^ 24) n
  | 2 => s.sec.hkmem.readN a n
  | _ => (List.range n).map fun i => Config.logByte a s.now i

def specDebugRead : CmdSpec where
  op := 0xC5
  dest := here
  chk o d s := firstFail (debugRows s o d false)
  eff o d _ s :=
    if dmaOk s (originPort o) then complete (dmaWrite s (originPort o) (Desc.fld d 56 8) (debugBytes s d)) o d stOk []
    else complete s o d stInternal []

/-- DEBUG_READ (R722). -/
def execDebugRead (r : CmdRef) (d : Desc) (s : State) := up s (runRow specDebugRead r d default)

def specDebugWrite : CmdSpec where
  op := 0xC6
  dest := here
  chk o d s := firstFail (debugRows s o d true)
  eff o d k s :=
    if dmaOk s (originPort o) then dmaRead s o d k 0 (Desc.fld d 56 8) (debugLen d) []
    else complete s o d stInternal []

/-- DEBUG_WRITE (R722). -/
def execDebugWrite (r : CmdRef) (d : Desc) (s : State) := up s (runRow specDebugWrite r d default)

/-- A debug write of one line, applied at its home as a write: copies of it are invalidated, its protection follows,
EPOCH rises, POISON clears, TENANT stays; a sealed or cast region's entry is marked. -/
def debugLine (s : State) (o : Origin) (d : Desc) (line : Nat) (data : List Byte) : State :=
  match homeOfLine s line with
  | some h =>
    let s := partnerKeep (storeLine (takeBack s h) h data false) (.debug o d) h.ri h.r [h]
    if h.r.sealedNow ∨ h.r.isCast then
      s.onSec fun c => { c with measures := c.measures.modify h.ri fun m => { m with debugWritten := true } }
    else s
  | none =>
    let md := rawMeta s line
    setLine s line data { md with epoch := md.epoch + 1, poison := false }

/-- The data of a DEBUG_WRITE have come, or their DMA read has failed. -/
def debugGot (s : State) (o : Origin) (d : Desc) (ok : Bool) (bs : List Byte) : State :=
  let fail := firstFail (debugRows s o d true ++ [(!ok, stInternal)])
  match fail with
  | some st => complete s o d st []
  | none =>
    let a := debugAddr d
    let s := match debugSpace d with
      | 0 => (debugLines d).foldl (fun s l => debugLine s o d l (padTo 64 ((bs.drop (64 * (l - a / 64))).take 64))) s
      | 1 => s.onPool fun p => { p with scratch := p.scratch.writeN (a / 2 ^ 24 * 2 ^ 23 + a % 2 ^ 24) bs }
      | _ => s.onSec fun c => { c with hkmem := c.hkmem.writeN a bs }
    -- lines of a partnered region end the command once the partner holds them (R424)
    if s.partnerW.any fun m => m.who == .debug o d then s else complete s o d stOk []

def hkCores (d : Desc) : List Nat := bitList (Desc.fld d 17 1) 4
def hkAction (d : Desc) : Nat := Desc.fld d 18 1

def specHkControl : CmdSpec where
  op := 0xC7
  dest := here
  chk o d s := firstFail [
    (!isOperator s o, stTenantDenied),
    (!Desc.clearOutside d [(128, 8), (136, 4), (144, 8)] || decide (hkAction d > 2) || !sessionOk s (Desc.fld d 16 1) 2
      || (hkCores d).any (fun n => !quadUp s n), stOutOfRange),
    (decide (hkAction d = 0) && (hkCores d).any (fun n => (coreOf s n).halted), stAlreadyDone)]
  eff o d _ s :=
    let s := (hkCores d).foldl (fun s n =>
      match hkAction d with
      | 0 => onCore s n fun c => { c with halted := true }
      | 1 => onCore s n fun c => { c with halted := false }
      | _ => coreRestart (onCore (clearHeld s n) n fun c => { c with halted := false }) n 6) s
    complete s o d stOk []

/-- HK_CONTROL (R713, R723). -/
def execHkControl (r : CmdRef) (d : Desc) (s : State) := up s (runRow specHkControl r d default)

end Sys2Proof.Machine
end

