-- ==== Sys2Proof/Machine/Dawn.lean ====
section
/-! DEFINITION. Reset, the Dawn steps, the configuration image and the flash commands (16_dawn_config.md), the supply
and control pins (17_package_electrical.md), and JTAG (R719, R780). -/

namespace Sys2Proof.Machine

/-! ### The image (R737 to R746) -/

/-- CHECK of a seed (R686). -/
def checkOf (seed : List Byte) : List Byte := shake256 (asciiBytes "ZS-PUF-CHECK" ++ seed)

structure ImgRec where
  kind : Nat
  body : List Byte
  deriving DecidableEq, Repr, Inhabited

def pad8 (n : Nat) : Nat := (n + 7) / 8 * 8

/-- The records of an image from an offset on, where each is whole, its reserved bytes and padding zero. -/
def recordsFrom (bs : List Byte) : Nat → Nat → Option (List ImgRec)
  | 0, off => if off = bs.length then some [] else none
  | n + 1, off =>
    let len := fieldAt bs (off + 4) 4
    if off + 16 + pad8 len > bs.length ∨ fieldAt bs (off + 2) 2 ≠ 0 ∨ fieldAt bs (off + 8) 8 ≠ 0
      ∨ !((bs.drop (off + 16 + len)).take (pad8 len - len)).all (· == 0) then none
    else (recordsFrom bs n (off + 16 + pad8 len)).map (⟨fieldAt bs off 2, (bs.drop (off + 16)).take len⟩ :: ·)

def recTypes : List Nat := [1, 2, 3, 4, 5, 6, 7, 8, 9, 0xFF]

def imageMax : Nat := 2 ^ 21
def imageBytesOf (bs : List Byte) : Nat := fieldAt bs 8 4

/-- The records of an image whose header and order are as R737 gives. -/
def imageRecs (bs : List Byte) : Option (List ImgRec) :=
  if bs.length ≠ imageBytesOf bs ∨ bs.length > imageMax ∨ fieldAt bs 5 1 ≠ 0 ∨ fieldAt bs 6 2 ≠ 10 ∨ fieldAt bs 12 4 ≠ 0
    ∨ fieldAt bs 24 8 ≠ 0 then none
  else (recordsFrom bs 10 64).filter fun l => l.map ImgRec.kind == recTypes

def bodyOf (l : List ImgRec) (k : Nat) : List Byte :=
  match l.find? fun r => r.kind == k with
  | some r => r.body
  | none => []

def allZero (bs : List Byte) : Bool := bs.all (· == 0)
def sliceOf (bs : List Byte) (off n : Nat) : List Byte := (bs.drop off).take n

def helperOk (b : List Byte) : Bool :=
  decide (fieldAt b 32832 4 ≤ 32768 ∧ b.length = 32840 + fieldAt b 32832 4 ∧ fieldAt b 32836 4 = 0)

def ownerOk (b : List Byte) : Bool :=
  decide (b.length = 584 ∧ fieldAt b 64 1 < 4 ∧ fieldAt b 65 1 ≤ 8 ∧ fieldAt b 66 2 = 0)
    && allZero (b.drop (72 + 64 * fieldAt b 65 1))

def nodeBodyOk (b : List Byte) : Bool :=
  let n : Node := BitVec.ofNat 16 (fieldAt b 0 2)
  decide (b.length = 16 ∧ fieldAt b 2 1 < 4) && allZero (b.drop 3) && isSwitch n && nodeLegal n

def portEntry (b : List Byte) (p : Nat) : List Byte := sliceOf b (40 + 16 * p) 16

/-- One port entry's reserved field and ranges (R742, R468). -/
def portEntryOk (e : List Byte) : Bool :=
  let k := fieldAt e 0 1
  decide (k ≤ 4 ∧ fieldAt e 6 2 = 0) && (decide (k = 4) ||
    (decide (fieldAt e 2 1 < 64) && decide (fieldAt e 4 2 = 0x6476 ∨ fieldAt e 4 2 = 0x0208)
      && decide (k = 0 ∨ fieldAt e 8 8 ≠ 0)))

def cablingOk (b : List Byte) : Bool :=
  decide (b.length = 1064 ∧ 1 ≤ fieldAt b 0 1 ∧ fieldAt b 0 1 ≤ 16) && allZero (sliceOf b 1 7)
    && (List.range 64).all fun p => portEntryOk (portEntry b p)

/-- INDEX is consistent with KIND (R742, R746). -/
def portIndexOk (e : List Byte) : Bool :=
  let i := fieldAt e 1 1
  match fieldAt e 0 1 with
  | 0 => decide (i < 32)
  | 1 => decide (i < 8)
  | 2 => decide (i < 16)
  | _ => decide (i = 0)

def profileAt (b : List Byte) (i : Nat) : List Byte := sliceOf b (16 * i) 16
def signed8 (b : Byte) : Int := b.toInt

/-- Ranges of a profile's fields (R458). -/
def profileRange (e : List Byte) : Bool :=
  let dfe := fun i => decide (-32 ≤ signed8 (e.getD i 0) ∧ signed8 (e.getD i 0) ≤ 31)
  decide (fieldAt e 0 1 < 64 ∧ fieldAt e 1 1 < 2 ∧ fieldAt e 6 1 < 32 ∧ fieldAt e 7 1 < 16 ∧ fieldAt e 8 1 < 64
    ∧ fieldAt e 12 4 = 0) && dfe 9 && dfe 10 && dfe 11

def profileValid (e : List Byte) : Bool := bitOf (fieldAt e 1 1) 0

/-- The swing of a valid profile (R459). -/
def profileSwing (e : List Byte) : Bool :=
  !profileValid e || decide ((signed8 (e.getD 2 0)).natAbs + (signed8 (e.getD 3 0)).natAbs + fieldAt e 4 1
    + (signed8 (e.getD 5 0)).natAbs ≤ 64)

def equalRange (b : List Byte) : Bool := decide (b.length = 1280) && (List.range 64).all fun i => profileRange (profileAt b i)

/-- R459 of every profile and lane map entry. -/
def equalOk (b : List Byte) : Bool :=
  ((List.range 64).all fun i => profileSwing (profileAt b i))
    && (List.range 256).all fun n => decide (fieldAt b (1024 + n) 1 < 64) && profileValid (profileAt b (fieldAt b (1024 + n) 1))

def routesOk (b : List Byte) : Bool :=
  decide (b.length = 224) && (List.range 56).all fun i =>
    ((List.range 3).all fun j => !bitOf (fieldAt b (4 * i + j) 1) 6) && decide (fieldAt b (4 * i + 3) 1 < 2)

def limitsAt (b : List Byte) (q : Nat) : Limits :=
  let e := sliceOf b (48 * q) 48
  { gFabric := (List.range 8).map fun v => fieldAt e (2 * v) 2
    gLocal := (List.range 8).map fun v => fieldAt e (16 + 2 * v) 2
    m := fieldAt e 32 4, cap := fieldAt e 36 4, mark := fieldAt e 40 2
    weights := (List.range 6).map fun v => bitsOf (fieldAt e 42 3) (4 * v) 4 }

/-- Ranges of a LIMITS block (R232, R743); the lower bound of G of a fabric account is R233's. -/
def limitsRange (b : List Byte) : Bool :=
  decide (b.length = 192) && (List.range 4).all fun q =>
    let l := limitsAt b q
    (l.gFabric.all fun g => decide (g ≤ 4096 ∧ g ≤ l.m)) && (l.gLocal.all fun g => decide (64 ≤ g ∧ g ≤ 16384))
      && decide (l.m ≤ 65536 ∧ 64 ≤ l.cap ∧ l.cap ≤ 65536 ∧ 8 ≤ l.mark ∧ l.mark ≤ 4096)
      && (l.weights.all fun w => decide (1 ≤ w)) && decide (fieldAt b (48 * q + 45) 3 = 0)

/-- R233 for one block. -/
def limitsOk (l : Limits) : Bool :=
  (l.gFabric.all fun g => decide (137 ≤ g)) && decide (16 * l.gFabric.sum + l.gLocal.sum ≤ quadCells - headroomH)

def presetsOk (b : List Byte) : Bool :=
  let f := fieldAt b
  decide (b.length = 32) && ((List.range 16).all fun i => decide (1 ≤ f i 1 ∧ f i 1 ≤ 15))
    && decide (1 ≤ f 16 1 ∧ f 16 1 ≤ 24 ∧ 1 ≤ f 17 1 ∧ f 17 1 ≤ 10 ∧ 1 ≤ f 18 2 ∧ f 18 2 ≤ 1000)
    && !mvBad (f 20 2) && decide (85 ≤ f 22 1 ∧ f 22 1 ≤ 105 ∧ 5 ≤ f 23 1 ∧ f 23 1 ≤ 100 ∧ 1 ≤ f 24 1 ∧ f 24 1 ≤ 40)
    && decide (f 25 1 ≤ 1) && !mvBad (f 26 2) && decide (f 28 4 = 0)

/-- Check 1 of R746. -/
def check1 (bs : List Byte) (sfdp : Bool) (device : Nat) : Bool :=
  sfdp && decide (fieldAt bs 0 4 = 0x474D495A ∧ fieldAt bs 4 1 = 1 ∧ imageBytesOf bs ≤ device)

/-- Check 2: order, sizes, reserved fields and ranges; SERIAL where it is compared. -/
def check2 (bs : List Byte) (l : List ImgRec) (serial : Option (BitVec 64)) : Bool :=
  helperOk (bodyOf l 1) && ownerOk (bodyOf l 2) && nodeBodyOk (bodyOf l 3) && cablingOk (bodyOf l 4)
    && equalRange (bodyOf l 5) && routesOk (bodyOf l 6) && limitsRange (bodyOf l 7) && presetsOk (bodyOf l 8)
    && fwForm (fwRecOf (bodyOf l 9)) (bodyOf l 9).length && decide ((bodyOf l 0xFF).length = shaSigBytes)
    && (match serial with
        | some n => decide (fieldAt bs 16 8 = n.toNat)
        | none => true)

def switchIndex (n : Node) : Nat := 16 * rackOf n + 8 * planeOf n + swOf n

/-- Check 3. -/
def check3 (l : List ImgRec) : Bool :=
  let n : Node := BitVec.ofNat 16 (fieldAt (bodyOf l 3) 0 2)
  let c := bodyOf l 4
  ((List.range 4).all fun q => limitsOk (limitsAt (bodyOf l 7) q)) && equalOk (bodyOf l 5)
    && ((List.range 64).all fun p => portIndexOk (portEntry c p))
    && decide (rackOf n < fieldAt c 0 1) && bitOf (fieldAt c 8 32) (switchIndex n)

/-- CONFIG_DIGEST (R739): everything before the SIGNATURE record. -/
def configDigest (bs : List Byte) : List Byte := shake256 (bs.take (bs.length - 16 - shaSigBytes))

/-- Check 4. -/
def check4 (l : List ImgRec) : Bool := vendorOk (fwRecOf (bodyOf l 9))

/-- Check 5. -/
def check5 (bs : List Byte) (l : List ImgRec) : Bool :=
  slhVerify ((bodyOf l 2).take 64) (configDigest bs) (bodyOf l 0xFF)

/-- Check 6. -/
def check6 (l : List ImgRec) : Bool := decide (fieldAt (bodyOf l 2) 68 4 ≤ (fwRecOf (bodyOf l 9)).version)

/-- The configuration check (R746): the CAUSE of its first failure, or the records. -/
def imageCheck (bs : List Byte) (sfdp : Bool) (device : Nat) (serial : Option (BitVec 64)) : Except Nat (List ImgRec) :=
  if !check1 bs sfdp device then .error 2
  else
    match imageRecs bs with
    | none => .error 3
    | some l =>
      if !check2 bs l serial ∨ !check3 l then .error 3
      else if !check4 l ∨ !check5 bs l then .error 4
      else if !check6 l then .error 5
      else .ok l

def planEntry (e : List Byte) : PortPlan where
  kind := match fieldAt e 0 1 with
    | 0 => .down
    | 1 => .peer
    | 2 => .global
    | 3 => .spare
    | _ => .unused
  index := fieldAt e 1 1
  farPort := e.getD 2 0
  farStepping := e.getD 3 0
  farPart := BitVec.ofNat 16 (fieldAt e 4 2)
  farSerial := BitVec.ofNat 64 (fieldAt e 8 8)

/-- The configuration in force that an image gives (R740 to R744). -/
def cfgOf (l : List ImgRec) : Cfg :=
  let o := bodyOf l 2
  let n := bodyOf l 3
  let c := bodyOf l 4
  let e := bodyOf l 5
  { requireSigned := bitOf (fieldAt o 64 1) 0, ideRequired := bitOf (fieldAt o 64 1) 1
    signers := (List.range (fieldAt o 65 1)).map fun i => sliceOf o (72 + 64 * i) 64
    minFw := fieldAt o 68 4
    eligible := bitOf (fieldAt n 2 1) 0, startService := bitOf (fieldAt n 2 1) 1
    racks := fieldAt c 0 1, switches := BitVec.ofNat 256 (fieldAt c 8 32)
    plan := (List.range 64).map fun p => (p, planEntry (portEntry c p))
    profiles := (List.range 64).map (profileAt e), lanes := sliceOf e 1024 256
    check := sliceOf (bodyOf l 1) 32768 64 }

def routeAt (b : List Byte) (i : Nat) : RouteEntry :=
  ⟨b.getD (4 * i) 0, b.getD (4 * i + 1) 0, b.getD (4 * i + 2) 0, bitOf (fieldAt b (4 * i + 3) 1) 0⟩

/-- The presets of R744. -/
def applyPresets (s : State) (b : List Byte) : State :=
  let f := fieldAt b
  let s := (List.range 16).foldl (fun s e => onEngine s e fun x => { x with weight := f e 1 }) s
  let s := s.onPool fun p => { p with passHours := f 16 1 }
  s.onPwr fun p => { p with
    guard := f 17 1, sleepIdle := f 18 2, vmax := f 20 2, logicLimit := f 22 1, alarm := f 23 1, thresh := f 24 1
    fixed := decide (f 25 1 = 1), fixedSet := f 26 2, capSince := some s.now }

/-- Applies an accepted image. -/
def applyImage (s : State) (bs : List Byte) (l : List ImgRec) : State :=
  let h := bodyOf l 1
  let fw := fwRecOf (bodyOf l 9)
  let s := { s with cfg := cfgOf l }
  let s := s.onDev fun d => { d with nodeId := BitVec.ofNat 16 (fieldAt (bodyOf l 3) 0 2) }
  let s := s.onSwc fun c => { c with
    routes := (List.range 56).foldl (fun t i => Tbl.set t (if i < 24 then i else i + 8) (routeAt (bodyOf l 6) i)) c.routes
    limits := (List.range 4).map fun q => (q, limitsAt (bodyOf l 7) q), low := [] }
  let s := s.onSec fun c => { c with
    owned := true, cause := 0, endorsement := h.drop 32840, fwVersion := fw.version, fwDigest := fw.digest
    firstFw := if c.firstFw = [] then fw.digest else c.firstFw
    cfgDigest := configDigest bs, ownerDigest := shake256 ((bodyOf l 2).take 64) }
  applyPresets s (bodyOf l 8)

/-! ### Reset (R772 to R776) -/

/-- Every unit stops: what is left is the other part, the package's pins and what the queue still holds. THERMTRIP_N
stays latched until reset is asserted with VCORE absent (R778), and the TAP is in the VIO domain (R719). -/
def resetSwitch (s : State) : State :=
  let d := s.dev
  let r := State.reset
  { r with
    dev := { r.dev with
      resetLow := d.resetLow, railsOut := d.railsOut, refOut := d.refOut, vio := d.vio
      thermtrip := d.thermtrip && !d.railsOut.contains .vcore
      pinsOff := d.pinsOff, tapIr := d.tapIr, tapDr := d.tapDr }
    ep := s.ep, out := s.out, free := s.free, pending := s.pending, widNext := s.widNext }

/-- Levels of the pins FL_RESET_N, low from SYS_RESET_N until Dawn begins (R781), and THERMTRIP_N (R778). -/
def flResetN (s : State) : Bool := s.dev.vio && !s.dev.held
def thermtripN (s : State) : Bool := !s.dev.thermtrip

/-- The fabric lanes stop (R773). -/
def lanesStop (s : State) : State :=
  ((List.range 64).filter fun p => (linkOf s p).state ≠ lnkDOWN).foldl (fun s p => s.emit (.lanesOff p)) s

def resetNow (s : State) : State := resetSwitch (lanesStop s)

/-- A fault of a pin or rail is long enough to count (R772, R773, R776): more than 1 µs. -/
def longPulse (ns : Nat) : Bool := decide (ns > 1000)

/-- SYS_RESET_N (R773). -/
def execSysResetNAssert (ns : Nat) (taken released : Bool) (s : State) : Host.Outcome State Fault Refusal :=
  if !s.dev.vio then .next s
  else if ns ≥ 1000 ∨ (100 ≤ ns ∧ taken) then
    .next ((resetNow s).onDev fun d => { d with resetLow := !released })
  else .next s

/-- RAIL_OUT_OF_RANGE (R772). A loss of VIO stops the switch; its return begins a Dawn. -/
def execRailOutOfRange (rail : Rail) (ns : Nat) (back : Bool) (s : State) : Host.Outcome State Fault Refusal :=
  if rail = .vio then
    .next (if s.dev.vio ∧ !back then (resetNow s).onDev fun d => { d with vio := false, thermtrip := false }
      else (resetNow s).onDev fun d => { d with vio := true, thermtrip := false, tapIr := "IDCODE", pinsOff := false })
  else if !s.dev.vio then .next s
  else if s.dev.railsOut.contains rail then
    .next (if back then (resetNow s).onDev fun d => { d with railsOut := d.railsOut.erase rail } else s)
  else if longPulse ns then
    .next ((resetNow s).onDev fun d => { d with railsOut := if back then d.railsOut else d.railsOut ++ [rail] })
  else .next s

/-- REFCLK_F_LOSS (R776). -/
def execRefclkFLoss (ns : Nat) (back : Bool) (s : State) : Host.Outcome State Fault Refusal :=
  if !s.dev.vio then .next s
  else if s.dev.refOut ∨ longPulse ns then .next ((resetNow s).onDev fun d => { d with refOut := !back })
  else .next s

/-! ### Dawn (R748 to R755) -/

/-- A step of Dawn ends, so long after the one before. From the end of the NVM step on the regulator is commanded
(R651). -/
def stepEnds (s : State) (t next : Nat) : State :=
  let s := (s.at_ (s.now + ms t)).onDev fun d => { d with step := next, elapsed := d.elapsed + t }
  if next = 4 then s.onPwr fun p => { p with vrLast := s.now } else s

/-- Step 1 (R748, R753, R754): self-test, boot ROM, housekeeping cores, flash identification. -/
def execDawnBootRom (quadsPass : BitVec 4) (sfdp : Bool) (t : Nat) (s : State) := up s fun s =>
  if s.dev.step ≠ 1 then s
  else
    let s := stepEnds s t (if quadsPass = 0 then 0xE else 2)
    let s := s.onDev fun d => { d with quadUp := quadsPass, quadFail := ~~~ quadsPass, sfdp := sfdp }
    s.onSec fun c => { c with
      cores := (bitList quadsPass.toNat 4).map fun n => (n, { (default : Core) with running := true }) }

/-- Step 2 (R686 to R689): the seed is reconstructed and the key pair made; the helper record comes from the flash. -/
def execDawnPuf (raw helper : List Byte) (t : Nat) (s : State) := up s fun s =>
  if s.dev.step ≠ 2 then s
  else
    let fail := fun s : State => (stepEnds s t 4).onSec fun c => { c with cause := 1 }
    if !s.dev.sfdp then fail s
    else
      let seed := Config.packageSeed
      if !Config.pufReads raw (helper.take 32768) ∨ checkOf seed ≠ sliceOf helper 32768 64 then fail s
      else
        let pk := padTo 64 (idPublicKey seed)
        let s := (stepEnds s t 3).onSec fun c => { c with
          seed := seed, pk := pk, keyReady := true, endorsement := helper.drop 32840 }
        s.onDev fun d => { d with serial := BitVec.ofNat 64 (fieldAt (shake256 pk) 0 8) }

/-- Step 3 (R746): the image is read and checked, and applied if it passes. -/
def execDawnNvm (image : List Byte) (deviceBytes t : Nat) (s : State) := up s fun s =>
  if s.dev.step ≠ 3 then s
  else
    let bs := image.take (imageBytesOf image)
    let s := stepEnds s t 4
    match imageCheck bs s.dev.sfdp deviceBytes (some s.dev.serial) with
    | .error c => s.onSec fun x => { x with cause := c }
    | .ok l => applyImage s bs l

/-- Step 4 (R748, R750, R755): the stacks of the quadrants in service are trained, tested and filled; those that fail are
lost. In UNVERIFIED Dawn stops here, and DAWN_DONE is set where there is an identity. -/
def execDawnDram (stackFail : BitVec 16) (t : Nat) (s : State) := up s fun s =>
  if s.dev.step ≠ 4 then s
  else
    let s := stepEnds s t (if s.sec.owned then 5 else 0xD)
    let here := (List.range 16).filter fun k => quadUp s (k / 4)
    let bad := here.filter fun k => stackFail.getLsbD k
    let good := here.filter fun k => !stackFail.getLsbD k
    let s := s.onDev fun d => { d with stackFail := BitVec.ofNat 16 (bad.map (2 ^ ·)).sum }
    let s := s.onPool fun p => { p with trained := BitVec.ofNat 16 (good.map (2 ^ ·)).sum }
    let s := bad.foldl declareStackLost s
    if !s.sec.owned ∧ s.sec.keyReady then (s.onFlt fun f => { f with service := false }).onDev fun d => { d with dawnDone := true }
    else s

/-- Ports that the cabling plan uses, in quadrants in service. -/
def usedPorts (s : State) : List (Fin 64) :=
  (List.finRange 64).filter fun p => kindOf s p != .unused && quadUp s (p.val / 16)

/-- A port has not begun to come up since reset. -/
def portFresh (s : State) (p : Fin 64) : Bool := (linkOf s p).step == 0 && (linkOf s p).state == lnkDOWN

/-- Step 5 (R460, R471, R750): every used port comes up, each by its own steps; the step ends when each has passed step 5
of R471 or stays out. -/
def execDawnLinks (t : Nat) (s : State) := up s fun s =>
  if s.dev.step ≠ 5 then s
  else
    let s := ((usedPorts s).filter (portFresh s)).foldl (fun s p => startBringup s p 1) s
    if (usedPorts s).all fun p => decide ((linkOf s p).step = 0 ∨ 6 ≤ (linkOf s p).step) then stepEnds s t 6 else s

/-- Step 6 (R748, R750): the step ends when every used port is in service or stays out; step 7 opens the election. -/
def execDawnFarEndIdentity (t : Nat) (s : State) := up s fun s =>
  if s.dev.step = 6 ∧ (usedPorts s).all fun p => decide ((linkOf s p).step = 0) then
    onTn (stepEnds s t 7) .zs fun n => { n with electing := true }
  else s

/-- Step 7 (R748, R751, R752): it ends once the switch is locked, or after 2 s without a manager with quorum. -/
def execDawnElectionAndLock (t : Nat) (s : State) := up s fun s =>
  if s.dev.step = 7 ∧ (s.flt.tn.lock ≠ .unlocked ∨ t ≥ 2000) then stepEnds s t 8 else s

/-- Completes an image command once Dawn and the flash device are done with it (R757). -/
def flashDone (s : State) : State :=
  match s.sec.flash with
  | none => s
  | some j =>
    if j.accepted ∧ !j.writing ∧ (!j.push ∨ s.dev.dawnDone) then
      complete (s.onSec fun c => { c with flash := none }) j.origin j.desc (if j.failed then stInternal else stOk) []
    else s

/-- Step 8 (R752): the row's mode, or MAINTENANCE while unlocked; DAWN_DONE. -/
def execDawnModeEntered (t : Nat) (s : State) := up s fun s =>
  if s.dev.step ≠ 8 then s
  else
    let s := if s.flt.tn.lock = .unlocked then s.onFlt fun f => { f with service := false } else s
    flashDone ((stepEnds s t 9).onDev fun d => { d with dawnDone := true })

/-! ### Image commands (R756 to R758) -/

def imgLen (d : Desc) : Nat := Desc.fld d 20 4

/-- The rows of R758 before the image is read. IMAGE_PUSH is for a Dawn that has stopped in UNVERIFIED (R755, R756). -/
def flashRows (s : State) (o : Origin) (d : Desc) (push : Bool) : List (Bool × Status) :=
  let flds := Desc.byteFields [(20, 4), (24, 8)]
  [(!isOperator s o, stTenantDenied),
   (!Desc.clearOutside d (if push then (128, 1) :: flds else flds) || decide (imgLen d > imageMax ∨ imgLen d = 0), stOutOfRange),
   (s.sec.flash.isSome || (push && (s.sec.owned || !s.sec.keyReady || s.dev.step != 0xD)), stResourceRefused)]

/-- An image command takes its place and reads its image. -/
def startImage (s : State) (o : Origin) (d : Desc) (k : Pick) (push : Bool) : State :=
  if !dmaOk s (originPort o) then complete s o d stInternal []
  else dmaRead (s.onSec fun c => { c with flash := some ⟨o, d, push, false, false, false⟩ }) o d k 0 (Desc.fld d 24 8)
    (imgLen d) []

def specFlashWrite : CmdSpec where
  op := 0xD0
  dest := here
  chk o d s := firstFail (flashRows s o d false)
  eff o d k s := startImage s o d k false

/-- FLASH_WRITE (R756). -/
def execFlashWrite (r : CmdRef) (d : Desc) (s : State) := up s (runRow specFlashWrite r d default)

def specImagePush : CmdSpec where
  op := 0xD1
  dest := here
  chk o d s := firstFail (flashRows s o d true)
  eff o d k s := startImage s o d k true

/-- IMAGE_PUSH (R756). -/
def execImagePush (r : CmdRef) (d : Desc) (s : State) := up s (runRow specImagePush r d default)

/-- The device begins to erase and program. -/
def programFlash (s : State) (n : Nat) : State := s.emit (.flashWrite n)

/-- Rows of R758 that the image decides: signatures and CHECK first, then the other checks. The device holds any image
of at most 2 MiB (R734). -/
def imageRows (s : State) (bs : List Byte) (len : Nat) (push : Bool) : List (Bool × Status) :=
  let serial := if push ∨ s.sec.keyReady then some s.dev.serial else none
  let l := (imageRecs bs).getD []
  let parsed := (imageRecs bs).isSome
  let sigBad := parsed && (!check4 l || !check5 bs l)
  let checkBad := push && parsed && decide (checkOf s.sec.seed ≠ sliceOf (bodyOf l 1) 32768 64)
  let other := match imageCheck bs s.dev.sfdp imageMax serial with
    | .ok _ => false
    | .error c => c != 4
  [(sigBad || checkBad, stKeyMismatch), (other || decide (imageBytesOf bs ≠ len), stOutOfRange)]

/-- The image has come, or its DMA read has failed. -/
def imageGot (s : State) (o : Origin) (d : Desc) (ok : Bool) (bs : List Byte) : State :=
  match s.sec.flash with
  | none => s
  | some j =>
    match firstFail (if ok then imageRows s bs (imgLen d) j.push else [(true, stInternal)]) with
    | some st => complete (s.onSec fun c => { c with flash := none }) o d st []
    | none =>
      if j.push then
        let fl := Desc.bit d 128
        let s := s.onSec fun c => { c with flash := some { j with accepted := true, writing := fl } }
        let s := applyImage (if fl then programFlash s bs.length else s) bs ((imageRecs bs).getD [])
        s.onDev fun x => { x with dawnDone := false, step := 5 }
      else programFlash (s.onSec fun c => { c with flash := some { j with accepted := true, writing := true } }) bs.length

/-- FLASH_WRITE_END (R757): the flash device is done, or reports a failure. -/
def execFlashWriteEnd (ok : Bool) (s : State) := up s fun s =>
  match s.sec.flash with
  | none => s
  | some j =>
    if j.writing then flashDone (s.onSec fun c => { c with flash := some { j with writing := false, failed := !ok } }) else s

/-! ### JTAG (R719, R720, R780) -/

/-- IDCODE (R780). -/
def idcodeValue : BitVec 32 := 0x16476B67

/-- The TAP works with VIO alone. -/
def tap (s : State) (k : State → State) : Host.Outcome State Fault Refusal :=
  if !s.dev.vio then .next s else .next (k s)

/-- Selects an instruction that leaves the pins in functional control. -/
def tapQuiet (s : State) (ir : String) : State := s.onDev fun d => { d with tapIr := ir, pinsOff := false }

def execBypass (s : State) := tap s fun s => (tapQuiet s "BYPASS").onDev fun d => { d with tapDr := 0 }
def execIdcode (s : State) := tap s fun s =>
  ((tapQuiet s "IDCODE").onDev fun d => { d with tapDr := idcodeValue }).emit (.tdo idcodeValue)
def execSamplePreload (s : State) := tap s fun s => tapQuiet s "SAMPLE/PRELOAD"

/-- The pins leave functional control: fabric and host links go down, and the level is D2 while VCORE is present. -/
def pinsOut (s : State) (ir : String) : State :=
  let s := s.onDev fun d => { d with tapIr := ir, pinsOff := true }
  if s.dev.held then s
  else
    let s := openSession s 0 2 none
    let s := ((List.finRange 64).filter fun (p : Fin 64) => portUp s p || decide ((linkOf s p).step ≠ 0)).foldl
      (fun s (p : Fin 64) => if portUp s p then failLink s p failSIGNAL else stayOut s p failSIGNAL) s
    (List.finRange 2).foldl (fun s (p : Fin 2) =>
      if (s.hp p).linkUp then hostGone (s.onHp p fun h => { h with linkUp := false, cxlMem := false }) p else s) s

def execExtest (s : State) := tap s fun s => pinsOut s "EXTEST"
def execClamp (s : State) := tap s fun s => pinsOut s "CLAMP"
def execHighz (s : State) := tap s fun s => pinsOut s "HIGHZ"

/-- DAP_ACCESS: session 0 opens at the level written to its control word; level 0 closes it. -/
def execDapAccess (level : Fin 3) (s : State) := tap s fun s =>
  let s := tapQuiet s "DAP_ACCESS"
  if s.dev.held then s
  else if level.val = 0 then closeSession s 0 else openSession s 0 level.val none

/-- TRST_N resets the TAP and closes session 0. -/
def execTrstNAssert (s : State) := tap s fun s => closeSession (tapQuiet s "IDCODE") 0

end Sys2Proof.Machine
end

