-- ==== Sys2Proof/Machine/Packets.lean ====
section
/-! DEFINITION. The rows of Ubkel packets at the node that they name (R191 to R213), and the timers of the transport, at
the switch and at the ZE-208. A row whose packet has another opcode than the row's changes nothing. -/

namespace Sys2Proof.Machine

/-! ### Requests at their destination -/

/-- A port of the ZE-208 that a packet can arrive on. -/
def epArrives (s : State) (a : Arrival) : Bool := decide (a.port.val < 2) && epPortUp s.ep a.port.val

/-- A request that no row names, its opcode or MSG undefined (R190, R192). Every row of a request takes it and answers
FORMAT_UNSUPPORTED at step 6 of R201, for it is malformed (R200). DEDUCED (log entry 163). -/
def noRow (p : Packet) : Bool :=
  (!isResponseOp p.opcode && (vcOf p.opcode).isNone) || (p.opcode == opMGMT && !mgmtMsgs.contains p.msg)

/-- A request at its destination: `zs` and `ze` are its steps 7 and 8 of R201 at either part. -/
def atDest (a : Arrival) (own : Bool) (zs ze : State → State) (s : State) : Host.Outcome State Fault Refusal :=
  let ok := own || noRow a.pkt
  match a.part with
  | .zs => up s fun s => if ok then settle (receive s a zs) else s
  | .ze => .next (if ok ∧ epArrives s a then atEp s fun s => epReceive s a ze else s)

/-- READ (R201). -/
def execRead (a : Arrival) (faults : List ReadFault) (s : State) : Host.Outcome State Fault Refusal :=
  atDest a (a.pkt.opcode == opREAD) (fun s => serveRead s a faults) (fun s => epServe s a) s

/-- READ_OWN (R155). -/
def execReadOwn (a : Arrival) (faults : List ReadFault) (s : State) : Host.Outcome State Fault Refusal :=
  atDest a (a.pkt.opcode == opREADOWN) (fun s => serveRead s a faults) (fun s => epServe s a) s

/-- COUNTER_READ (R787). -/
def execCounterRead (a : Arrival) (s : State) : Host.Outcome State Fault Refusal :=
  atDest a (a.pkt.opcode == opCOUNTERREAD) (fun s => serveCounterRead s a) (fun s => epCounterRead s a) s

/-- WRITE without CLOSE (R118, R119). -/
def execWrite (a : Arrival) (s : State) : Host.Outcome State Fault Refusal :=
  atDest a (a.pkt.opcode == opWRITE && !a.pkt.close) (fun s => serveWrite s a) (fun s => epServe s a) s

/-- STORE (R158). -/
def execStore (a : Arrival) (s : State) : Host.Outcome State Fault Refusal :=
  atDest a (a.pkt.opcode == opSTORE) (fun s => serveWrite s a) (fun s => epServe s a) s

/-- WRITEBACK (R792). -/
def execWriteback (a : Arrival) (s : State) : Host.Outcome State Fault Refusal :=
  atDest a (a.pkt.opcode == opWRITEBACK) (fun s => serveWrite s a) (fun s => epServe s a) s

/-- ATOMIC (R199). -/
def execAtomic (a : Arrival) (faults : List ReadFault) (s : State) : Host.Outcome State Fault Refusal :=
  atDest a (a.pkt.opcode == opATOMIC) (fun s => serveAtomic s a faults) (fun s => epServe s a) s

/-! ### Closing writes (R137 to R141, R217, R793) -/

/-- The closing writes that a destination holds at once (R140). -/
def closeRoom (s : State) : Part → Bool
  | .zs => decide (s.xp.cw.length < 4096)
  | .ze => decide (s.ep.xp.cw.length < 256)

/-- CLOSING_WRITE. With no room for it, it waits in VC0 of its hop (R140). -/
def execClosingWrite (a : Arrival) (s : State) : Host.Outcome State Fault Refusal :=
  atDest a (a.pkt.opcode == opWRITE && a.pkt.close && closeRoom s a.part) (fun s => serveClosing s a) (fun s => epClosing s a) s

/-- Takes a held closing write out of the books and moves its stream's open epoch on (R217). -/
def closeTaken (x : Xport) (a : Arrival) : Xport :=
  let d := x.dstOf a.pkt.src
  let st := d.streams.getD a.pkt.stream.toNat default
  { x.setDst a.pkt.src { d with streams := d.streams.set a.pkt.stream.toNat (epochMoved st a.pkt.epoch) } with
    cw := x.cw.filter fun c => c.1 != a }

/-- The held closing write of a source and stream that a condition selects. -/
def heldClose (x : Xport) (src : Node) (stream : Byte) (sel : Arrival × Time → Bool) : Option Arrival :=
  (x.cw.find? fun c => decide (c.1.pkt.src = src ∧ c.1.pkt.stream = stream) && sel c).map Prod.fst

/-- CLOSING_WRITE_RELEASE (R217): it lands without a second check (R793). -/
def execClosingWriteRelease (part : Part) (src : Node) (stream : Byte) (s : State) : Host.Outcome State Fault Refusal :=
  match part with
  | .zs => up s fun s =>
    match heldClose s.xp src stream fun c => mayClose s.xp c.1 with
    | none => s
    | some a => settle (resumePacket (s.onXp fun x => closeTaken x a) a a.pkt.region.toNat a.pkt.off [] [] false)
  | .ze => .next <|
    match heldClose s.ep.xp src stream fun c => mayClose s.ep.xp c.1 with
    | none => s
    | some a => atEp s fun s => epRerun (onEpXp s fun x => closeTaken x a) a

/-- CLOSING_WRITE_DISCARD (R141): held for 1 ms. -/
def execClosingWriteDiscard (part : Part) (src : Node) (stream : Byte) (t : Time) (s : State) : Host.Outcome State Fault Refusal :=
  match part with
  | .zs => up s fun s =>
    let s := s.at_ t
    match heldClose s.xp src stream fun c => due s.now c.2 (ms 1) with
    | none => s
    | some a => settle (refuse (s.onXp fun x => closeTaken x a) a stDestLost)
  | .ze =>
    let s := s.epAt t
    .next <|
      match heldClose s.ep.xp src stream fun c => due s.ep.now c.2 (ms 1) with
      | none => s
      | some a => atEp s fun s => epRefuse (onEpXp s fun x => closeTaken x a) a stDestLost

/-! ### Snoops and results (R161, R191, R396) -/

/-- A packet that only an end point takes: a switch discards it (R191). -/
def atEndPoint (a : Arrival) (ok : Bool) (ze : State → State) (s : State) : Host.Outcome State Fault Refusal :=
  match a.part with
  | .zs => up s fun s => consume s a.pkt
  | .ze => .next (if ok ∧ epArrives s a then atEp s ze else s)

/-- SNOOP_INV (R191). -/
def execSnoopInv (a : Arrival) (s : State) : Host.Outcome State Fault Refusal :=
  atEndPoint a (a.pkt.opcode == opSNOOPINV) (fun s => epSnoop s a) s

/-- SNOOP_RECALL (R191). -/
def execSnoopRecall (a : Arrival) (s : State) : Host.Outcome State Fault Refusal :=
  atEndPoint a (a.pkt.opcode == opSNOOPRECALL) (fun s => epSnoop s a) s

/-- REDUCE_RESULT (R396). -/
def execReduceResult (a : Arrival) (s : State) : Host.Outcome State Fault Refusal :=
  atEndPoint a (a.pkt.opcode == opRESULT) (fun s => epResult s a) s

/-- The outstanding snoop that a SNOOP_RESP answers: to the holder on whose down-link it arrived, for the line that
it names. -/
def snoopAnswered (s : State) (a : Arrival) : Option Recall :=
  if a.pkt.crcOk ∧ kindOf s a.port = .down then
    s.coh.recalls.find? fun r => decide (r.holder.val = 2 + (planOf s a.port).index % 32
      ∧ r.region = a.pkt.region.toNat ∧ r.off = a.pkt.off)
  else none

/-- SNOOP_RESP (R160, R191). -/
def execSnoopResp (a : Arrival) (s : State) : Host.Outcome State Fault Refusal :=
  match a.part with
  | .zs => up s fun s =>
    if a.pkt.opcode ≠ opSNOOPRESP then s
    else
      let s := consume s a.pkt
      match snoopAnswered s a with
      | none => s
      | some r => snoopDone s r.line r.holder (fieldAt a.pkt.payload 0 8) (a.pkt.payload.drop 8)
  | .ze => .next s

/-! ### Management messages (R192 to R197, R425, R585, R751) -/

/-- A message that only a switch takes: any other end point's MSG is undefined at a ZE-208. -/
def atSwitch (a : Arrival) (msg : Nat) (zs : State → State) (s : State) : Host.Outcome State Fault Refusal :=
  atDest a (isMsg a msg) zs (fun s => epRefuse s a stFormatUnsupported) s

/-- PARTNER_WRITE (R425). -/
def execPartnerWrite (a : Arrival) (s : State) := atSwitch a 0x90 (fun s => partnerWriteZs s a) s
/-- PARTNER_READ (R425). -/
def execPartnerRead (a : Arrival) (faults : List ReadFault) (s : State) := atSwitch a 0x91 (fun s => partnerReadZs s a faults) s
/-- CAP_SET (R193). -/
def execCapSet (a : Arrival) (s : State) := atSwitch a 0xB0 (fun s => serveCapSet s a) s
/-- GRANT_REQ (R196). -/
def execGrantReq (a : Arrival) (k : Pick) (s : State) := atSwitch a 0xB3 (fun s => grantReqZs s a k) s
/-- PARTNER_FREE (R196). -/
def execPartnerFree (a : Arrival) (s : State) := atSwitch a 0xB5 (fun s => partnerFreeZs s a) s
/-- TABLE_REQ (R197). -/
def execTableReq (a : Arrival) (s : State) := atSwitch a 0xB6 (fun s => serveTableReq s a) s
/-- CARRY_CPL (R198): acknowledged, whether it comes in time or not. -/
def execCarryCpl (a : Arrival) (s : State) : Host.Outcome State Fault Refusal :=
  atSwitch a 0xB2 (fun s => carryCplGot (ackReq s a) a.pkt.payload) s

/-- A message that only a ZE-208 takes. -/
def atZe (a : Arrival) (msg : Nat) (ze : State → State) (s : State) : Host.Outcome State Fault Refusal :=
  atDest a (isMsg a msg) (fun s => refuse s a stFormatUnsupported) ze s

/-- EPC_WRITE (R585). -/
def execEpcWrite (a : Arrival) (s : State) := atZe a 0xA0 (fun s => epcWriteZe s a) s
/-- EPC_READ (R585). -/
def execEpcRead (a : Arrival) (s : State) := atZe a 0xA1 (fun s => epcReadZe s a) s

/-! ### Responses at their source (R202, R209, R225) -/

def atSource (a : Arrival) (ok : Bool) (s : State) : Host.Outcome State Fault Refusal :=
  match a.part with
  | .zs => up s fun s => if ok then settle (zsResponse s a) else s
  | .ze => .next (if ok ∧ epArrives s a then atEp s fun s => epResponse s a else s)

/-- ACK (R202). -/
def execAck (a : Arrival) (s : State) := atSource a (a.pkt.opcode == opACK) s
/-- NACK (R202). -/
def execNack (a : Arrival) (s : State) := atSource a (a.pkt.opcode == opNACK) s
/-- HOLD (R209). -/
def execHold (a : Arrival) (s : State) := atSource a (a.pkt.opcode == opHOLD) s
/-- READ_REPLY (R202). -/
def execReadReply (a : Arrival) (s : State) := atSource a (a.pkt.opcode == opREADREPLY) s
/-- ATOMIC_REPLY (R202). -/
def execAtomicReply (a : Arrival) (s : State) := atSource a (a.pkt.opcode == opATOMICREPLY) s
/-- COUNTER_REPLY (R202). -/
def execCounterReply (a : Arrival) (s : State) := atSource a (a.pkt.opcode == opCOUNTERREPLY) s
/-- PARTNER_DATA (R425). -/
def execPartnerData (a : Arrival) (s : State) := atSource a (isMsg a 0x92) s
/-- EPC_DATA (R585). -/
def execEpcData (a : Arrival) (s : State) := atSource a (isMsg a 0xA2) s
/-- GRANT (R196). -/
def execGrant (a : Arrival) (s : State) := atSource a (isMsg a 0xB4) s
/-- TABLE_DATA (R197, R751). -/
def execTableData (a : Arrival) (s : State) := atSource a (isMsg a 0xB7) s

/-! ### Timers of the destination (R208) -/

/-- A BUSY request whose HOLD is due: 10 µs after its acceptance, then every 100 µs. -/
def holdDue (b : Busy) (now : Time) : Bool :=
  match b.lastHold with
  | none => due now b.accepted (us 10)
  | some h => due now h (us 100)

/-- The BUSY request of a source and a SEQ whose HOLD is due. -/
def busyOf (x : Xport) (src : Node) (seq : BitVec 24) (now : Time) : Option Busy :=
  x.busy.find? fun b => decide (b.arr.pkt.src = src ∧ b.arr.pkt.seq = seq) && holdDue b now

def markHeld (x : Xport) (b : Busy) (now : Time) : Xport :=
  { x with busy := x.busy.map fun c => if c = b then { c with lastHold := some now } else c }

/-- HOLD_TIMER (R208). -/
def execHoldTimer (part : Part) (src : Node) (seq : BitVec 24) (t : Time) (s : State) : Host.Outcome State Fault Refusal :=
  match part with
  | .zs => up s fun s =>
    let s := s.at_ t
    match busyOf s.xp src seq s.now with
    | none => s
    | some b => respond (s.onXp fun x => markHeld x b s.now) (answerQuad s b.arr.port) b.arr.pkt (holdOf s b.arr.pkt)
  | .ze =>
    let s := s.epAt t
    .next <|
      match busyOf s.ep.xp src seq s.ep.now with
      | none => s
      | some b => atEp s fun s => epRespond (onEpXp s fun x => markHeld x b s.ep.now) b.arr (epHold s b.arr.pkt)

/-! ### Timers of the source (R207, R209, R210, R218, R225) -/

/-- RETRANSMIT (R207). -/
def execRetransmit (part : Part) (dst : Node) (seq : BitVec 24) (t : Time) (s : State) : Host.Outcome State Fault Refusal :=
  match part with
  | .zs => up s fun s =>
    let s := s.at_ t
    match (s.xp.opFor dst seq).filter fun o => retransDue o s.now with
    | none => s
    | some o => zsRetransmit s o
  | .ze =>
    let s := s.epAt t
    .next <|
      match (s.ep.xp.opFor dst seq).filter fun o => retransDue o s.ep.now with
      | none => s
      | some o => atEp s fun s => epRetransmit s o

/-- GIVE_UP (R209, R210). -/
def execGiveUp (part : Part) (dst : Node) (seq : BitVec 24) (t : Time) (s : State) : Host.Outcome State Fault Refusal :=
  match part with
  | .zs => up s fun s =>
    let s := s.at_ t
    match (s.xp.opFor dst seq).filter fun o => giveUpDue o s.now with
    | none => s
    | some o => settle (zsGiveUp s o)
  | .ze =>
    let s := s.epAt t
    .next <|
      match (s.ep.xp.opFor dst seq).filter fun o => giveUpDue o s.ep.now with
      | none => s
      | some o => atEp s fun s => epGiveUp s o

/-- RATE_RAISE (R225). -/
def execRateRaise (part : Part) (dst : Node) (t : Time) (s : State) : Host.Outcome State Fault Refusal :=
  match part with
  | .zs => up s fun s =>
    let s := s.at_ t
    pump (s.onXp fun x => rateRaised x dst s.now)
  | .ze =>
    let s := s.epAt t
    Host.Outcome.next (atEp s fun s => onEpXp s fun x => rateRaised x dst s.ep.now)

/-- The epochs of a stream whose wait of R218 is over. -/
def epochsFreed (x : Xport) (now : Time) (dst : Node) (stream : Byte) : Xport :=
  let d := x.srcOf now dst
  let st := d.streams.getD stream.toNat default
  if st.waits.any fun w => decide (w.2 ≤ now) then
    x.setSrc dst { d with streams := d.streams.set stream.toNat { st with waits := st.waits.filter fun w => !decide (w.2 ≤ now) } }
  else x

/-- EPOCH_WAIT_EXPIRE (R218). -/
def execEpochWaitExpire (part : Part) (dst : Node) (stream : Byte) (t : Time) (s : State) : Host.Outcome State Fault Refusal :=
  match part with
  | .zs => up s fun s =>
    let s := s.at_ t
    pump (s.onXp fun x => epochsFreed x s.now dst stream)
  | .ze =>
    let s := s.epAt t
    Host.Outcome.next (atEp s fun s => onEpXp s fun x => epochsFreed x s.ep.now dst stream)

/-! ### GRACE_CLOSE (R88, R568) -/

/-- The grace window of a local range entry closes. -/
def epGraceDue (e : Ep) (i : Nat) (r : EpEntry) : Bool :=
  r.graceOpen && (due e.now r.rotateTime (ms 10) ||
    (due e.now r.rotateTime (us 200) && e.xp.busy.all fun b =>
      b.arr.pkt.region.toNat != i || b.arr.pkt.opcode == opMGMT || b.arr.pkt.opcode == opRESULT
        || decide (Int.ofNat r.rotateTime ≤ extendTime e.now b.arr.pkt.time)))

/-- GRACE_CLOSE (R88). -/
def execGraceClose (part : Part) (region : BitVec 16) (t : Time) (s : State) : Host.Outcome State Fault Refusal :=
  match part with
  | .zs => up s fun s => graceCloseZs s region.toNat t
  | .ze =>
    let s := s.epAt t
    .next <|
      match (s.ep.ranges.get? region.toNat).filter (epGraceDue s.ep region.toNat) with
      | none => s
      | some r => s.onEp fun e => { e with
          ranges := e.ranges.set region.toNat { r with graceOpen := false, prevValid := false } }

end Sys2Proof.Machine
end

