-- ==== Sys2Proof/Machine/Commands.lean ====
section
/-! DEFINITION. The table of ring commands (R106), how they are taken from the rings (R519), activated (R37) and carried
from another switch (R198), and how their DMA reads end (R510). -/

namespace Sys2Proof.Machine

/-- The ring commands. -/
def specs : List CmdSpec :=
  [specNop, specRingBind, specTenantSetOwner, specRegionCreate, specRegionDestroy, specRegionSetRights, specKeyRotate,
   specKeyRevoke, specRegionQuery, specPageIn, specPageOut, specPageFaultClear, specRangeMap, specRangeUnmap,
   specTenantCreate, specTenantSetQuota, specTenantRelease, specTenantQuery] ++
  [specCastPublish, specCounterAlloc, specCounterFree, specCounterSet, specCounterQuery, specMcastSet, specMcastClear,
   specRunnerSet, specRunnerClear, specRouteSet, specScheduleMode, specSwcQuery, specProgramLoad, specProgramStart,
   specProgramPost, specProgramStop, specProgramQuery, specGroupCreate, specGroupDestroy, specGroupRearm, specGroupQuery] ++
  [specPartnerAdopt, specPartnerRelease, specLinkRetrain, specLinkDisable, specEpRangeCreate, specEpRangeDestroy,
   specEpKeyRotate, specEpKeyRevoke, specEpBind, specEpReduceBind, specEpQuery, specStepMark, specMgr 0xA9, specMgr 0xAA,
   specMgr 0xAB, specMgr 0xAC, specTraceCtrl, specTraceDump, specFltQuery] ++
  [specPwrCap, specPwrMode, specSupplyDump, specSupplyCtrl, specAttestReport, specRegionMeasure, specFwUpdate,
   specDebugOpen, specDebugClose, specDebugRead, specDebugWrite, specHkControl, specSecQuery, specFlashWrite, specImagePush]

def specOf (op : Nat) : Option CmdSpec := specs.find? fun c => c.op == op

/-- COMMAND_TAKE (R519, R521): while ring service runs (R35, R716). -/
def execCommandTake (port : Fin 2) (s : State) := up s fun s =>
  if hpPresent s port ∧ ringServed s port then takeCommand s port fun op => (specOf op).isSome else s

/-! ### Carried commands (R194, R198) -/

/-- A carried command begins. -/
def beginCarried (s : State) (f : CarriedIn) : State :=
  let s := s.onHif fun h => { h with carriedIn := h.carriedIn.map fun g => if g = f then { f with begun := true } else g }
  match specOf (Desc.opcode f.desc) with
  | none => complete s f.origin f.desc stFormatUnsupported []
  | some c => runCmd (effectBegins s f.origin) f.origin f.desc f.pick f.order { c with dest := here }

/-- Carried commands begin that have their turn (R108, R272). -/
def carriedInGo : Nat → State → State
  | 0, s => s
  | n + 1, s =>
    match s.hif.carriedIn.find? fun f => !f.begun && turnAt s f.order f.desc with
    | none => s
    | some f => carriedInGo n (beginCarried s f)

/-- A carried command at the switch that executes it, under that switch's own state: it takes its place in the order. -/
def runCarried (s : State) (o : Origin) (d : Desc) (k : Pick) : State :=
  if forManager d then runMgr s o d
  else
    let n := s.rgn.order
    let s := (s.onRgn fun g => { g with order := n + 1 }).onHif fun f => { f with
      carriedIn := f.carriedIn ++ [⟨o, d, k, n, false⟩] }
    carriedInGo s.hif.carriedIn.length s

/-- CARRY_CMD (R194): acknowledged, then executed. -/
def execCarryCmd (a : Arrival) (k : Pick) (s : State) :=
  atSwitch a 0xB1 (fun s =>
    let y := a.pkt.payload
    let o : Origin := .carried a.pkt.src (tagOf (BitVec.ofNat 16 (fieldAt y 2 2))) (BitVec.ofNat 32 (fieldAt y 4 4))
      (Fin.ofNat 2 (fieldAt y 8 1)) (Fin.ofNat 62 (fieldAt y 9 1))
    runCarried (ackReq s a) o (Desc.ofBytes ((y.drop 16).take 64)) k) s

/-! ### DMA reads (R510) -/

/-- The compartment that takes the data of a DMA read does its duty: LOADER in a load's quadrant, UPDATE for a firmware
record (R35, R711). -/
def loaderOn (s : State) (d : Desc) : Bool :=
  if Desc.opcode d = 0x60 then compOn s compLOADER (loadEngine d % 16 / 4)
  else if Desc.opcode d = 0xC2 then homedOn s compUPDATE 1 else true

/-- A DMA read of a command has ended. -/
def dmaGot (s : State) (r : DmaRead) (ok : Bool) (data : List Byte) : State :=
  let op := Desc.opcode r.desc
  if op = 0x26 then
    match s.rgn.pageJobs.find? fun j => !j.out && decide (j.origin = r.origin ∧ j.desc = r.desc) with
    | some j => pageInData s j ok data
    | none => s
  else if op = 0x60 then programLoadGot s r.origin r.desc ok data
  else if op = 0x61 then programStartGot s r.origin r.desc r.pick r.stage r.got ok data
  else if op = 0x70 then groupCreateGot s r.origin r.desc ok data
  else if op = 0xC2 then fwGot s r.origin r.desc ok data
  else if op = 0xC6 then debugGot s r.origin r.desc ok data
  else if op = 0xD0 ∨ op = 0xD1 then imageGot s r.origin r.desc ok data
  else s

/-- A read leaves its port's list, and the next that waits is issued. -/
def dropDma (s : State) (p : Nat) (r : DmaRead) : State :=
  let s := s.onHp p fun h => { h with dma := h.dma.erase r }
  dmaPump (s.hp p).dma.length s p

/-- A DMA read that has left its port's list brings its data. They wait while the compartment that takes them does not
run. -/
def landRead (s : State) (r : DmaRead) (ok : Bool) (data : List Byte) : State :=
  if ok ∧ !loaderOn s r.desc then
    s.onHp (originPort r.origin) fun h => { h with dma := h.dma ++ [{ r with stage := loadWaits, got := data }] }
  else dmaGot s r ok data

/-- The read is the last of a command whose effect needs the data at its activation tick: PROGRAM_LOAD, PROGRAM_START,
GROUP_CREATE. -/
def lastRead (r : DmaRead) : Bool :=
  let op := Desc.opcode r.desc
  op == 0x60 || (op == 0x61 && r.stage == 1) || op == 0x70

/-- A DMA read has been completed: the data of a staged command stand ready for its tick (R37, R402). -/
def readDone (s : State) (r : DmaRead) (ok : Bool) (data : List Byte) : State :=
  if ok ∧ lastRead r ∧ Desc.staged r.desc ∧ s.now < Desc.activate r.desc then
    s.onRgn fun g => { g with
      staged := g.staged ++ [⟨Desc.activate r.desc, orderOf s r.origin, r.origin, r.desc, r.pick, some (r.got, data)⟩] }
  else landRead s r ok data

/-- DMA_READ_COMPLETION (R508, R510). -/
def execDmaReadCompletion (port : Fin 2) (id : Nat) (ok : Bool) (data : List Byte) (s : State) := up s fun s =>
  match (if ioFailed (s.hp port) then none else (s.hp port).dma.find? fun r => r.id == id && dmaOut r) with
  | none => s
  | some r => settle (readDone (dropDma s port r) r ok (padTo r.len data))

/-- DMA_TIMEOUT (R510): no completion within 10 ms. -/
def execDmaTimeout (port : Fin 2) (id : Nat) (t : Time) (s : State) := up s fun s =>
  let s := s.at_ t
  match (s.hp port).dma.find? fun r => r.id == id && dmaOut r && due s.now r.issued (ms 10) with
  | none => s
  | some r => settle (dmaGot (dropDma s port r) r false [])

/-! ### Activation (R37, R108, R271, R517) -/

/-- The effect of a staged command begins, if its checks still pass. -/
def activateOne (s : State) (x : Staged) : State :=
  let s := effectBegins (s.onRgn fun g => { g with staged := g.staged.erase x }) x.origin
  if forManager x.desc then addMgr s x.origin x.desc
  else
    match x.got, specOf (Desc.opcode x.desc) with
    | some (g, bs), _ =>
      if 0x98 ≤ Desc.opcode x.desc ∧ Desc.opcode x.desc ≤ 0x9D then complete s x.origin x.desc stOk bs
      else landRead s ⟨0, 0, 0, s.now, x.origin, x.desc, x.pick, 1, g, true⟩ true bs
    | none, none => s
    | none, some c =>
      match c.chk x.origin x.desc s with
      | some st => complete s x.origin x.desc st (c.info x.origin x.desc st s)
      | none => c.eff x.origin x.desc x.pick s

/-- The staged commands whose tick has come, by their ticks and then by their order. -/
def dueStaged (s : State) : List Staged :=
  (s.rgn.staged.filter fun x => decide (x.time_ ≤ s.now)).mergeSort fun a b =>
    decide (a.time_ < b.time_ ∨ (a.time_ = b.time_ ∧ a.order ≤ b.order))

/-- What is staged at the switch for a tick that has come, and rebuilds not yet reported (R444). -/
def stagedGo (s : State) : State :=
  let s := runnersGo ((dueStaged s).foldl activateOne s)
  rebuildsGo (rowCapsDone (rowCapsGo s.pwr.rowStaged.length s))

/-- STAGED_ACTIVATE (R37): the time bases of both parts reach a tick; the ZE-208's stands until it is locked. Rebuilds
not yet reported are (R444). -/
def execStagedActivate (t : Time) (s : State) := up s fun s =>
  let s := s.reachTick t
  let s := if s.ep.tn.lock = .unlocked then s else s.epReachTick t
  let s := stagedGo s
  settle (atEp (pump (carriedInGo s.hif.carriedIn.length s)) epStagedGo)

/-- Loads and updates whose data wait go on once their compartment runs again. -/
def loadsGo (s : State) : State :=
  (List.range 2).foldl (fun s p =>
    ((s.hp p).dma.filter fun r => r.stage == loadWaits && loaderOn s r.desc).foldl (fun s r =>
      dmaGot (dropDma s p r) r true r.got) s) s

/-! ### The idle tick -/

/-- What an empty queue does: both time bases count one tick, or slew (R599, R601), what is staged for it comes into force, and what
waits for nothing but time or room goes on. DESIGN CHOICE (log entry 1). -/
def idle (s : State) : State :=
  let carried := fun s : State => carriedInGo s.hif.carriedIn.length s
  let s := if s.dev.vio ∧ !s.dev.held then
      settle (carried (loadsGo (pump (drainsGo (verdictsGo (stagedGo (countTick s .zs)) .zs)))))
    else s
  atEp (countTick s .ze) fun s => verdictsGo (epStagedGo s) .ze

end Sys2Proof.Machine
end

