-- ==== Sys2Proof/Machine/Flags.lean ====
section
/-! DEFINITION. The registers of BAR0 (R49 to R56 and the register sections of every chapter): what each holds, computed
from the state, and what a write of each does. -/

namespace Sys2Proof.Machine

/-- A register from its fields: low bit, width, value. -/
def pack (fs : List (Nat × Nat × Nat)) : BitVec 64 :=
  fs.foldl (fun v f => v ||| BitVec.ofNat 64 ((f.2.2 % 2 ^ f.2.1) <<< f.1)) 0

/-- A mask with bit i set for each i below n of which a predicate holds. -/
def bitsWhere (n : Nat) (f : Nat → Bool) : Nat := (((List.range n).filter f).map (2 ^ ·)).sum

/-! ### Values -/

/-- DEV (R53 to R56, R759). -/
def regDev (s : State) (o : Nat) : BitVec 64 :=
  let d := s.dev
  match o with
  | 0x00 => pack [(16, 16, 0x6476), (8, 8, 0xB0)]
  | 0x08 => pack [(20, 4, bitsWhere 4 (coreRuns s)), (16, 4, d.quadUp.toNat), (8, 4, powerState s), (4, 2, debugLevel s),
      (3, 1, b2n s.sec.owned), (2, 1, b2n s.flt.service), (1, 1, b2n d.dawnDone)]
  | 0x10 => pack [(0, 16, d.nodeId.toNat)]
  | 0x18 => d.serial
  | 0x20 => pack [(48, 16, d.elapsed), (32, 16, d.stackFail.toNat), (16, 4, d.quadFail.toNat), (0, 4, d.step)]
  | _ => 0

/-- STATE of a port's host (R537). -/
def hostCode (s : State) (p : Nat) : Nat :=
  if !hostAttached (s.hp p) then 0 else if hostLive s p then 1 else 2

def ringStCode : RingSt → Nat
  | .disabled => 0
  | .enabled => 1
  | .halted => 2

/-- The HIF page of a port (R511, R536 to R541). -/
def regHif (s : State) (p : Fin 2) (o : Nat) : BitVec 64 :=
  let h := s.hp p
  let g := State.ringOf h ((o - 0x10000) / 0x1000)
  if o < 0x1000 then
    match o with
    | 0x08 => pack [(32, 13, (ownedTenants s p).length), (6, 2, hostCode s (1 - p.val)), (4, 2, hostCode s p),
        (2, 1, b2n h.attachErr), (1, 1, b2n (cxlOffered s p)), (0, 1, b2n (ideSecure h))]
    | 0x10 => pack [(28, 36, h.ringBase.toNat)]
    | 0x18 => pack [(0, 32, h.faultCons.toNat)]
    | 0x20 => pack [(0, 32, h.eventCons.toNat)]
    | _ => 0
  else if 0x10000 ≤ o ∧ o < 0x10000 + 62 * 0x1000 then
    match o % 0x1000 with
    | 0x00 => pack [(0, 32, g.prod.toNat)]
    | 0x08 => pack [(0, 32, g.cons.toNat)]
    | 0x10 => pack [(32, 2, g.cause.val), (16, 2, ringStCode g.state), (0, 16, g.binding.toNat)]
    | _ => 0
  else 0

/-- RGN (R111, R112). -/
def regRgn (s : State) (o : Nat) : BitVec 64 :=
  let r := s.rgn
  match o with
  | 0x00 => pack [(17, 24, freeGranules s), (0, 17, r.regions.length)]
  | 0x08 => pack [(48, 16, r.denyKey.toNat), (32, 16, r.denyTenant.toNat), (16, 16, r.denyWrite.toNat),
      (0, 16, r.denyRange.toNat)]
  | _ => 0

/-- XLT (R113). -/
def regXlt (s : State) (o : Nat) : BitVec 64 :=
  match o with
  | 0x00 => pack [(32, 32, s.rgn.faults.toNat), (16, 11, s.rgn.pendingPages.length), (0, 15, s.rgn.ranges.length)]
  | _ => 0

/-- SWC (R274 to R280). -/
def regSwc (s : State) (o : Nat) : BitVec 64 :=
  let c := s.swc
  if o = 0x00 then pack [(40, 7, c.runners.length), (16, 13, c.mcast.length), (1, 1, b2n c.suspended), (0, 1, b2n c.detMode)]
  else if o = 0x08 then pack [(48, 16, c.noroute.toNat), (32, 16, c.mcastDrop.toNat), (16, 16, c.withheld.toNat),
    (0, 16, c.runnerDrop.toNat)]
  else if 0x100 ≤ o ∧ o < 0x200 then
    let q : Fin 4 := Fin.ofNat 4 ((o - 0x100) / 0x40)
    if !quadUp s q ∨ c.limits.isEmpty then 0      -- the reset value, until the image has set the limits (R12)
    else match o % 0x40 with
      | 0x00 => pack [(32, 18, sharedFree s q), (0, 18, cellsFree s q)]
      | 0x08 => pack [(0, 18, c.low.getD q quadCells)]
      | _ => 0
  else if 0x10000 ≤ o ∧ o < 0x11000 then
    let p := (o - 0x10000) / 0x40
    let f := fcOf s p
    if !quadUp s (p / 16) then 0
    else match o % 0x40 with
      | 0x00 => pack [(32, 32, f.xoffSent.toNat), (0, 32, f.ceMarks.toNat)]
      | 0x08 => pack [(8, 8, f.xoffRx.toNat), (0, 8, f.xoffTx.toNat)]
      | 0x10 => f.tx
      | 0x18 => f.rx
      | _ => 0
  else 0

/-- LNK (R488 to R495). -/
def regLnk (s : State) (o : Nat) : BitVec 64 :=
  let ports := fun f : Nat → Bool => pack [(0, 64, bitsWhere 64 fun p => quadUp s (p / 16) && f p)]
  if o = 0x00 then ports (portUp s)
  else if o = 0x08 then ports fun p => (linkOf s p).outSince
  else if o = 0x10 then ports fun p => (linkOf s p).sleepTx
  else if o = 0x18 then ports fun p => (linkOf s p).sleepRx
  else if 0x100000 ≤ o ∧ o < 0x140000 then
    let p := (o - 0x100000) / 0x1000
    let l := linkOf s p
    if !quadUp s (p / 16) then 0
    else match o % 0x1000 with
      | 0x00 => pack [(32, 8, (s.cfg.lanes.getD (4 * p) 0).toNat), (12, 10, l.delay), (11, 1, b2n (decide (l.delay > 140))),
          (8, 3, l.attempts), (4, 4, l.cause.toNat), (0, 4, l.state.toNat)]
      | 0x08 => l.far.serial
      | 0x10 => pack [(32, 16, l.far.node.toNat), (16, 16, l.far.part.toNat), (8, 8, l.far.stepping.toNat),
          (0, 8, l.far.port.toNat)]
      | 0x18 => pack [(32, 32, l.replays.toNat), (0, 32, l.lcrcFail.toNat)]
      | 0x20 => pack [(1, 1, b2n l.searchOwner), (0, 1, b2n l.sleepDisable)]
      | _ => 0
  else if 0x200000 ≤ o ∧ o < 0x210000 then
    let n : Fin 256 := Fin.ofNat 256 ((o - 0x200000) / 0x100)
    let a := laneOf s n
    if quadUp s (n.val / 64) ∧ o % 0x100 = 0 then
      pack [(10, 1, b2n a.polarity), (9, 1, b2n a.lock), (0, 8, a.position)] else 0
  else 0

/-- CRU (R332 to R338). -/
def regCru (s : State) (o : Nat) : BitVec 64 :=
  if o = 0x00 then
    pack [(32, 16, bitsWhere 16 fun e => engineUp s e && paused s e), (16, 16, bitsWhere 16 (engineUp s)),
      (0, 9, (s.cru.progs.filter fun x => progHolds x.2).length)]
  else if 0x100000 ≤ o ∧ o < 0x200000 then
    let e := (o - 0x100000) / 0x10000
    let x := engineOf s e
    if !engineUp s e then 0
    else match o % 0x10000 with
      | 0x00 => pack [(40, 5, shareFree s e), (32, 7, accumsFree s e), (24, 8, scratchFree s e), (16, 5, groupsFree s e),
          (0, 13, outFree s e)]
      | 0x08 => pack [(32, 1, b2n (paused s e)), (16, 13, x.gather), (0, 5, x.duty)]
      | 0x10 => pack [(0, 4, x.weight)]
      | 0x18 => pack [(0, 64, x.busy)]
      | 0x20 => pack [(0, 64, x.lines)]
      | 0x28 => pack [(48, 16, x.capShed.toNat), (32, 16, x.faulted.toNat), (0, 32, x.completed.toNat)]
      | _ => 0
  else 0

/-- COL (R407 to R411). -/
def regCol (s : State) (o : Nat) : BitVec 64 :=
  let c := s.col
  if o = 0x00 then pack [(16, 11, (c.groups.filter fun e => e.2.state == .broken).length), (0, 11, c.groups.length)]
  else if o = 0x08 then pack [(48, 16, c.nackKey.toNat), (32, 16, c.nackMember.toNat), (16, 16, c.nackRange.toNat),
    (0, 16, c.nackDup.toNat)]
  else if o = 0x10 then pack [(53, 8, c.evQuench), (45, 8, c.evCorrected), (30, 15, c.evRecall), (15, 15, c.evRetx),
    (0, 15, c.evReplay)]
  else if 0x100 ≤ o ∧ o < 0x200 then
    let q := (o - 0x100) / 0x40
    if !quadUp s q then 0
    else match o % 0x40 with
      | 0x00 => pack [(32, 11, (c.groups.filter fun e => e.2.quad.val == q).length), (0, 26, storeLeft s q)]
      | 0x08 => pack [(0, 64, c.addends.getD q 0)]
      | _ => 0
  else 0

/-- TIM (R636 to R638). -/
def regTim (s : State) (o : Nat) : BitVec 64 :=
  let n := s.flt.tn
  if o = 0x00 then pack [(0, 64, s.now)]
  else if o = 0x08 then pack [(40, 8, n.parent.getD 0xFF), (32, 8, n.depth), (16, 16, (n.offset % 65536).toNat),
    (0, 2, match n.lock with
      | .unlocked => 0
      | .locked => 1
      | .holdover => 2)]
  else if 0x100 ≤ o ∧ o < 0x200 ∧ o % 0x40 = 0 then
    let q := (o - 0x100) / 0x40
    let t := traceOf s q
    if quadUp s q then pack [(32, 16, t.lost), (31, 1, b2n (decide (t.entries.length ≥ traceEntries) && !s.flt.tWrap)),
      (0, 17, t.entries.length)] else 0
  else 0

/-- FLT (R639 to R642). -/
def regFlt (s : State) (o : Nat) : BitVec 64 :=
  let c := s.flt
  let sb := standby c.tn s.now
  match o with
  | 0x00 => pack [(48, 16, c.tn.manager.toNat), (32, 16, sb.toNat),
      (6, 2, if c.role then 1 else if sb = s.dev.nodeId ∧ sb ≠ 0 then 2 else 0), (5, 1, b2n (quorumKnown s .zs)),
      (4, 1, b2n (electingHeard c.tn))]
  | 0x08 => pack [(32, 32, c.verdictsN.toNat), (0, 32, c.tn.term)]
  | 0x10 => pack [(48, 16, c.late.toNat), (32, 16, c.reportsN.toNat), (16, 16, c.probesN.toNat), (0, 16, c.giveups.toNat)]
  | 0x18 => pack [(32, 9, c.spares.length), (16, 9, Nat.min 256 c.remap.length), (0, 13, (c.remap.filter fun e => e.2.st != 1).length)]
  | _ => 0

/-- The lowest reading of a quadrant's sensors in the last window. -/
def quadLow (s : State) (q : Nat) : Nat :=
  match (List.range 16).map fun i => s.pwr.readings.getD (16 * q + i) 0 with
  | [] => 0
  | a :: l => l.foldl Nat.min a

/-- PWR (R678 to R683). -/
def regPwr (s : State) (o : Nat) : BitVec 64 :=
  let p := s.pwr
  if o = 0x00 then
    pack [(44, 10, estimateW s), (36, 8, floorOf s), (26, 10, capInForce s), (8, 1, b2n p.vrSilent), (7, 1, b2n p.pfw),
      (6, 1, b2n p.tripped), (5, 1, b2n (decide (p.thermal < 600))), (4, 1, b2n p.unmet), (3, 1, b2n p.fixedLeft),
      (2, 1, b2n p.fixed)]
  else if o = 0x08 then pack [(48, 10, p.thermal), (32, 10, p.row), (16, 10, p.host), (0, 16, p.unmetN.toNat)]
  else if o = 0x10 then pack [(32, 16, p.measured), (16, 10, p.setpoint), (0, 10, p.vmax)]
  else if o = 0x18 then pack [(48, 12, quadLow s 3), (36, 12, quadLow s 2), (24, 12, quadLow s 1), (12, 12, quadLow s 0),
    (0, 12, p.rate)]
  else if o = 0x20 then pack [(32, 32, p.total.toNat), (16, 10, p.next), (0, 6, p.thresh)]
  else if 0x100 ≤ o ∧ o < 0x200 ∧ o % 0x40 = 0 then
    let q := (o - 0x100) / 0x40
    if quadUp s q then pack [(8, 8, p.qpeak.getD q 0), (0, 8, p.qtemp.getD q 0)] else 0
  else 0

/-- SEC (R728, R729). -/
def regSec (s : State) (o : Nat) : BitVec 64 :=
  let c := s.sec
  match o with
  | 0x00 => pack [(32, 32, c.reportsN.toNat), (16, 4, c.cause), (8, 4, c.queue.length),
      (2, 1, b2n (s.rgn.tenants.any fun e => e.2.state == .releasing)), (1, 1, b2n c.keyReady), (0, 1, b2n c.owned)]
  | 0x08 => pack [(32, 32, c.fwVersion), (16, 16, c.updates), (2, 11, c.measures.length),
      (0, 2, match c.update with
        | none => 0
        | some u => if u.step < 3 then 1 else 2)]
  | _ => 0

/-- MEM (R445 to R450). -/
def regMem (s : State) (o : Nat) : BitVec 64 :=
  let up := (List.range 16).filter (stackUp s)
  if o = 0x00 then
    pack [(32, 17, (s.rgn.regions.filter fun e => degraded s e.2).length), (16, 16, bitsWhere 16 fun k => (s.stack k).lost),
      (0, 16, bitsWhere 16 (stackUp s))]
  else if o = 0x08 then
    pack [(8, 32, match up.map fun k => (s.stack k).passes with
      | [] => 0
      | a :: l => l.foldl Nat.min a), (0, 5, s.pool.passHours)]
  else if o = 0x10 then
    pack [(16, 11, (s.pool.copies.filter PartnerCopy.orphaned).length), (0, 11, s.pool.copies.length)]
  else if 0x100000 ≤ o ∧ o < 0x110000 then
    let k := (o - 0x100000) / 0x1000
    let t := s.stack k
    if !quadUp s (k / 4) then 0
    else match o % 0x1000 with
      | 0x00 => pack [(48, 16, t.reread.toNat), (32, 16, t.rebuilt.toNat), (16, 16, t.poisoned.toNat), (0, 16, t.tag.toNat)]
      | 0x08 => pack [(48, 16, t.diverged.toNat), (0, 20, t.granules)]
      | 0x10 => pack [(8, 2, t.refresh.val), (0, 8, t.temp)]
      | _ => 0
  else 0

/-- DBG (R730 to R732). The program counter is sampled at the read: a free value. -/
def regDbg (s : State) (o : Nat) : BitVec 64 :=
  let c := s.sec
  if o = 0x00 then
    pack [(20, 4, bitsWhere 4 fun n => (coreOf s n).halted), (16, 4, bitsWhere 4 c.sessions.has), (5, 1, b2n c.histD2),
      (4, 1, b2n c.histD1), (0, 2, debugLevel s)]
  else if 0x100 ≤ o ∧ o < 0x200 then
    let n := (o - 0x100) / 0x40
    let x := coreOf s n
    if !quadUp s n then 0
    else match o % 0x40 with
      | 0x00 => pack [(48, 16, x.restarts.toNat), (32, 16, x.compRestarts.toNat), (24, 1, b2n x.held), (16, 8, x.heldComps.toNat),
          (0, 8, bitsWhere 8 fun k => compPlaced s k n && !x.heldComps.getLsbD k)]
      | 0x08 => if debugLevel s = 0 then 0 else Config.hkPc n s.now
      | _ => 0
  else 0

/-- The 64-bit register at a BAR0 offset, as a port reads it; an offset at which no register is defined reads 0 (R50), and so
do the registers of a quadrant out of service (R52). -/
def regRead (s : State) (p : Fin 2) (off : Nat) : BitVec 64 :=
  if off < 0x10000 then regDev s off
  else if off < 0x100000 then regHif s p (off - 0x10000)
  else if off < 0x400000 then regRgn s (off - 0x100000)
  else if off < 0x800000 then regXlt s (off - 0x400000)
  else if off < 0x1000000 then regSwc s (off - 0x800000)
  else if off < 0x2000000 then regLnk s (off - 0x1000000)
  else if off < 0x4000000 then regCru s (off - 0x2000000)
  else if off < 0x5000000 then regCol s (off - 0x4000000)
  else if off < 0x6000000 then regTim s (off - 0x5000000)
  else if off < 0x7000000 then regFlt s (off - 0x6000000)
  else if off < 0x8000000 then regPwr s (off - 0x7000000)
  else if off < 0x9000000 then regSec s (off - 0x8000000)
  else if off < 0xA000000 then regMem s (off - 0x9000000)
  else regDbg s (off - 0xA000000)

/-! ### Writes -/

/-- An access of R51: naturally aligned, of 4 or 8 bytes. -/
def accessOk (off size : Nat) : Bool := decide ((size = 4 ∨ size = 8) ∧ off % size = 0)

/-- What a write of HIF_HOST_CTRL does: DETACH, ATTACH and HEARTBEAT, in that order (R536). -/
def writeHostCtrl (s : State) (p : Nat) (v : BitVec 64) : State :=
  let s := if v.getLsbD 2 then detachHost s p else s
  let s := if v.getLsbD 1 then attachHost s p else s
  if v.getLsbD 0 then beatHost s p else s

/-- A write of the HIF page; `lo` says whether bits 31:0 are written. The ring base is ignored while the host is
ATTACHED (R538). -/
def writeHif (s : State) (p : Fin 2) (o : Nat) (v : BitVec 64) (lo hi : Bool) : State :=
  let n := (o - 0x10000) / 0x1000
  if o = 0x00 then if lo then writeHostCtrl s p v else s
  else if o = 0x10 then
    if hostAttached (s.hp p) then s
    else
      let old := regHif s p 0x10
      let w := pack [(0, 32, (if lo then v else old).toNat), (32, 32, (if hi then v else old).toNat / 2 ^ 32)]
      s.onHp p fun h => { h with ringBase := (w >>> 28).setWidth 36 }
  else if !lo then s
  else if o = 0x18 then faultConsWrite s p (v.setWidth 32)
  else if o = 0x20 then eventConsWrite s p (v.setWidth 32)
  else if 0x10000 ≤ o ∧ n < 62 then
    if o % 0x1000 = 0x00 then cmdProd s p n (v.setWidth 32)
    else if o % 0x1000 = 0x08 then cplCons s p n (v.setWidth 32) else s
  else s

/-- A write of a register outside HIF: the fields that can be written are RW, WO and W1 ones; RO and RSVD fields ignore
it (R10), and so does a quadrant out of service (R52). -/
def writeReg (s : State) (off : Nat) (v : BitVec 64) (lo hi : Bool) : State :=
  if 0x800100 ≤ off ∧ off < 0x800200 ∧ off % 0x40 = 0x08 then
    if hi ∧ v.getLsbD 63 then restartLow s (Fin.ofNat 4 ((off - 0x800100) / 0x40)) else s
  else if off = 0x4000010 then if hi ∧ v.getLsbD 63 then restartEvents s else s
  else if 0x1100000 ≤ off ∧ off < 0x1140000 ∧ off % 0x1000 = 0x20 then
    let p : Fin 64 := Fin.ofNat 64 ((off - 0x1100000) / 0x1000)
    if lo ∧ quadUp s (p.val / 16) then writePortCtrl s p (v.getLsbD 0) (v.getLsbD 1) else s
  else if 0x1200000 ≤ off ∧ off < 0x1210000 ∧ off % 0x100 = 0 then
    let n : Fin 256 := Fin.ofNat 256 ((off - 0x1200000) / 0x100)
    if hi ∧ v.getLsbD 63 then slipWrite s [n] true else s
  else s

/-- REGISTER_WRITE (R10, R50 to R52): the write of one aligned access. -/
def execRegisterWrite (host : Fin 2) (offset : BitVec 28) (size8 : Bool) (value : BitVec 64) (s : State) := up s fun s =>
  throughPort s host fun s =>
    let o := offset.toNat
    if !accessOk o (if size8 then 8 else 4) then s.emit (.completerAbort host offset)
    else
      let upper := decide (o % 8 = 4)
      let v := if size8 then value else if upper then (value.setWidth 32).setWidth 64 <<< 32 else (value.setWidth 32).setWidth 64
      let base := o / 8 * 8
      if 0x10000 ≤ o ∧ o < 0x100000 then writeHif s host (base - 0x10000) v (size8 || !upper) (size8 || upper)
      else writeReg s base v (size8 || !upper) (size8 || upper)

/-- BAR0_BAD_ACCESS (R51): Completer Abort; write data are discarded. -/
def execBar0BadAccess (host : Fin 2) (offset : BitVec 28) (size : Nat) (_isWrite : Bool) (s : State) := up s fun s =>
  throughPort s host fun s => if accessOk offset.toNat size then s else s.emit (.completerAbort host offset)

end Sys2Proof.Machine
end

