-- ==== Sys2Proof/Machine/Dispatch.lean ====
section
/-! DEFINITION. One arm for each command: a direct call of its meaning. -/

namespace Sys2Proof.Machine

open Sys2Proof

def exec (i : Instr) (s : State) : Host.Outcome State Fault Refusal :=
  match i with
  | .regionCreate r d k => Sys2Proof.Machine.execRegionCreate r d k s
  | .regionDestroy r d => Sys2Proof.Machine.execRegionDestroy r d s
  | .regionSetRights r d => Sys2Proof.Machine.execRegionSetRights r d s
  | .keyRotate r d => Sys2Proof.Machine.execKeyRotate r d s
  | .keyRevoke r d => Sys2Proof.Machine.execKeyRevoke r d s
  | .regionQuery r d => Sys2Proof.Machine.execRegionQuery r d s
  | .pageIn r d => Sys2Proof.Machine.execPageIn r d s
  | .pageOut r d k => Sys2Proof.Machine.execPageOut r d k s
  | .pageFaultClear r d => Sys2Proof.Machine.execPageFaultClear r d s
  | .rangeMap r d => Sys2Proof.Machine.execRangeMap r d s
  | .rangeUnmap r d => Sys2Proof.Machine.execRangeUnmap r d s
  | .tenantCreate r d => Sys2Proof.Machine.execTenantCreate r d s
  | .tenantSetQuota r d => Sys2Proof.Machine.execTenantSetQuota r d s
  | .tenantRelease r d => Sys2Proof.Machine.execTenantRelease r d s
  | .tenantQuery r d => Sys2Proof.Machine.execTenantQuery r d s
  | .counterAlloc r d => Sys2Proof.Machine.execCounterAlloc r d s
  | .counterFree r d => Sys2Proof.Machine.execCounterFree r d s
  | .counterSet r d => Sys2Proof.Machine.execCounterSet r d s
  | .counterQuery r d => Sys2Proof.Machine.execCounterQuery r d s
  | .castPublish r d => Sys2Proof.Machine.execCastPublish r d s
  | .castCopyDone region t faults => Sys2Proof.Machine.execCastCopyDone region t faults s
  | .mcastSet r d => Sys2Proof.Machine.execMcastSet r d s
  | .mcastClear r d => Sys2Proof.Machine.execMcastClear r d s
  | .runnerSet r d => Sys2Proof.Machine.execRunnerSet r d s
  | .runnerClear r d => Sys2Proof.Machine.execRunnerClear r d s
  | .routeSet r d => Sys2Proof.Machine.execRouteSet r d s
  | .scheduleMode r d => Sys2Proof.Machine.execScheduleMode r d s
  | .swcQuery r d => Sys2Proof.Machine.execSwcQuery r d s
  | .programLoad r d => Sys2Proof.Machine.execProgramLoad r d s
  | .programStart r d => Sys2Proof.Machine.execProgramStart r d s
  | .programPost r d => Sys2Proof.Machine.execProgramPost r d s
  | .programStop r d => Sys2Proof.Machine.execProgramStop r d s
  | .programQuery r d => Sys2Proof.Machine.execProgramQuery r d s
  | .groupCreate r d => Sys2Proof.Machine.execGroupCreate r d s
  | .groupDestroy r d => Sys2Proof.Machine.execGroupDestroy r d s
  | .groupRearm r d => Sys2Proof.Machine.execGroupRearm r d s
  | .groupQuery r d => Sys2Proof.Machine.execGroupQuery r d s
  | .partnerAdopt r d k => Sys2Proof.Machine.execPartnerAdopt r d k s
  | .partnerRelease r d => Sys2Proof.Machine.execPartnerRelease r d s
  | .linkRetrain r d => Sys2Proof.Machine.execLinkRetrain r d s
  | .linkDisable r d => Sys2Proof.Machine.execLinkDisable r d s
  | .nop r d => Sys2Proof.Machine.execNop r d s
  | .ringBind r d => Sys2Proof.Machine.execRingBind r d s
  | .tenantSetOwner r d => Sys2Proof.Machine.execTenantSetOwner r d s
  | .epRangeCreate r d => Sys2Proof.Machine.execEpRangeCreate r d s
  | .epRangeDestroy r d => Sys2Proof.Machine.execEpRangeDestroy r d s
  | .epKeyRotate r d => Sys2Proof.Machine.execEpKeyRotate r d s
  | .epKeyRevoke r d => Sys2Proof.Machine.execEpKeyRevoke r d s
  | .epBind r d => Sys2Proof.Machine.execEpBind r d s
  | .epReduceBind r d => Sys2Proof.Machine.execEpReduceBind r d s
  | .epQuery r d => Sys2Proof.Machine.execEpQuery r d s
  | .stepMark r d => Sys2Proof.Machine.execStepMark r d s
  | .modeSet r d => Sys2Proof.Machine.execModeSet r d s
  | .spareSet r d => Sys2Proof.Machine.execSpareSet r d s
  | .dusk r d => Sys2Proof.Machine.execDusk r d s
  | .rejoin r d => Sys2Proof.Machine.execRejoin r d s
  | .traceCtrl r d => Sys2Proof.Machine.execTraceCtrl r d s
  | .traceDump r d => Sys2Proof.Machine.execTraceDump r d s
  | .fltQuery r d => Sys2Proof.Machine.execFltQuery r d s
  | .pwrCap r d => Sys2Proof.Machine.execPwrCap r d s
  | .pwrMode r d => Sys2Proof.Machine.execPwrMode r d s
  | .supplyDump r d => Sys2Proof.Machine.execSupplyDump r d s
  | .supplyCtrl r d => Sys2Proof.Machine.execSupplyCtrl r d s
  | .attestReport r d => Sys2Proof.Machine.execAttestReport r d s
  | .regionMeasure r d => Sys2Proof.Machine.execRegionMeasure r d s
  | .fwUpdate r d => Sys2Proof.Machine.execFwUpdate r d s
  | .debugOpen r d => Sys2Proof.Machine.execDebugOpen r d s
  | .debugClose r d => Sys2Proof.Machine.execDebugClose r d s
  | .debugRead r d => Sys2Proof.Machine.execDebugRead r d s
  | .debugWrite r d => Sys2Proof.Machine.execDebugWrite r d s
  | .hkControl r d => Sys2Proof.Machine.execHkControl r d s
  | .secQuery r d => Sys2Proof.Machine.execSecQuery r d s
  | .flashWrite r d => Sys2Proof.Machine.execFlashWrite r d s
  | .imagePush r d => Sys2Proof.Machine.execImagePush r d s
  | .stagedActivate t => Sys2Proof.Machine.execStagedActivate t s
  | .hifCmdProd port ring index => Sys2Proof.Machine.execHifCmdProd port ring index s
  | .commandTake port => Sys2Proof.Machine.execCommandTake port s
  | .hifCplCons port ring index => Sys2Proof.Machine.execHifCplCons port ring index s
  | .hifFaultCons port index => Sys2Proof.Machine.execHifFaultCons port index s
  | .hifEventCons port index => Sys2Proof.Machine.execHifEventCons port index s
  | .attach port => Sys2Proof.Machine.execAttach port s
  | .detach port => Sys2Proof.Machine.execDetach port s
  | .heartbeat port => Sys2Proof.Machine.execHeartbeat port s
  | .hostSilent port t => Sys2Proof.Machine.execHostSilent port t s
  | .ownershipMove from_ t => Sys2Proof.Machine.execOwnershipMove from_ t s
  | .noHostLive port t => Sys2Proof.Machine.execNoHostLive port t s
  | .parkedRetry port => Sys2Proof.Machine.execParkedRetry port s
  | .msiXHoldoff port vector t => Sys2Proof.Machine.execMsiXHoldoff port vector t s
  | .dmaTimeout port id t => Sys2Proof.Machine.execDmaTimeout port id t s
  | .swcQbufLowRestart quad => Sys2Proof.Machine.execSwcQbufLowRestart quad s
  | .colDetEventsRestart => Sys2Proof.Machine.execColDetEventsRestart s
  | .slip lanes byHost => Sys2Proof.Machine.execSlip lanes byHost s
  | .sleepDisable port => Sys2Proof.Machine.execSleepDisable port s
  | .registerWrite host offset size8 value => Sys2Proof.Machine.execRegisterWrite host offset size8 value s
  | .bar0BadAccess host offset size isWrite => Sys2Proof.Machine.execBar0BadAccess host offset size isWrite s
  | .hdmDecoderCommit port decoder base size ways => Sys2Proof.Machine.execHdmDecoderCommit port decoder base size ways s
  | .memrd port addr mv faults => Sys2Proof.Machine.execMemrd port addr mv faults s
  | .memwr port addr data => Sys2Proof.Machine.execMemwr port addr data s
  | .memwrptl port addr mask data => Sys2Proof.Machine.execMemwrptl port addr mask data s
  | .bisnpResponse port line data => Sys2Proof.Machine.execBisnpResponse port line data s
  | .bisnpTimeout port line t => Sys2Proof.Machine.execBisnpTimeout port line t s
  | .hostLost port => Sys2Proof.Machine.execHostLost port s
  | .hostLinkDown port => Sys2Proof.Machine.execHostLinkDown port s
  | .identifyMemoryDevice port => Sys2Proof.Machine.execIdentifyMemoryDevice port s
  | .getSupportedLogs port => Sys2Proof.Machine.execGetSupportedLogs port s
  | .getLog port => Sys2Proof.Machine.execGetLog port s
  | .getHealthInfo port => Sys2Proof.Machine.execGetHealthInfo port s
  | .getEventRecords port => Sys2Proof.Machine.execGetEventRecords port s
  | .clearEventRecords port => Sys2Proof.Machine.execClearEventRecords port s
  | .mailboxUnsupported port opcode => Sys2Proof.Machine.execMailboxUnsupported port opcode s
  | .kSetGo port stream => Sys2Proof.Machine.execKSetGo port stream s
  | .ideKmKeyProg port stream set key => Sys2Proof.Machine.execIdeKmKeyProg port stream set key s
  | .ideCheckFailed port stream => Sys2Proof.Machine.execIdeCheckFailed port stream s
  | .read a faults => Sys2Proof.Machine.execRead a faults s
  | .readOwn a faults => Sys2Proof.Machine.execReadOwn a faults s
  | .counterRead a => Sys2Proof.Machine.execCounterRead a s
  | .write a => Sys2Proof.Machine.execWrite a s
  | .closingWrite a => Sys2Proof.Machine.execClosingWrite a s
  | .closingWriteRelease part src stream => Sys2Proof.Machine.execClosingWriteRelease part src stream s
  | .closingWriteDiscard part src stream t => Sys2Proof.Machine.execClosingWriteDiscard part src stream t s
  | .store a => Sys2Proof.Machine.execStore a s
  | .writeback a => Sys2Proof.Machine.execWriteback a s
  | .atomic a faults => Sys2Proof.Machine.execAtomic a faults s
  | .snoopInv a => Sys2Proof.Machine.execSnoopInv a s
  | .snoopRecall a => Sys2Proof.Machine.execSnoopRecall a s
  | .snoopResp a => Sys2Proof.Machine.execSnoopResp a s
  | .reduceContrib a => Sys2Proof.Machine.execReduceContrib a s
  | .resultFormed group => Sys2Proof.Machine.execResultFormed group s
  | .reduceResult a => Sys2Proof.Machine.execReduceResult a s
  | .resultRetransmit group g rank t => Sys2Proof.Machine.execResultRetransmit group g rank t s
  | .contribProbe binding t => Sys2Proof.Machine.execContribProbe binding t s
  | .partnerWrite a => Sys2Proof.Machine.execPartnerWrite a s
  | .partnerRead a faults => Sys2Proof.Machine.execPartnerRead a faults s
  | .partnerData a => Sys2Proof.Machine.execPartnerData a s
  | .epcWrite a => Sys2Proof.Machine.execEpcWrite a s
  | .epcRead a => Sys2Proof.Machine.execEpcRead a s
  | .epcData a => Sys2Proof.Machine.execEpcData a s
  | .capSet a => Sys2Proof.Machine.execCapSet a s
  | .carryCmd a k => Sys2Proof.Machine.execCarryCmd a k s
  | .carryCpl a => Sys2Proof.Machine.execCarryCpl a s
  | .carryTimeout id t => Sys2Proof.Machine.execCarryTimeout id t s
  | .grantReq a k => Sys2Proof.Machine.execGrantReq a k s
  | .grant a => Sys2Proof.Machine.execGrant a s
  | .partnerFree a => Sys2Proof.Machine.execPartnerFree a s
  | .tableReq a => Sys2Proof.Machine.execTableReq a s
  | .tableData a => Sys2Proof.Machine.execTableData a s
  | .ack a => Sys2Proof.Machine.execAck a s
  | .nack a => Sys2Proof.Machine.execNack a s
  | .hold a => Sys2Proof.Machine.execHold a s
  | .readReply a => Sys2Proof.Machine.execReadReply a s
  | .atomicReply a => Sys2Proof.Machine.execAtomicReply a s
  | .counterReply a => Sys2Proof.Machine.execCounterReply a s
  | .holdTimer part src seq t => Sys2Proof.Machine.execHoldTimer part src seq t s
  | .retransmit part dst seq t => Sys2Proof.Machine.execRetransmit part dst seq t s
  | .giveUp part dst seq t => Sys2Proof.Machine.execGiveUp part dst seq t s
  | .rateRaise part dst t => Sys2Proof.Machine.execRateRaise part dst t s
  | .graceClose part region t => Sys2Proof.Machine.execGraceClose part region t s
  | .rebuildWriteback line => Sys2Proof.Machine.execRebuildWriteback line s
  | .packetForward port vc pkt => Sys2Proof.Machine.execPacketForward port vc pkt s
  | .voqEnqueue port vc => Sys2Proof.Machine.execVoqEnqueue port vc s
  | .multicastForward port pkt => Sys2Proof.Machine.execMulticastForward port pkt s
  | .runnerBurst port flits t => Sys2Proof.Machine.execRunnerBurst port flits t s
  | .runnerRestore t => Sys2Proof.Machine.execRunnerRestore t s
  | .egressFlitSend port t => Sys2Proof.Machine.execEgressFlitSend port t s
  | .relay port pkt => Sys2Proof.Machine.execRelay port pkt s
  | .flitReceive at_ f => Sys2Proof.Machine.execFlitReceive at_ f s
  | .replay port t => Sys2Proof.Machine.execReplay port t s
  | .receiverWaitTimeout port t => Sys2Proof.Machine.execReceiverWaitTimeout port t s
  | .linkFail port cause => Sys2Proof.Machine.execLinkFail port cause s
  | .lossOfSignal port t => Sys2Proof.Machine.execLossOfSignal port t s
  | .markerLock lane seen inverted => Sys2Proof.Machine.execMarkerLock lane seen inverted s
  | .linkSearchStep port => Sys2Proof.Machine.execLinkSearchStep port s
  | .linkBringupStep port res => Sys2Proof.Machine.execLinkBringupStep port res s
  | .idExchange port far => Sys2Proof.Machine.execIdExchange port far s
  | .ping port stamp turnaround => Sys2Proof.Machine.execPing port stamp turnaround s
  | .echo port departed arrived turnaround => Sys2Proof.Machine.execEcho port departed arrived turnaround s
  | .sleepEnter port t => Sys2Proof.Machine.execSleepEnter port t s
  | .sleepWake port => Sys2Proof.Machine.execSleepWake port s
  | .opRead q => Sys2Proof.Machine.execOpRead q s
  | .opWrite q => Sys2Proof.Machine.execOpWrite q s
  | .opAtomic q => Sys2Proof.Machine.execOpAtomic q s
  | .opFence q => Sys2Proof.Machine.execOpFence q s
  | .opFlush q => Sys2Proof.Machine.execOpFlush q s
  | .opInval q => Sys2Proof.Machine.execOpInval q s
  | .opCounterRead q => Sys2Proof.Machine.execOpCounterRead q s
  | .copyOut c => Sys2Proof.Machine.execCopyOut c s
  | .copyIn c => Sys2Proof.Machine.execCopyIn c s
  | .contrib c => Sys2Proof.Machine.execContrib c s
  | .tileFence c => Sys2Proof.Machine.execTileFence c s
  | .prodDoorbell n prod slots => Sys2Proof.Machine.execProdDoorbell n prod slots s
  | .abortDoorbell n target tag => Sys2Proof.Machine.execAbortDoorbell n target tag s
  | .winRd offset tag => Sys2Proof.Machine.execWinRd offset tag s
  | .winCounterWrite k value => Sys2Proof.Machine.execWinCounterWrite k value s
  | .mrdCpl tag ok data => Sys2Proof.Machine.execMrdCpl tag ok data s
  | .mwrCpl tag ok => Sys2Proof.Machine.execMwrCpl tag ok s
  | .d2dTimeout tag t => Sys2Proof.Machine.execD2dTimeout tag t s
  | .avoidanceExpire dst t => Sys2Proof.Machine.execAvoidanceExpire dst t s
  | .portEnable on override_ regs => Sys2Proof.Machine.execPortEnable on override_ regs s
  | .epConfigure node inc locked => Sys2Proof.Machine.execEpConfigure node inc locked s
  | .ep0LinkLoss => Sys2Proof.Machine.execEp0LinkLoss s
  | .epConfigLoss => Sys2Proof.Machine.execEpConfigLoss s
  | .epThermalTrip temp => Sys2Proof.Machine.execEpThermalTrip temp s
  | .add g => Sys2Proof.Machine.execAdd g s
  | .sub g => Sys2Proof.Machine.execSub g s
  | .mul g => Sys2Proof.Machine.execMul g s
  | .and g => Sys2Proof.Machine.execAnd g s
  | .or g => Sys2Proof.Machine.execOr g s
  | .xor g => Sys2Proof.Machine.execXor g s
  | .shl g => Sys2Proof.Machine.execShl g s
  | .shr g => Sys2Proof.Machine.execShr g s
  | .sar g => Sys2Proof.Machine.execSar g s
  | .min g => Sys2Proof.Machine.execMin g s
  | .max g => Sys2Proof.Machine.execMax g s
  | .li g => Sys2Proof.Machine.execLi g s
  | .sread g => Sys2Proof.Machine.execSread g s
  | .cmp g => Sys2Proof.Machine.execCmp g s
  | .jmp g => Sys2Proof.Machine.execJmp g s
  | .bany g => Sys2Proof.Machine.execBany g s
  | .ball g => Sys2Proof.Machine.execBall g s
  | .act g => Sys2Proof.Machine.execAct g s
  | .msave g => Sys2Proof.Machine.execMsave g s
  | .mrest g => Sys2Proof.Machine.execMrest g s
  | .endGroup g => Sys2Proof.Machine.execEndGroup g s
  | .lds g => Sys2Proof.Machine.execLds g s
  | .sts g => Sys2Proof.Machine.execSts g s
  | .gather g => Sys2Proof.Machine.execGather g s
  | .ldg g => Sys2Proof.Machine.execLdg g s
  | .atom g => Sys2Proof.Machine.execAtom g s
  | .crucibleStore g => Sys2Proof.Machine.execCrucibleStore g s
  | .signal g => Sys2Proof.Machine.execSignal g s
  | .crucibleFence g => Sys2Proof.Machine.execCrucibleFence g s
  | .cread g => Sys2Proof.Machine.execCread g s
  | .mbox g => Sys2Proof.Machine.execMbox g s
  | .poolOpen g => Sys2Proof.Machine.execPoolOpen g s
  | .poolClose g => Sys2Proof.Machine.execPoolClose g s
  | .aclr g => Sys2Proof.Machine.execAclr g s
  | .aadd g => Sys2Proof.Machine.execAadd g s
  | .aread g => Sys2Proof.Machine.execAread g s
  | .asave g => Sys2Proof.Machine.execAsave g s
  | .aimg g => Sys2Proof.Machine.execAimg g s
  | .wload g => Sys2Proof.Machine.execWload g s
  | .wswap g => Sys2Proof.Machine.execWswap g s
  | .mma g => Sys2Proof.Machine.execMma g s
  | .vld g => Sys2Proof.Machine.execVld g s
  | .vst g => Sys2Proof.Machine.execVst g s
  | .vadd g => Sys2Proof.Machine.execVadd g s
  | .vsub g => Sys2Proof.Machine.execVsub g s
  | .vmul g => Sys2Proof.Machine.execVmul g s
  | .vfma g => Sys2Proof.Machine.execVfma g s
  | .vmax g => Sys2Proof.Machine.execVmax g s
  | .vmin g => Sys2Proof.Machine.execVmin g s
  | .vbcast g => Sys2Proof.Machine.execVbcast g s
  | .vcvt g => Sys2Proof.Machine.execVcvt g s
  | .vpack g => Sys2Proof.Machine.execVpack g s
  | .rngset g => Sys2Proof.Machine.execRngset g s
  | .rng g => Sys2Proof.Machine.execRng g s
  | .lineRequestReturn id faults => Sys2Proof.Machine.execLineRequestReturn id faults s
  | .capShed prog t => Sys2Proof.Machine.execCapShed prog t s
  | .programEndClear prog => Sys2Proof.Machine.execProgramEndClear prog s
  | .regionFree region => Sys2Proof.Machine.execRegionFree region s
  | .tenantScrubDone tenant => Sys2Proof.Machine.execTenantScrubDone tenant s
  | .measureDone region t faults => Sys2Proof.Machine.execMeasureDone region t faults s
  | .reportSigned t => Sys2Proof.Machine.execReportSigned t s
  | .fwCommit t => Sys2Proof.Machine.execFwCommit t s
  | .fwRollback cause t => Sys2Proof.Machine.execFwRollback cause t s
  | .compartmentFail core comp cause t => Sys2Proof.Machine.execCompartmentFail core comp cause t s
  | .coreFail core cause t => Sys2Proof.Machine.execCoreFail core cause t s
  | .patrolScrubRead stack faults => Sys2Proof.Machine.execPatrolScrubRead stack faults s
  | .stackLost stack => Sys2Proof.Machine.execStackLost stack s
  | .refreshRateChange stack temp => Sys2Proof.Machine.execRefreshRateChange stack temp s
  | .beacon part via b arrival arrivalFrac => Sys2Proof.Machine.execBeacon part via b arrival arrivalFrac s
  | .beaconSend part port t => Sys2Proof.Machine.execBeaconSend part port t s
  | .livenessTick t => Sys2Proof.Machine.execLivenessTick t s
  | .livenessAgeout node t => Sys2Proof.Machine.execLivenessAgeout node t s
  | .takeManagerRole t => Sys2Proof.Machine.execTakeManagerRole t s
  | .firstLock part => Sys2Proof.Machine.execFirstLock part s
  | .parentLoss part t => Sys2Proof.Machine.execParentLoss part t s
  | .status part via sender map t => Sys2Proof.Machine.execStatus part via sender map t s
  | .report part via m => Sys2Proof.Machine.execReport part via m s
  | .probe part via => Sys2Proof.Machine.execProbe part via s
  | .probeReply via state => Sys2Proof.Machine.execProbeReply via state s
  | .probeTimeout port t => Sys2Proof.Machine.execProbeTimeout port t s
  | .decisionWindow t => Sys2Proof.Machine.execDecisionWindow t s
  | .verdict part via v => Sys2Proof.Machine.execVerdict part via v s
  | .verdictApply part t => Sys2Proof.Machine.execVerdictApply part t s
  | .drainSecondInstant subject t => Sys2Proof.Machine.execDrainSecondInstant subject t s
  | .sensorWindow t readings => Sys2Proof.Machine.execSensorWindow t readings s
  | .powerEstimate t activity => Sys2Proof.Machine.execPowerEstimate t activity s
  | .estimateCalibrate t current => Sys2Proof.Machine.execEstimateCalibrate t current s
  | .vcoreRetarget t activity demand => Sys2Proof.Machine.execVcoreRetarget t activity demand s
  | .vcoreSettled t activity => Sys2Proof.Machine.execVcoreSettled t activity s
  | .headroomCheck t activity demand => Sys2Proof.Machine.execHeadroomCheck t activity demand s
  | .fixedLeft t activity demand => Sys2Proof.Machine.execFixedLeft t activity demand s
  | .regulatorPoll t m => Sys2Proof.Machine.execRegulatorPoll t m s
  | .vrSilent t => Sys2Proof.Machine.execVrSilent t s
  | .pfwNAssert => Sys2Proof.Machine.execPfwNAssert s
  | .pfwNDeassert t activity demand => Sys2Proof.Machine.execPfwNDeassert t activity demand s
  | .thermalCapStep t logic dram => Sys2Proof.Machine.execThermalCapStep t logic dram s
  | .thermalTrip logic dram => Sys2Proof.Machine.execThermalTrip logic dram s
  | .sysResetNAssert ns taken released => Sys2Proof.Machine.execSysResetNAssert ns taken released s
  | .railOutOfRange rail ns back => Sys2Proof.Machine.execRailOutOfRange rail ns back s
  | .refclkFLoss ns back => Sys2Proof.Machine.execRefclkFLoss ns back s
  | .dawnBootRom quadsPass sfdp ms => Sys2Proof.Machine.execDawnBootRom quadsPass sfdp ms s
  | .dawnPuf raw helper ms => Sys2Proof.Machine.execDawnPuf raw helper ms s
  | .dawnNvm image deviceBytes ms => Sys2Proof.Machine.execDawnNvm image deviceBytes ms s
  | .dawnDram stackFail ms => Sys2Proof.Machine.execDawnDram stackFail ms s
  | .dawnLinks ms => Sys2Proof.Machine.execDawnLinks ms s
  | .dawnFarEndIdentity ms => Sys2Proof.Machine.execDawnFarEndIdentity ms s
  | .dawnElectionAndLock ms => Sys2Proof.Machine.execDawnElectionAndLock ms s
  | .dawnModeEntered ms => Sys2Proof.Machine.execDawnModeEntered ms s
  | .bypass => Sys2Proof.Machine.execBypass s
  | .idcode => Sys2Proof.Machine.execIdcode s
  | .samplePreload => Sys2Proof.Machine.execSamplePreload s
  | .extest => Sys2Proof.Machine.execExtest s
  | .clamp => Sys2Proof.Machine.execClamp s
  | .highz => Sys2Proof.Machine.execHighz s
  | .dapAccess level => Sys2Proof.Machine.execDapAccess level s
  | .trstNAssert => Sys2Proof.Machine.execTrstNAssert s
  | .hostLinkUp port gts width flit256 bme bi => Sys2Proof.Machine.execHostLinkUp port gts width flit256 bme bi s
  | .dmaReadCompletion port id ok data => Sys2Proof.Machine.execDmaReadCompletion port id ok data s
  | .flashWriteEnd ok => Sys2Proof.Machine.execFlashWriteEnd ok s
  | .d2dLinkDown => Sys2Proof.Machine.execD2dLinkDown s
  | .managerQuorumTimeout id t => Sys2Proof.Machine.execManagerQuorumTimeout id t s
  | .rowCapTimeout t => Sys2Proof.Machine.execRowCapTimeout t s
  | .epochWaitExpire part dst stream t => Sys2Proof.Machine.execEpochWaitExpire part dst stream t s

end Sys2Proof.Machine
end

