-- ==== Sys2Proof/Safety.lean ====
section
/-! DEFINITION. What the claims are made of: the conditions under which commands have their effect, the canonical form of
the machine's memories, and what a command leaves alone. -/

namespace Sys2Proof.Machine

/-- The command answers a next state. -/
def Completes (c : Instr) (s : State) : Prop := ∃ t, exec c s = .next t

/-- The switch takes notice of commands: VIO is present and nothing holds it in reset (R772, R773, R776). -/
abbrev Running (s : State) : Prop := s.dev.vio = true ∧ s.dev.held = false

/-- A host reaches the switch through a port: the port is present, its link is up, its PCIe stream has not failed, and
IDE protects it where the image requires that (R21, R508, R509). -/
abbrev PortOpen (s : State) (p : Fin 2) : Prop :=
  Running s ∧ hpPresent s p = true ∧ (s.hp p).linkUp = true ∧ ioFailed (s.hp p) = false
    ∧ (s.cfg.ideRequired = false ∨ ideSecure (s.hp p) = true)

/-- A ring command has its turn: it is in flight, has not begun, no earlier command on its objects runs, ring service
runs, and neither R725 nor R749 bars it. -/
abbrev RingTurn (s : State) (op : Nat) (r : CmdRef) (d : Desc) (f : InFlight) : Prop :=
  Running s ∧ mayBegin s op r d = some f ∧ barred s d = false

/-- A request at the switch that R201 lets through to the checks of its kind. -/
abbrev Admitted (s : State) (a : Arrival) (d : DstSrc) : Prop :=
  Running s ∧ a.part = .zs ∧ ((consume s a.pkt).flt.tn.lock ≠ .unlocked ∨ a.pkt.opcode = opMGMT)
    ∧ admission (consume s a.pkt) a.pkt = .go d ∧ malformed a.pkt mgmtMsgs.contains = false

/-- The switch with a request admitted: its sequence number is BUSY (R205), and a retransmission is counted (R409). -/
def admitted (s : State) (a : Arrival) (d : DstSrc) : State :=
  let s := consume s a.pkt
  (if ((s.xp.dstOf a.pkt.src).st.get? a.pkt.seq.toNat).isSome then countRetx s else s).onXp fun x =>
    { x.setDst a.pkt.src d with busy := x.busy ++ [⟨a, s.now, none⟩] }

/-- A request at the ZE-208 that R201 lets through to the checks of its kind. -/
abbrev EpAdmitted (s : State) (a : Arrival) (d : DstSrc) : Prop :=
  a.part = .ze ∧ epArrives s a = true ∧ epAdmit s a.pkt = .go d ∧ malformed a.pkt mgmtMsgs.contains = false

/-- The ZE-208 with a request admitted. -/
def epAdmitted (s : State) (a : Arrival) (d : DstSrc) : State :=
  onEpXp s fun x => { x.setDst a.pkt.src d with busy := x.busy ++ [⟨a, s.ep.now, none⟩] }

/-- A thread group issues an instruction of an opcode (R284, R285, R290, R329): its program runs, the group waits for
nothing that the instruction reads, it is its turn in the pipe, and `c` holds what the instruction sees. -/
abbrev Issues (s : State) (g : GroupId) (op : Nat) (c : Ctx) : Prop :=
  Running s ∧ c.p = g.prog.toNat ∧ c.g = g.grp.val ∧ prog? s c.p = some c.pr ∧ c.gr = cruGroup c.pr c.g
    ∧ mayRun s g c.pr = true ∧ (c.pr.code[c.gr.pc]?).map Ins.of = some c.i ∧ c.i.op = op ∧ insWaits s c = false
    ∧ pipeTurn s c = true

/-- The byte memories (pool, scratchpads, housekeeping) keep their one canonical form. -/
def MemOk (s : State) : Prop := s.pool.mem.wf = true ∧ s.pool.scratch.wf = true ∧ s.sec.hkmem.wf = true

/-- A step that reached `t` from `s` took no command from the queue and left the memories canonical. -/
structure Keeps (s t : State) : Prop where
  queue : t.pending = s.pending
  mem : MemOk s → MemOk t

/-- `t` differs from `s` at most in the ZE-208, the outputs and the counter of free values. -/
def Apart (s t : State) : Prop := { t with ep := s.ep, out := s.out, free := s.free } = s

end Sys2Proof.Machine
end

