-- ==== Sys2Proof/Certificates/Slice0/Obligations.lean ====
section
/-! DEFINITION. What is claimed of the machine. -/

open Sys2Proof Sys2Proof.Machine

/-- Writes of the host port registers, attachment, detachment and heartbeats have their effect on an open port (R519,
R522, R524, R527, 11_host_interface.md). -/
def Obligations.HostRegisterCommandsAnswer : Prop :=
  ∀ (s : State) (p : Fin 2), PortOpen s p →
    (∀ n v, exec (.hifCmdProd p n v) s = .next (cmdProd s p n v)) ∧
    (∀ n v, exec (.hifCplCons p n v) s = .next (cplCons s p n v)) ∧
    (∀ v, exec (.hifFaultCons p v) s = .next (faultConsWrite s p v)) ∧
    (∀ v, exec (.hifEventCons p v) s = .next (eventConsWrite s p v)) ∧
    (hostAttached (s.hp p) = false → windowClaimed (s.hp p) = true →
      exec (.attach p) s = .next (becomeLive ((resetRings s p).onHp p fun h => { h with attachErr := false }) p)) ∧
    (hostAttached (s.hp p) = true → exec (.detach p) s = .next (orphanAll (stopLive s p .detached s.now 1) p)) ∧
    (hostAttached (s.hp p) = true → exec (.heartbeat p) s = .next (becomeLive s p))

/-- The liveness timers of a host port, parked faults and the interrupt holdoff have their effect when they are due
(R528, R529, R530, R531, R532, R534, 11_host_interface.md). -/
def Obligations.HostLivenessTimersAnswer : Prop :=
  ∀ (s : State) (p : Fin 2) (t : Time), Running s →
    ((s.hp p).host = .live → due (s.at_ t).now (s.hp p).beat (ms 20) = true →
      exec (.hostSilent p t) s = .next (stopLive (s.at_ t) p .silent ((s.hp p).beat + ms 20) 0)) ∧
    (hostLive (s.at_ t) p = false → due (s.at_ t).now (notLiveSince (s.hp p)) (ms 50) = true →
      hostLive (s.at_ t) (1 - p.val) = true → ownedTenants (s.at_ t) p ≠ [] →
      exec (.ownershipMove p t) s = .next (moveTenants (s.at_ t) p (1 - p.val) (ownedTenants (s.at_ t) p) opTag
        (if (s.hp p).host = .live then 0 else (s.hp p).stopCause) (notLiveSince (s.hp p)))) ∧
    (due (s.at_ t).now (notLiveSince (s.hp p)) (ms 50) = true →
      hostLive (s.at_ t) 0 = false → hostLive (s.at_ t) 1 = false → (s.hp p).overdue = false →
      exec (.noHostLive p t) s = .next ((parkedOf (s.at_ t) p).foldl (fun s q =>
        let s := loseFault (s.onRgn fun g => { g with parked := g.parked.erase q }) p true
        if q.isLine then lineDone s q.lineId stFaultOverflow else refuse s q.arrival stFaultOverflow)
        ((s.at_ t).onHp p fun h => { h with overdue := true }))) ∧
    (hostLive s p = true → exec (.parkedRetry p) s = .next (retryAll (faultMarker s p) p (parkedOf s p))) ∧
    (∀ v : Fin 64, (s.hp p).msixPend.contains v.val = true → exec (.msiXHoldoff p v t) s = .next (msix (s.at_ t) p v))

/-- A DMA read ends by its completion, or as failed 10 ms after its issue (R510, 11_host_interface.md). -/
def Obligations.DmaReadsEnd : Prop :=
  ∀ (s : State) (p : Fin 2) (r : DmaRead), Running s →
    (∀ id ok data, ((s.hp p).dma.find? fun r => r.id == id && dmaOut r) = some r → ioFailed (s.hp p) = false →
      let u := dropDma s p r
      (lastRead r = true → Desc.staged r.desc = true → Desc.activate r.desc ≤ u.now) →
      loaderOn u r.desc = true →
      exec (.dmaReadCompletion p id ok data) s = .next (settle (dmaGot u r ok (padTo r.len data)))) ∧
    (∀ id data, ((s.hp p).dma.find? fun r => r.id == id && dmaOut r) = some r → ioFailed (s.hp p) = false →
      let u := dropDma s p r
      lastRead r = true → Desc.staged r.desc = true → u.now < Desc.activate r.desc →
      exec (.dmaReadCompletion p id true data) s = .next (settle (u.onRgn fun g => { g with
        staged := g.staged ++ [⟨Desc.activate r.desc, orderOf u r.origin, r.origin, r.desc, r.pick,
          some (r.got, padTo r.len data)⟩] }))) ∧
    (∀ id t, ((s.hp p).dma.find? fun r => r.id == id && dmaOut r && due (s.at_ t).now r.issued (ms 10)) = some r →
      exec (.dmaTimeout p id t) s = .next (settle (dmaGot (dropDma (s.at_ t) p r) r false [])))

/-- CXL requests, snoop answers, decoder commits, link changes and IDE keys of a host port have their effect (R163,
R687, R500, R502, R503, R506, R507, R508, 11_host_interface.md). -/
def Obligations.CxlRequestsAnswer : Prop :=
  ∀ (s : State) (p : Fin 2), Running s →
    (∀ a mv fs, exec (.memrd p a mv fs) s = .next (serveHost s p (.rd a.toNat mv) fs)) ∧
    (∀ a data, exec (.memwr p a data) s = .next (settle (serveHost s p (.wr a.toNat data) []))) ∧
    (∀ a mask data, exec (.memwrptl p a mask data) s = .next (settle (serveHost s p (.wrPtl a.toNat mask data) []))) ∧
    (∀ line data, ((s.hp p).ide.getD 2 default).failed = false →
      exec (.bisnpResponse p line (some data)) s = .next (snoopDone s line (Fin.ofNat 34 p.val) fullMask data)) ∧
    (∀ line, ((s.hp p).ide.getD 2 default).failed = false →
      exec (.bisnpResponse p line none) s = .next (snoopDone s line (Fin.ofNat 34 p.val) 0 [])) ∧
    (∀ line t r, ((s.at_ t).coh.recalls.find? fun r => decide (r.line = line ∧ r.holder.val = p.val)) = some r →
      due (s.at_ t).now r.since (ms 1) = true → exec (.bisnpTimeout p line t) s = .next (hostGone (s.at_ t) p)) ∧
    exec (.hostLost p) s = .next (hostGone (s.onHp p fun h => { h with linkUp := false, cxlMem := false }) p) ∧
    exec (.hostLinkDown p) s = .next (hostGone (s.onHp p fun h => { h with linkUp := false, cxlMem := false }) p) ∧
    (∀ gts width f bme bi, hpPresent s p = true →
      exec (.hostLinkUp p gts width f bme bi) s = .next ((s.emit (.function p 0x6476 0xB0 0x050210)).onHp p fun h =>
        { h with linkUp := true, cxlMem := decide (gts = 64 ∧ width = 8) && f, bme := bme, biEnable := bi })) ∧
    (∀ x set key, s.sec.keyReady = true → exec (.ideKmKeyProg p x set key) s = .next (onIde (openSpdm s p) p x fun i =>
      { secure := true, failed := false, txSet := if i.secure then i.txSet else set, keys := i.keys.set set key })) ∧
    (∀ x set key, s.sec.keyReady = false → (s.hp p).spdm = none → exec (.ideKmKeyProg p x set key) s = .next s) ∧
    (∀ x, exec (.ideCheckFailed p x) s = .next ((onIde s p x fun i => { i with secure := false, failed := true }).onHp p
      fun h => { h with aer := "IDE Check Failed" :: h.aer })) ∧
    (∀ x, ((s.hp p).ide.getD (ideKey x) default).keys.has (1 - ((s.hp p).ide.getD (ideKey x) default).txSet.val) = true →
      exec (.kSetGo p x) s = .next (onIde s p x fun i => { i with txSet := 1 - i.txSet }))

/-- The CXL mailbox answers the commands of the Type 3 device, and any other as unsupported (R505,
11_host_interface.md). -/
def Obligations.MailboxCommandsAnswer : Prop :=
  ∀ (s : State) (p : Fin 2), PortOpen s p →
    exec (.identifyMemoryDevice p) s = .next (s.emit (.mailbox p 0x4000 true (leBytes 8 (2 ^ 40)))) ∧
    exec (.getSupportedLogs p) s = .next (s.emit (.mailbox p 0x0400 true [])) ∧
    exec (.getLog p) s = .next (s.emit (.mailbox p 0x0401 true [])) ∧
    exec (.getHealthInfo p) s = .next (s.emit (.mailbox p 0x4200 true [])) ∧
    exec (.getEventRecords p) s = .next (s.emit (.mailbox p 0x0100 true (s.hp p).mboxEvents.flatten)) ∧
    exec (.clearEventRecords p) s =
      .next ((s.onHp p fun h => { h with mboxEvents := [] }).emit (.mailbox p 0x0101 true [])) ∧
    (∀ op, exec (.mailboxUnsupported p op) s = .next (s.emit (.mailbox p op false [])))

/-- Register writes of BAR0, decoder commits and the switch's own register commands have their effect (R50, R51, R464,
R495, R502, 11_host_interface.md). -/
def Obligations.RegisterWritesAnswer : Prop :=
  ∀ (s : State), Running s →
    (∀ (p : Fin 2) (o : BitVec 28) (v : BitVec 64), PortOpen s p → o.toNat % 8 = 0 →
      exec (.registerWrite p o true v) s = .next (if 0x10000 ≤ o.toNat ∧ o.toNat < 0x100000
        then writeHif s p (o.toNat - 0x10000) v true true else writeReg s o.toNat v true true)) ∧
    (∀ (p : Fin 2) (k : Fin 8) (base : BitVec 64) (size : Nat), PortOpen s p → (s.hp p).biEnable = true →
      (((s.hp p).decoders.filter fun d => d.1 != k.val && d.2.committed).map fun d => d.2.size).sum + size ≤ 2 ^ 40 →
      exec (.hdmDecoderCommit p k base size 1) s =
        .next (s.onHp p fun h => { h with decoders := h.decoders.set k ⟨base.toNat, size, true, false⟩ })) ∧
    (∀ q : Fin 4, quadUp s q = true →
      exec (.swcQbufLowRestart q) s = .next (s.onSwc fun c => { c with low := c.low.set q (cellsFree s q) })) ∧
    exec .colDetEventsRestart s = .next (s.onCol fun c =>
      { c with evQuench := 0, evCorrected := 0, evRecall := 0, evRetx := 0, evReplay := 0 }) ∧
    (∀ lanes byHost, exec (.slip lanes byHost) s = .next (slipWrite s lanes byHost)) ∧
    (∀ p : Fin 64, quadUp s (p.val / 16) = true →
      exec (.sleepDisable p) s = .next (writePortCtrl s p true (linkOf s p).searchOwner))

/-- A request packet that the switch admits is served by the steps of its kind (R191, R199, R201, R205, R379, R425,
R793, 04_transport.md). -/
def Obligations.RequestsAreServed : Prop :=
  ∀ (s : State) (a : Arrival) (d : DstSrc) (fs : List ReadFault), Admitted s a d →
    (a.pkt.opcode = opREAD → exec (.read a fs) s = .next (settle (serveRead (admitted s a d) a fs))) ∧
    (a.pkt.opcode = opREADOWN → exec (.readOwn a fs) s = .next (settle (serveRead (admitted s a d) a fs))) ∧
    (a.pkt.opcode = opCOUNTERREAD → exec (.counterRead a) s = .next (settle (serveCounterRead (admitted s a d) a))) ∧
    (a.pkt.opcode = opWRITE → a.pkt.close = false →
      exec (.write a) s = .next (settle (serveWrite (admitted s a d) a))) ∧
    (a.pkt.opcode = opWRITE → a.pkt.close = true → s.xp.cw.length < 4096 →
      exec (.closingWrite a) s = .next (settle (serveClosing (admitted s a d) a))) ∧
    (a.pkt.opcode = opSTORE → exec (.store a) s = .next (settle (serveWrite (admitted s a d) a))) ∧
    (a.pkt.opcode = opWRITEBACK → exec (.writeback a) s = .next (settle (serveWrite (admitted s a d) a))) ∧
    (a.pkt.opcode = opATOMIC → exec (.atomic a fs) s = .next (settle (serveAtomic (admitted s a d) a fs))) ∧
    (a.pkt.opcode = opCONTRIB → exec (.reduceContrib a) s = .next (serveContrib (admitted s a d) a))

/-- A management message that the switch admits is acknowledged or answered, and done (R192, R193, R194, R196, R197,
R198, R425, R751, 04_transport.md). -/
def Obligations.MessagesAreServed : Prop :=
  ∀ (s : State) (a : Arrival) (d : DstSrc) (fs : List ReadFault) (k : Pick), Admitted s a d →
    (isMsg a 0x90 = true → exec (.partnerWrite a) s = .next (settle (partnerWriteZs (admitted s a d) a))) ∧
    (isMsg a 0x91 = true → exec (.partnerRead a fs) s = .next (settle (partnerReadZs (admitted s a d) a fs))) ∧
    (isMsg a 0xB0 = true → exec (.capSet a) s = .next (settle (serveCapSet (admitted s a d) a))) ∧
    (isMsg a 0xB1 = true → exec (.carryCmd a k) s = .next (settle (runCarried (ackReq (admitted s a d) a)
      (.carried a.pkt.src (tagOf (BitVec.ofNat 16 (fieldAt a.pkt.payload 2 2)))
        (BitVec.ofNat 32 (fieldAt a.pkt.payload 4 4)) (Fin.ofNat 2 (fieldAt a.pkt.payload 8 1)) (Fin.ofNat 62 (fieldAt a.pkt.payload 9 1)))
      (Desc.ofBytes ((a.pkt.payload.drop 16).take 64)) k))) ∧
    (isMsg a 0xB2 = true →
      exec (.carryCpl a) s = .next (settle (carryCplGot (ackReq (admitted s a d) a) a.pkt.payload))) ∧
    (isMsg a 0xB3 = true → exec (.grantReq a k) s = .next (settle (grantReqZs (admitted s a d) a k))) ∧
    (isMsg a 0xB5 = true → exec (.partnerFree a) s = .next (settle (partnerFreeZs (admitted s a d) a))) ∧
    (isMsg a 0xB6 = true → exec (.tableReq a) s = .next (settle (serveTableReq (admitted s a d) a)))

/-- A request packet that the ZE-208 admits is served by the steps of its kind (R161, R199, R201, R396, R564, R571,
R585, 12_endpoint_block.md). -/
def Obligations.EndPointRequestsAreServed : Prop :=
  ∀ (s : State) (a : Arrival) (d : DstSrc) (fs : List ReadFault),
    (EpAdmitted s a d →
      (a.pkt.opcode = opREAD → exec (.read a fs) s = .next (atEp (epServe (epAdmitted s a d) a) id)) ∧
      (a.pkt.opcode = opWRITE → a.pkt.close = false →
        exec (.write a) s = .next (atEp (epServe (epAdmitted s a d) a) id)) ∧
      (a.pkt.opcode = opSTORE → exec (.store a) s = .next (atEp (epServe (epAdmitted s a d) a) id)) ∧
      (a.pkt.opcode = opATOMIC → exec (.atomic a fs) s = .next (atEp (epServe (epAdmitted s a d) a) id)) ∧
      (a.pkt.opcode = opCOUNTERREAD →
        exec (.counterRead a) s = .next (atEp (epCounterRead (epAdmitted s a d) a) id)) ∧
      (a.pkt.opcode = opWRITE → a.pkt.close = true → s.ep.xp.cw.length < 256 →
        exec (.closingWrite a) s = .next (atEp (epClosing (epAdmitted s a d) a) id)) ∧
      (isMsg a 0xA0 = true → exec (.epcWrite a) s = .next (atEp (epcWriteZe (epAdmitted s a d) a) id)) ∧
      (isMsg a 0xA1 = true → exec (.epcRead a) s = .next (atEp (epcReadZe (epAdmitted s a d) a) id))) ∧
    (a.part = .ze → epArrives s a = true →
      (a.pkt.opcode = opSNOOPINV → exec (.snoopInv a) s = .next (atEp (epSnoop s a) id)) ∧
      (a.pkt.opcode = opSNOOPRECALL → exec (.snoopRecall a) s = .next (atEp (epSnoop s a) id)) ∧
      (a.pkt.opcode = opRESULT → exec (.reduceResult a) s = .next (atEp (epResult s a) id)))

/-- A response packet resolves the request that it answers, at the switch and at the ZE-208 (R160, R191, R196, R202,
R209, R425, R585, 04_transport.md). -/
def Obligations.ResponsesResolveRequests : Prop :=
  ∀ (s : State) (a : Arrival),
    (∀ c : Instr, (c = .ack a ∧ a.pkt.opcode = opACK) ∨ (c = .nack a ∧ a.pkt.opcode = opNACK) ∨
        (c = .hold a ∧ a.pkt.opcode = opHOLD) ∨ (c = .readReply a ∧ a.pkt.opcode = opREADREPLY) ∨
        (c = .atomicReply a ∧ a.pkt.opcode = opATOMICREPLY) ∨ (c = .counterReply a ∧ a.pkt.opcode = opCOUNTERREPLY) ∨
        (c = .partnerData a ∧ isMsg a 0x92 = true) ∨ (c = .epcData a ∧ isMsg a 0xA2 = true) ∨
        (c = .grant a ∧ isMsg a 0xB4 = true) ∨ (c = .tableData a ∧ isMsg a 0xB7 = true) →
      (a.part = .zs → Running s → exec c s = .next (settle (zsResponse s a))) ∧
      (a.part = .ze → epArrives s a = true → exec c s = .next (atEp (epResponse s a) id))) ∧
    (∀ r, a.part = .zs → Running s → a.pkt.opcode = opSNOOPRESP → snoopAnswered (consume s a.pkt) a = some r →
      exec (.snoopResp a) s = .next (snoopDone (consume s a.pkt) r.line r.holder (fieldAt a.pkt.payload 0 8)
        (a.pkt.payload.drop 8)))

/-- A held closing write lands when its stream is complete and is discarded after 1 ms (R138, R141, R217, R793,
03_memory_model.md). -/
def Obligations.ClosingWritesEnd : Prop :=
  ∀ (s : State) (src : Node) (stream : Byte) (t : Time) (a : Arrival),
    (Running s → heldClose s.xp src stream (fun c => mayClose s.xp c.1) = some a →
      exec (.closingWriteRelease .zs src stream) s = .next (settle
        (resumePacket (s.onXp fun x => closeTaken x a) a a.pkt.region.toNat a.pkt.off [] [] false))) ∧
    (heldClose s.ep.xp src stream (fun c => mayClose s.ep.xp c.1) = some a →
      exec (.closingWriteRelease .ze src stream) s = .next (atEp s fun s => epRerun (onEpXp s fun x => closeTaken x a) a)) ∧
    (Running s → heldClose s.xp src stream (fun c => due (s.at_ t).now c.2 (ms 1)) = some a →
      exec (.closingWriteDiscard .zs src stream t) s =
        .next (settle (refuse ((s.at_ t).onXp fun x => closeTaken x a) a stDestLost))) ∧
    (heldClose s.ep.xp src stream (fun c => due (s.epAt t).ep.now c.2 (ms 1)) = some a →
      exec (.closingWriteDiscard .ze src stream t) s =
        .next (atEp (s.epAt t) fun s => epRefuse (onEpXp s fun x => closeTaken x a) a stDestLost))

/-- The timers of the transport act when they are due, at the switch and at the ZE-208 (R207, R208, R209, R210, R218,
R225, R88, R568, 04_transport.md). -/
def Obligations.TransportTimersAct : Prop :=
  ∀ (s : State) (n : Node) (seq : BitVec 24) (stream : Byte) (t : Time),
    (∀ b, Running s → busyOf s.xp n seq (s.at_ t).now = some b →
      exec (.holdTimer .zs n seq t) s = .next (respond ((s.at_ t).onXp fun x => markHeld x b (s.at_ t).now)
        (answerQuad (s.at_ t) b.arr.port) b.arr.pkt (holdOf (s.at_ t) b.arr.pkt))) ∧
    (∀ b, busyOf s.ep.xp n seq (s.epAt t).ep.now = some b →
      exec (.holdTimer .ze n seq t) s = .next (atEp (s.epAt t) fun s =>
        epRespond (onEpXp s fun x => markHeld x b s.ep.now) b.arr (epHold s b.arr.pkt))) ∧
    (∀ o, Running s → (s.xp.opFor n seq).filter (fun o => retransDue o (s.at_ t).now) = some o →
      exec (.retransmit .zs n seq t) s = .next (zsRetransmit (s.at_ t) o)) ∧
    (∀ o, (s.ep.xp.opFor n seq).filter (fun o => retransDue o (s.epAt t).ep.now) = some o →
      exec (.retransmit .ze n seq t) s = .next (atEp (s.epAt t) fun s => epRetransmit s o)) ∧
    (∀ o, Running s → (s.xp.opFor n seq).filter (fun o => giveUpDue o (s.at_ t).now) = some o →
      exec (.giveUp .zs n seq t) s = .next (settle (zsGiveUp (s.at_ t) o))) ∧
    (∀ o, (s.ep.xp.opFor n seq).filter (fun o => giveUpDue o (s.epAt t).ep.now) = some o →
      exec (.giveUp .ze n seq t) s = .next (atEp (s.epAt t) fun s => epGiveUp s o)) ∧
    (Running s → exec (.rateRaise .zs n t) s = .next (pump ((s.at_ t).onXp fun x => rateRaised x n (s.at_ t).now))) ∧
    exec (.rateRaise .ze n t) s = .next (atEp (s.epAt t) fun s => onEpXp s fun x => rateRaised x n s.ep.now) ∧
    (Running s → exec (.epochWaitExpire .zs n stream t) s =
      .next (pump ((s.at_ t).onXp fun x => epochsFreed x (s.at_ t).now n stream))) ∧
    exec (.epochWaitExpire .ze n stream t) s =
      .next (atEp (s.epAt t) fun s => onEpXp s fun x => epochsFreed x s.ep.now n stream) ∧
    (∀ id c w, Running s → (s.hif.carries.find? fun c => c.id == id) = some c → c.acked = some w → c.done = none →
      due (s.at_ t).now w (ms 20) = true → exec (.carryTimeout id t) s = .next (carryLost (s.at_ t) id)) ∧
    (∀ r, Running s → exec (.graceClose .zs r t) s = .next (graceCloseZs s r.toNat t)) ∧
    (∀ (r : BitVec 16) e, s.ep.ranges.get? r.toNat = some e → epGraceDue (s.epAt t).ep r.toNat e = true →
      exec (.graceClose .ze r t) s = .next ((s.epAt t).onEp fun x =>
        { x with ranges := x.ranges.set r.toNat { e with graceOpen := false, prevValid := false } }))

/-- The host switch of a reduction group forms and retransmits results, and a member probes for a late one (R395, R396,
R397, R398, R573, 08_collectives_determinism.md). -/
def Obligations.ReductionCommandsAnswer : Prop :=
  ∀ (s : State) (t : Time),
    (∀ (i : BitVec 10) g c, Running s → rgroup? s i.toNat = some g → g.state = .armed → g.results.length < 2 * g.slots →
      completeChunk g = some c → exec (.resultFormed i) s = .next (formResult s i.toNat g c)) ∧
    (∀ (i : BitVec 10) n rank g r w, Running s → rgroup? s i.toNat = some g →
      (g.results.find? fun r => r.g == n) = some r → (r.waiting.find? fun w => w.rank == rank) = some w →
      (w.held = none → due (s.at_ t).now w.last (us 20) = true → w.sent < 6 →
        exec (.resultRetransmit i n rank t) s = .next (originate (onRGroup (countRetx (s.at_ t)) i.toNat fun g =>
            onWait g n rank fun w => { w with last := (s.at_ t).now, sent := w.sent + 1 })
          g.quad 5 none (resultPacket (onRGroup (countRetx (s.at_ t)) i.toNat fun g =>
            onWait g n rank fun w => { w with last := (s.at_ t).now, sent := w.sent + 1 }) i.toNat g r
              (g.table.getD rank 0) true))) ∧
      (w.held = none → due (s.at_ t).now w.last (us 20) = true → 6 ≤ w.sent →
        exec (.resultRetransmit i n rank t) s = .next (giveUpMember (s.at_ t) i.toNat g n rank)) ∧
      (∀ h, w.held = some h → due (s.at_ t).now h (us 300) = true →
        exec (.resultRetransmit i n rank t) s = .next (giveUpMember (s.at_ t) i.toNat g n rank))) ∧
    (∀ (j : Fin 64) o b, contribOp s.ep j = some o → s.ep.binds.get? j = some b → b.done < b.sent →
      due (s.epAt t).ep.now b.lastLand (ms 1) = true →
      exec (.contribProbe j t) s = .next (epMrd ((s.epAt t).onEp fun e =>
          { e with binds := e.binds.set j { b with lastLand := e.now } })
        (EpDesc.local_ o.desc + (chunkSpan b b.done).1 * b.inSize) ((chunkSpan b b.done).2 * b.inSize)
        (.contribRd j o.i o.k b.done true)))

/-- The switch core forwards, queues, multicasts and bursts packets, and a ZE-208 relays between its ports (R237, R247,
R250, R256, R257, R258, R262, R265, R579, 05_switch_core.md). -/
def Obligations.PacketsAreForwarded : Prop :=
  ∀ (s : State),
    (∀ port vc pkt, Running s → portUp s port.val = true ∨ s.lnk.rx.contains (port, vc, pkt) = true →
      exec (.packetForward port vc pkt) s = .next (forwardPacket (takeRx s port vc pkt) port vc pkt)) ∧
    (∀ port vc v x, Running s → egressCells s port vc < (limitsOf s (quadOf port)).cap →
      (s.swc.voq.find? fun v => decide (v.port = port ∧ v.vc = vc)) = some v →
      (s.swc.stored.find? fun x => x.id == v.id) = some x →
      exec (.voqEnqueue port vc) s =
        .next (enqueueNow (s.onSwc fun c => { c with voq := c.voq.erase v }) v.id x.pkt port vc)) ∧
    (∀ port pkt, Running s → portUp s port.val = true → bitsOf pkt.dst.toNat 14 2 = 3 →
      exec (.multicastForward port pkt) s =
        .next (mcastForward (takeRx s port pkt.vc pkt) pkt (quadOf port) (some port) pkt.vc)) ∧
    (∀ port flits t i r, Running s → portUp s port.val = true → burstEntry (s.at_ t) port t flits = some (i, r) →
      let b := burstOf flits
      let u := (burstIn (s.at_ t) port b).1
      let fs := (burstIn (s.at_ t) port b).2
      ∀ pkts, fs.length = b.length → burstPackets fs [] = some pkts → burstOk r pkts t = true →
      u.swc.suspended = false → portUp u (runnerEgress r) = true → r.lost = false →
      exec (.runnerBurst port flits t) s = .next (capCheck ((flits.drop b.length).foldl (fun s f => flitIn port f s)
        (u.onSwc fun c => { c with
          runners := c.runners.set i { r with bursts := r.bursts + 1, leaves := some (t + 175) }
          bursts := c.bursts ++ fs.map fun f =>
            ⟨runnerEgress r, t + 175, f.vc, f.first, f.last, f.data.take (f.fill.toNat + 1)⟩ })) false)) ∧
    (∀ t, Running s → s.swc.suspended = true → rateFull (s.at_ t) = true → t % 4096 = 0 →
      exec (.runnerRestore t) s = .next ((s.at_ t).onSwc fun c => { c with suspended := false })) ∧
    (∀ (port : Fin 64) pkt, port.val < 2 → s.ep.configured = true → epPortUp s.ep (1 - port.val) = true →
      isSwitch pkt.dst = true → isSwitch pkt.src = true → planeOf pkt.dst ≠ planeOf pkt.src →
      let vc := pkt.vcFor opMGMT
      (epStopped s.ep (1 - port.val) vc = false →
        exec (.relay port pkt) s = .next (s.emit (epFlits (1 - port.val) vc pkt))) ∧
      (epStopped s.ep (1 - port.val) vc = true → exec (.relay port pkt) s =
        .next (relayTell (s.onEp fun e => { e with relay := e.relay ++ [(1 - port.val, vc, pkt)] }))))

/-- A port sends and takes flits, replays, waits, fails, sleeps and wakes as the link rules say (R242, R260, R475, R476,
R477, R478, R479, R480, R482, R484, 10_links.md). -/
def Obligations.FlitsMoveOnLinks : Prop :=
  ∀ (s : State) (port : Fin 64) (t : Time), Running s →
    (quadUp s (port.val / 16) = true → flitsRun (linkOf s port) = true → (linkOf s port).sleepTx = false →
      let bs := s.swc.bursts.find? fun b => decide (b.port = port ∧ b.at_ ≤ t)
      (portUp s port = false ∨ bs = none ∧ (512 ≤ (linkOf s port).held.length ∨ replayWaits (s.at_ t) port = true ∨
          nextVc (s.at_ t) port t = none) →
        exec (.egressFlitSend port t) s =
          .next (sendFlit (s.at_ t) port (flitWith (s.at_ t) port t [] 0 false false true false))) ∧
      (∀ b, portUp s port = true → bs = some b → exec (.egressFlitSend port t) s = .next (sendRunner (s.at_ t) port t b)) ∧
      (∀ vc rr df, portUp s port = true → bs = none → (linkOf s port).held.length < 512 →
        replayWaits (s.at_ t) port = false → nextVc (s.at_ t) port t = some (vc, rr, df) →
        exec (.egressFlitSend port t) s = .next (sendOrdinary
          (onFc ((s.at_ t).onSwc fun c => { c with deficit := df }) port fun c => { c with rrVc := rr }) port t vc))) ∧
    (∀ f, exec (.flitReceive ⟨.zs, port⟩ f) s = .next (capCheck (flitIn port f s) false)) ∧
    (∀ f, exec (.flitReceive ⟨.ze, port⟩ f) s = .next (epFlitIn s port f)) ∧
    (portUp s port = true → (linkOf s port).replayDue = true →
      exec (.replay port t) s = .next (runCheck ((linkOf s port).held.foldl (fun s h =>
          putFlit s port (Flit.sealed
            { h.flit with xoff := (fcOf s port).xoffTx, ack := (linkOf s port).expect, nak := false }))
        (onLink (countReplay (s.at_ t)) port fun l => { l with
          replayDue := false, advanced := (s.at_ t).now, replays := bump l.replays, txRun := l.txRun
          lastTx := if l.held.isEmpty then l.lastTx else (s.at_ t).now })) port)) ∧
    (∀ w, (linkOf s port).wait = some w → due (s.at_ t).now w (us 2) = true →
      exec (.receiverWaitTimeout port t) s = .next (runCheck (onLink (s.at_ t) port fun l =>
        { l with nakDue := true, rxRun := l.rxRun + 1, wait := some (s.at_ t).now }) port)) ∧
    (∀ cause, portUp s port = true → cause = failREPLAY ∨ cause = failSIGNAL ∨ cause = failOVERRUN ∨ cause = failDISABLED →
      exec (.linkFail port cause) s = .next (failLink s port cause)) ∧
    (portUp s port = true → (linkOf s port).sleepRx = false → due (s.at_ t).now (linkOf s port).lastGood (us 1) = true →
      exec (.lossOfSignal port t) s = .next (failLink (s.at_ t) port failSIGNAL)) ∧
    (maySleep (s.at_ t) port (s.at_ t).now = true → exec (.sleepEnter port t) s =
      let s := onLink (s.at_ t) port fun l => { l with mgmt := (0x10, 0) :: l.mgmt }
      .next (capCheck (onLink (sendFlit s port (flitWith s port t [] 0 false false true false)) port
        fun l => { l with sleepTx := true }) false)) ∧
    (portUp s port = true → flitWaits s port = true → exec (.sleepWake port) s = .next (wakeTx s port))

/-- Lock, search, bring-up steps, identity and delay measurement change the link as the bring-up rules say (R463, R464,
R467, R468, R471, R472, 10_links.md). -/
def Obligations.LinksComeUp : Prop :=
  ∀ (s : State) (port : Fin 64), Running s →
    (∀ (lane : Fin 256) found blocks inverted, exec (.markerLock lane ⟨found, blocks⟩ inverted) s =
      .next (onLane s lane fun l => laneSync l found blocks inverted)) ∧
    (∀ pend, (linkOf s port).step = 3 → (linkOf s port).searchOwner = false → linkServed s port = true →
      (linkOf s port).pending ≠ [] → pend = ((linkOf s port).pending.filter fun n => !(laneOf s n).lock) →
      (pend = [] → exec (.linkSearchStep port) s = .next (onLink s port fun l => { l with pending := [] })) ∧
      (pend ≠ [] → (linkOf s port).pos + 1 < 256 → exec (.linkSearchStep port) s =
        .next (onLink (slipLanes (onLink s port fun l => { l with pending := pend }) pend) port
          fun l => { l with pos := l.pos + 1 })) ∧
      (pend ≠ [] → 256 ≤ (linkOf s port).pos + 1 → exec (.linkSearchStep port) s =
        .next (failStep (onLink (slipLanes (onLink s port fun l => { l with pending := pend }) pend) port
          fun l => { l with pos := l.pos + 1 }) port failALIGN))) ∧
    ((linkOf s port).step = 3 → (linkOf s port).searchOwner = false → linkServed s port = true →
      (linkOf s port).pending = [] → exec (.linkSearchStep port) s =
        .next (if (lanesOf port).all fun n => (laneOf s n).lock then s else failStep s port failALIGN)) ∧
    (linkServed s port = true → exec (.linkBringupStep port .pass) s = .next (passStep s port)) ∧
    (∀ l, linkServed s port = true → exec (.linkBringupStep port (.marks l)) s = .next (deskew s port l)) ∧
    (∀ c, linkServed s port = true → exec (.linkBringupStep port (.fail c)) s = .next (failStep s port c)) ∧
    (∀ far, (linkOf s port).step = 6 →
      (farAgrees (planOf s port) far = true → exec (.idExchange port far) s = .next
        (onLink (onLink s port fun l => { l with far := far }) port fun l => { l with farSeen := true })) ∧
      (farAgrees (planOf s port) far = false → exec (.idExchange port far) s =
        .next (stayOut (onLink s port fun l => { l with far := far }) port failIDENTITY))) ∧
    (∀ stamp turn, flitsRun (linkOf s port) = true → exec (.ping port stamp turn) s =
      .next (onLink s port fun l => { l with mgmt := (0x09, BitVec.ofNat 32 turn) :: l.mgmt })) ∧
    (∀ dep arr turn, (linkOf s port).step = 7 → (linkOf s port).trips.length < 16 → exec (.echo port dep arr turn) s =
      let trips := (linkOf s port).trips ++ [arr - dep - turn]
      .next (onLink s port fun l => { l with
        trips := trips, delay := if trips.length = 16 then Nat.min 1023 (medianDelay trips) else l.delay }))

/-- Opcode and operation of the scalar instructions (R361). -/
def scalarRows : List ((GroupId → Instr) × Nat × (BitVec 64 → BitVec 64 → BitVec 64)) :=
  [(.add, 0x01, fun x y => x + y), (.sub, 0x02, fun x y => x - y), (.mul, 0x03, fun x y => x * y),
   (.and, 0x04, fun x y => x &&& y), (.or, 0x05, fun x y => x ||| y), (.xor, 0x06, fun x y => x ^^^ y),
   (.shl, 0x07, fun x y => x <<< (y.toNat % 64)), (.shr, 0x08, fun x y => x >>> (y.toNat % 64)),
   (.sar, 0x09, fun x y => x.sshiftRight (y.toNat % 64)), (.min, 0x0A, fun x y => if x.slt y then x else y),
   (.max, 0x0B, fun x y => if x.slt y then y else x)]

/-- A scalar instruction writes its result to its destination in the active threads only, and changes nothing else
(R284, R359, R360, 07_crucible_programs.md). -/
def Obligations.ScalarInstructionsCompute : Prop :=
  ∀ row ∈ scalarRows, ∀ (s : State) (g : GroupId) (c : Ctx), Issues s g row.2.1 c →
    ∃ gr : Group, exec (row.1 g) s =
        .next (onGroup (supersede (served s c) c.p c.g c.i.d (activeThreads c.gr)) c.p c.g fun _ => gr) ∧ gr.pc = c.gr.pc + 1 ∧
      (∀ th r, r < 32 → getT gr th r =
        if th ∈ activeThreads c.gr ∧ r = c.i.d ∧ r ≠ 0
        then row.2.2 (tA c th) (if c.i.f = 1 then c.i.sext else tB c th) else getT c.gr th r) ∧
      { gr with pc := c.gr.pc, regs := c.gr.regs } = c.gr

/-- Immediate, compare, branch, mask, end, fence, counter and mailbox instructions have their effect (R353, R359, R360,
R361, 07_crucible_programs.md). -/
def Obligations.ControlInstructionsRun : Prop :=
  ∀ (s0 : State) (g : GroupId) (c : Ctx), let s := served s0 c
    (Issues s0 g 0x0C c → exec (.li g) s0 = .next (nextPc (setAll s c fun th => if c.i.f = 0 then c.i.sext
      else (c.i.imm.setWidth 64 <<< 32) ||| ((tD c th).setWidth 32).setWidth 64) c)) ∧
    (Issues s0 g 0x0D c → exec (.sread g) s0 = .next (doSread c s)) ∧
    (Issues s0 g 0x0E c → exec (.cmp g) s0 =
      .next (nextPc (setAll s c fun th => if Machine.cond c.i.f (tA c th) (tB c th) then 1 else 0) c)) ∧
    (Issues s0 g 0x18 c → exec (.jmp g) s0 = .next (onGr s c fun gr => { gr with pc := c.i.uimm })) ∧
    (Issues s0 g 0x19 c → exec (.bany g) s0 = .next (onGr s c fun gr => { gr with
      pc := if (activeThreads c.gr).any fun th => tA c th != 0 then c.i.uimm else c.gr.pc + 1 })) ∧
    (Issues s0 g 0x1A c → exec (.ball g) s0 = .next (onGr s c fun gr => { gr with
      pc := if (activeThreads c.gr).all fun th => tA c th != 0 then c.i.uimm else c.gr.pc + 1 })) ∧
    (Issues s0 g 0x1B c → exec (.act g) s0 = .next (nextPc (onGr s c fun gr => { gr with
      mask := if c.i.f = 0 then c.gr.mask &&& maskOf (fun th => tA c th != 0) else c.i.imm }) c)) ∧
    (Issues s0 g 0x1C c → exec (.msave g) s0 =
      .next (nextPc (onGr s c fun gr => setM gr c.i.d (c.gr.mask.setWidth 64)) c)) ∧
    (Issues s0 g 0x1D c → exec (.mrest g) s0 =
      .next (nextPc (onGr s c fun gr => { gr with mask := (getM c.gr c.i.a).setWidth 32 }) c)) ∧
    (Issues s0 g 0x1E c → exec (.endGroup g) s0 = .next (doEnd c s)) ∧
    (Issues s0 g 0x27 c → exec (.crucibleFence g) s0 = .next (nextPc s c)) ∧
    (Issues s0 g 0x28 c →
      ((activeThreads c.gr).all fun th => counterHeld s c.pr.tenant ((tA c th).toNat % 65536)) = true →
      exec (.cread g) s0 = .next (nextPc (setAll s c fun th => counterValue s ((tA c th).toNat % 65536)) c)) ∧
    (Issues s0 g 0x29 c → exec (.mbox g) s0 = .next (mboxDeliver 1 (onProg
      (onGr s c fun gr => { gr with mboxWait := some c.i.d }) c.p fun pr => { pr with mboxQ := pr.mboxQ ++ [c.g] }) c.p))

/-- Scratch accesses and requests through handles have their effect where no check of theirs faults (R288, R360, R362,
07_crucible_programs.md). -/
def Obligations.MemoryInstructionsRun : Prop :=
  ∀ (s0 : State) (g : GroupId) (c : Ctx), let s := served s0 c
    (Issues s0 g 0x20 c → scratchFault c (addrA c) 8 8 = none → exec (.lds g) s0 =
      .next (nextPc (setAll s c fun th => BitVec.ofNat 64 (leNat (scratchRead s c.p c.pr (addrA c th) 8))) c)) ∧
    (Issues s0 g 0x21 c → scratchFault c (addrA c) 8 1 = none → exec (.sts g) s0 =
      .next (nextPc ((activeThreads c.gr).foldl (fun s th =>
        scratchWrite s c.p c.pr (addrA c th) (leBytes 8 (tB c th).toNat)) s) c)) ∧
    (Issues s0 g 0x22 c → activeThreads c.gr ≠ [] → handleBad s c true = false → rawMode c = true →
      scratchFault c (fun th => (tC c th).toNat) (rowSize c) 64 = none → exec (.gather g) s0 =
        .next (requestAll s c fun th =>
          { newReq c th ((tA c th).toNat * rowSize c) (rowSize c) .raw with scr := (tC c th).toNat })) ∧
    (Issues s0 g 0x22 c → activeThreads c.gr ≠ [] → handleBad s c true = false → rawMode c = false →
      gatherBad c = false → exec (.gather g) s0 = .next (requestAll s c fun th =>
        newReq c th ((tA c th).toNat * rowSize c) (rowSize c) (.pool c.i.d c.i.f ((tC c th).setWidth 32)))) ∧
    (Issues s0 g 0x23 c → activeThreads c.gr ≠ [] → handleBad s c true = false → exec (.ldg g) s0 =
      .next (requestAll (supersede s c.p c.g c.i.d (activeThreads c.gr)) c fun th => { newReq c th (tA c th).toNat 8 (.ldg c.i.d) with lines := 1 })) ∧
    (Issues s0 g 0x24 c → activeThreads c.gr ≠ [] → handleBad s c true = false → exec (.atom g) s0 =
      .next (requestAll (supersede s c.p c.g c.i.d (activeThreads c.gr)) c fun th => { newReq c th (tA c th).toNat c.i.uimm
        (.atom c.i.d c.i.f c.i.uimm (tC c th) (tD c th)) with lines := 1 })) ∧
    (Issues s0 g 0x25 c → activeThreads c.gr ≠ [] → handleBad s c false = false →
      scratchFault c (fun th => (tC c th).toNat) c.i.uimm 1 = none → exec (.crucibleStore g) s0 =
        .next ((activeThreads c.gr).foldl (fun s th =>
            sendAll s c th .store opSTORE 0 (cruCounterTag (c.i.f == 1) (tD c th)) (tA c th).toNat
              (scratchRead s c.p c.pr (tC c th).toNat c.i.uimm))
          (nextPc (onGr s c fun gr => { gr with nextSeq := c.gr.nextSeq + 1 }) c))) ∧
    (Issues s0 g 0x26 c → activeThreads c.gr ≠ [] → handleBad s c false = false → exec (.signal g) s0 =
      .next ((activeThreads c.gr).foldl (fun s th =>
          if (tA c th).toNat % 8 ≠ 0 then memFailed s (newReq c th (tA c th).toNat 8 .signal) stFormatUnsupported
          else sendAll s c th .signal opWRITE 1 (cruCounterTag (c.i.f == 1) (tC c th)) (tA c th).toNat
            (leBytes 8 (tD c th).toNat))
        (nextPc (onGr s c fun gr => { gr with nextSeq := c.gr.nextSeq + 1 }) c)))

/-- Pool slots, exact accumulators, weight tiles and the array have their effect where no check of theirs faults (R303,
R305, R309, R360, R363, R364, R365, 07_crucible_programs.md). -/
def Obligations.AccumulatorInstructionsRun : Prop :=
  ∀ (s0 : State) (g : GroupId) (c : Ctx), let s := served s0 c
    (Issues s0 g 0x30 c → c.gr.slots.has c.i.a = false →
      targetTaken c (poolSlotOf c.i) = false → exec (.poolOpen g) s0 =
        .next (nextPc (onGr (clearTarget s c (poolSlotOf c.i)) c fun gr =>
          { gr with slots := gr.slots.set c.i.a (poolSlotOf c.i) }) c)) ∧
    (Issues s0 g 0x31 c → exec (.poolClose g) s0 =
      .next (nextPc (onGr s c fun gr => { gr with slots := gr.slots.erase c.i.a }) c)) ∧
    (Issues s0 g 0x32 c → exec (.aclr g) s0 = .next (nextPc (onAccs s c fun _ _ => default) c)) ∧
    (Issues s0 g 0x33 c → exec (.aadd g) s0 = .next (nextPc (onAccs s c fun i a =>
      a.addNum (decodeElem c.i.f ((vLanes (fmtBits c.i.f) (getV c.gr c.i.a)).getD i 0))) c)) ∧
    (Issues s0 g 0x34 c → exec (.aread g) s0 = .next (nextPc (onGr s c fun gr => setV gr c.i.d (vOf (fmtBits c.i.f)
      ((vLanes (fmtBits c.i.f) (getV c.gr c.i.d)).mapIdx fun i v =>
        if i < c.i.uimm then (accOf c.pr (c.i.a + i)).readOut c.i.f else v))) c)) ∧
    (Issues s0 g 0x35 c → scratchOk c.pr (uni c.gr c.i.b).toNat (48 * c.i.uimm) = true → exec (.asave g) s0 =
      .next (nextPc (scratchWrite s c.p c.pr (uni c.gr c.i.b).toNat
        ((List.range c.i.uimm).flatMap fun i => (accOf c.pr (c.i.a + i)).image)) c)) ∧
    (Issues s0 g 0x36 c → scratchOk c.pr (uni c.gr c.i.b).toNat (48 * c.i.uimm) = true → exec (.aimg g) s0 =
      .next (nextPc (onAccs s c fun i x => x.addImage (Accum.ofImage
        (((scratchRead s c.p c.pr (uni c.gr c.i.b).toNat (48 * c.i.uimm)).drop (48 * i)).take 48))) c)) ∧
    (Issues s0 g 0x38 c → scratchOk c.pr (uni c.gr c.i.a).toNat (vecsSize c.i.f 128) = true → exec (.wload g) s0 =
      .next (nextPc (onProg s c.p fun pr => { pr with
        shadow := some ⟨c.i.f, scratchRead s c.p c.pr (uni c.gr c.i.a).toNat (vecsSize c.i.f 128)⟩ }) c)) ∧
    (Issues s0 g 0x39 c → exec (.wswap g) s0 =
      .next (nextPc (onProg s c.p fun pr => { pr with live := pr.shadow, shadow := pr.live }) c)) ∧
    (∀ t, Issues s0 g 0x3A c → c.pr.live = some t → t.fmt = c.i.f →
      scratchOk c.pr (uni c.gr c.i.a).toNat (vecsSize c.i.f (c.i.uimm % 65536)) = true →
      scratchOk c.pr (uni c.gr c.i.b).toNat (512 * (c.i.uimm % 65536)) = true →
      exec (.mma g) s0 = .next (nextPc (onEngine ((List.range (c.i.uimm % 65536)).foldl (fun s k =>
          mmaVector s c t ((uni c.gr c.i.a).toNat + k * vecStride c.i.f) ((uni c.gr c.i.b).toNat + 512 * k)
            (bitOf c.i.uimm 16)) s) (c.p / 16) fun e =>
        { e with busy := (e.busy + c.i.uimm % 65536 * vecSteps c.i.f) % 2 ^ 64 }) c))

/-- Vector, conversion and random-number instructions write their vector or scratch and step the program counter (R284,
R314, R316, R317, R319, R360, R366, 07_crucible_programs.md). -/
def Obligations.VectorInstructionsRun : Prop :=
  ∀ (s0 : State) (g : GroupId) (c : Ctx), let s := served s0 c
    (Issues s0 g 0x40 c → scratchOk c.pr (uniAddr c c.i.a) 256 = true → exec (.vld g) s0 = .next (nextPc (onGr s c fun gr =>
      setV gr c.i.d (BitVec.ofNat 2048 (leNat (scratchRead s c.p c.pr (uniAddr c c.i.a) 256)))) c)) ∧
    (Issues s0 g 0x41 c → scratchOk c.pr (uniAddr c c.i.b) 256 = true → exec (.vst g) s0 =
      .next (nextPc (scratchWrite s c.p c.pr (uniAddr c c.i.b) (leBytes 256 (getV c.gr c.i.a).toNat)) c)) ∧
    (∀ (mk : GroupId → Instr) op (f : Nat → Nat → Nat → Nat),
      (mk, op, f) ∈ [(Instr.vadd, 0x42, laneOp (· + ·) Machine.Num.add),
        (Instr.vsub, 0x43, laneOp (· - ·) fun x y => Machine.Num.add x y.neg), (Instr.vmul, 0x44, laneOp (· * ·) Machine.Num.mul),
        (Instr.vmax, 0x46, laneOp max Machine.Num.maxN), (Instr.vmin, 0x47, laneOp min Machine.Num.minN)] →
      Issues s0 g op c → exec (mk g) s0 = .next (nextPc (onGr s c fun gr => setV gr c.i.d (vOf (fmtBits c.i.f)
        (List.zipWith (f c.i.f) (vLanes (fmtBits c.i.f) (getV c.gr c.i.a)) (vLanes (fmtBits c.i.f) (getV c.gr c.i.b))))) c)) ∧
    (Issues s0 g 0x45 c → exec (.vfma g) s0 = .next (nextPc (onGr s c fun gr => setV gr c.i.d (vOf (fmtBits c.i.f)
      (List.zipWith (fun x z =>
          encode c.i.f (Machine.Num.add (Machine.Num.mul (decodeElem c.i.f x.1) (decodeElem c.i.f x.2)) (decodeElem c.i.f z)) .rne)
        (List.zip (vLanes (fmtBits c.i.f) (getV c.gr c.i.a)) (vLanes (fmtBits c.i.f) (getV c.gr c.i.b)))
        (vLanes (fmtBits c.i.f) (getV c.gr c.i.c))))) c)) ∧
    (Issues s0 g 0x48 c → exec (.vbcast g) s0 = .next (nextPc (onGr s c fun gr => setV gr c.i.d (vOf (fmtBits c.i.f)
      (List.replicate (2048 / fmtBits c.i.f) ((uni c.gr c.i.a).toNat % 2 ^ fmtBits c.i.f)))) c)) ∧
    (Issues s0 g 0x49 c → exec (.vcvt g) s0 = .next (doVcvt c s)) ∧
    (Issues s0 g 0x4A c → scratchOk c.pr (uni c.gr c.i.b).toNat (8 * fmtBits c.i.f + 2) = true →
      exec (.vpack g) s0 = .next (doVpack c s)) ∧
    (Issues s0 g 0x4C c → exec (.rngset g) s0 = .next (nextPc (onGr s c fun gr => { gr with
      seed := uni c.gr c.i.a, stream := uni c.gr c.i.b, counter := uni c.gr c.i.c }) c)) ∧
    (Issues s0 g 0x4D c → exec (.rng g) s0 = .next (nextPc (onGr s c fun gr => { setV gr c.i.d (vOf 32
        ((randomWords c.gr.seed c.gr.stream c.gr.counter 16).map BitVec.toNat)) with
      counter := c.gr.counter + 16 }) c))

/-- Line requests return, a paused program is shed after 100 ms, and a program that ends is cleared when it is quiet
(R290, R329, R354, R355, R369, R371, 07_crucible_programs.md). -/
def Obligations.ProgramsEndAndRequestsReturn : Prop :=
  ∀ (s : State), Running s →
    (∀ id fs q pr, lineReq? s id = some q → prog? s q.prog = some pr → q.issued = true → q.status = none → q.lines ≠ 0 →
      lineWaits s id = false → exec (.lineRequestReturn id fs) s = .next (serveLine s q pr fs)) ∧
    (∀ (p : BitVec 8) t pr t0, prog? s p.toNat = some pr → (engineOf s (p.toNat / 16)).pausedAt = some t0 →
      pr.state = .running → paused s (p.toNat / 16) = true → due (s.at_ t).now (Nat.max t0 (pr.launchAt.getD 0)) (ms 100) = true →
      exec (.capShed p t) s = .next (endProg (s.at_ t) p.toNat stCapShed none)) ∧
    (∀ (p : BitVec 8) pr, prog? s p.toNat = some pr → pr.state = .ending → progQuiet s p.toNat = true →
      exec (.programEndClear p) s =
        let s := traceProgram (countEnd (clearProg s p.toNat pr) p.toNat pr.status) p.toNat (p.toNat / 16) 3 pr.status pr.tenant
        .next (postProg s pr.tenant pr.owner (progRecord s p.toNat ((prog? s p.toNat).getD pr))))

/-- The operations of the ZE-208's queues and channels: the command, its queue and its opcode (R555, R559). -/
def EpOperation (c : Instr) (i op : Nat) : Prop :=
  (∃ q : Fin 32, i = q.val ∧ (c, op) ∈ [(.opRead q, 0x01), (.opWrite q, 0x02), (.opAtomic q, 0x03), (.opFence q, 0x04),
    (.opFlush q, 0x05), (.opInval q, 0x06), (.opCounterRead q, 0x07)]) ∨
  (∃ n : Fin 64, i = 32 + n.val ∧ (c, op) ∈ [(.copyOut n, 0x10), (.copyIn n, 0x11), (.contrib n, 0x12), (.tileFence n, 0x14)])

/-- A queue or channel of the ZE-208 takes its next operation, and starts it or ends it by its first failing check
(R552, R553, R554, R555, R556, R559, R560, 12_endpoint_block.md). -/
def Obligations.EndPointOperationsStart : Prop :=
  ∀ (s : State) (c : Instr) (i op : Nat), EpOperation c i op → epTakeable s.ep i = true →
    EpDesc.op (epNext s.ep i) = op → epOp? s.ep i (epQ s.ep i).taken = none →
    (op = 0x12 → contribOp s.ep (contribBinding (epNext s.ep i)) = none) →
    let k := (epQ s.ep i).taken
    let d := epNext s.ep i
    let s1 := (onEpQ s i fun q => { q with taken := q.taken + 1 }).onEp fun e => { e with ops := e.ops ++ [EpOp.fresh i k d] }
    (epCheck s1.ep i d = none → exec c s = .next (atEp (epStepAll
      (if op = 0x12 then contribGo (epStart s1 i k d) (contribBinding d) else epStart s1 i k d)) id)) ∧
    (∀ st, epCheck s1.ep i d = some st → exec c s = .next (atEp (epStepAll (epDecide s1 i k st 0)) id))

/-- Doorbells, window reads, counter writes and the ends of D2D accesses have their effect on the ZE-208 (R545, R549,
R551, R552, R553, R557, R576, 12_endpoint_block.md). -/
def Obligations.EndPointWindowAndDoorbells : Prop :=
  ∀ (s : State),
    (∀ (i : Fin 96) prod ds, (epQ (onEpQ s i fun q => writeSlots q (epDepth i) q.prod ds).ep i).state ≠ .disabled →
      exec (.prodDoorbell i prod ds) s = .next (onEpQ (onEpQ s i fun q => writeSlots q (epDepth i) q.prod ds) i fun q =>
        { q with prod := prod, state := if (prod - (epQ (onEpQ s i fun q => writeSlots q (epDepth i) q.prod ds).ep i).taken).toNat
            > epDepth i then .halted else q.state })) ∧
    (∀ (i : Fin 96) target tag, (epQ s.ep i).state = .disabled ∨
      (s.ep.d2d.any (fun d => d.use == .abortRec i) || s.ep.ops.any fun o => o.i == i.val && o.abortTag.isSome) = true →
      exec (.abortDoorbell i target tag) s = .next (atEp (badDoorbell s) id)) ∧
    (∀ (i : Fin 96) target tag, (epQ s.ep i).state ≠ .disabled →
      (s.ep.d2d.any (fun d => d.use == .abortRec i) || s.ep.ops.any fun o => o.i == i.val && o.abortTag.isSome) = false →
      ((epQ s.ep i).prod - target).toNat < 1 ∨ ((epQ s.ep i).prod - target).toNat > epDepth i →
      exec (.abortDoorbell i target tag) s = .next (atEp (epAbortRecord s i target tag stOutOfRange) id)) ∧
    (∀ (i : Fin 96) target tag, (epQ s.ep i).state ≠ .disabled →
      (s.ep.d2d.any (fun d => d.use == .abortRec i) || s.ep.ops.any fun o => o.i == i.val && o.abortTag.isSome) = false →
      1 ≤ ((epQ s.ep i).prod - target).toNat → ((epQ s.ep i).prod - target).toNat ≤ epDepth i →
      let ends := fun u : State => exec (.abortDoorbell i target tag) s = .next (atEp u id)
      (epOp? s.ep i target = none →
        ((epQ s.ep i).prod - target).toNat ≤ ((epQ s.ep i).prod - (epQ s.ep i).taken).toNat →
        ends (epStepAll (epAbortRecord (epDecide (s.onEp fun e => { e with ops := e.ops ++
          [EpOp.fresh i target ((epQ s.ep i).slots.getD (target.toNat % epDepth i) 0)] }) i target stAborted 0)
          i target tag stOk))) ∧
      (epOp? s.ep i target = none →
        ((epQ s.ep i).prod - (epQ s.ep i).taken).toNat < ((epQ s.ep i).prod - target).toNat →
        ends (epAbortRecord s i target tag stAlreadyDone)) ∧
      (∀ o, epOp? s.ep i target = some o → recordOut s.ep o = true → ends (epAbortRecord s i target tag stAlreadyDone)) ∧
      (∀ o row, epOp? s.ep i target = some o → recordOut s.ep o = false → o.status = none → firstRow s.ep o = some row →
        ends (epStepAll (epAbortRecord (epDecide (dropWaiting s i target) i target stAborted row) i target tag stOk))) ∧
      (∀ o, epOp? s.ep i target = some o → recordOut s.ep o = false → (o.status.isSome = true ∨ firstRow s.ep o = none) →
        ends (onOp s i target fun o => { o with abortTag := some tag }))) ∧
    (∀ o tag, exec (.winRd o tag) s = .next (s.emit (.winCpl o.toNat tag (winWord s.ep o.toNat)))) ∧
    (∀ (k : Fin 4096) v, exec (.winCounterWrite k v) s =
      .next (s.onEp fun e => { e with counters := e.counters.set k v })) ∧
    (∀ tag ok data d, d2dOf s.ep tag true = some d →
      exec (.mrdCpl tag ok data) s = .next (atEp (mrdEnd s d ok (padTo d.len data)) id)) ∧
    (∀ tag ok d, d2dOf s.ep tag false = some d → exec (.mwrCpl tag ok) s = .next (atEp (mwrEnd s d ok) id)) ∧
    (∀ tag t d, (s.ep.d2d.find? fun d => d.tag == tag && d.sent && due (s.epAt t).ep.now d.issued (us 10)) = some d →
      exec (.d2dTimeout tag t) s =
        .next (atEp (if d.isRead then mrdEnd (s.epAt t) d false [] else mwrEnd (s.epAt t) d false) id)) ∧
    (∀ dst t, exec (.avoidanceExpire dst t) s = .next (atEp (onEpXp (s.epAt t) fun x =>
      { x with avoid := x.avoid.filter fun a => !decide (a.1 = dst ∧ a.2.2 ≤ (s.epAt t).ep.now) }) id))

/-- Port enable, configuration, link loss, D2D loss and thermal trip change the ZE-208 as its life cycle says (R34,
R574, R582, R583, R584, R586, R587, 12_endpoint_block.md). -/
def Obligations.EndPointComesAndGoes : Prop :=
  ∀ (s : State),
    (∀ (m : BitVec 2) o regs,
      let u := s.onEp fun e => { regs.foldl epSideband e with
        enable := 3, override_ := o, m0 := m.getLsbD 0, m1 := m.getLsbD 1 }
      exec (.portEnable ⟨m, 3⟩ o regs) s = .next (if m = 0 then u else epTrain (epTrain u 0) 1)) ∧
    (∀ node inc locked, s.ep.trip = false → s.ep.enable ≠ 0 → isSwitch node = false → s.ep.configured = false →
      exec (.epConfigure node inc locked) s = .next (s.onEp fun e => { if locked then epEmptied e else e with
        ep0 := e.enable.getLsbD 0, ep1 := e.enable.getLsbD 1, nodeId := node, incarnation := inc, configured := locked
        cellNode := BitVec.ofNat 16 (0x8000 + rackOf node * 256 + epSwOf node * 2)
        xp := setIncOf e.xp node inc
        tn := if locked then { e.tn with lock := .locked } else e.tn })) ∧
    exec .ep0LinkLoss s = .next (atEp (epLosePort s 0) id) ∧
    exec .epConfigLoss s = .next (atEp (epLosePort (epLosePort s 1) 0) id) ∧
    (s.ep.m0 = true ∨ s.ep.m1 = true →
      exec .d2dLinkDown s = .next (reportEpDown (s.onEp fun e => { e with m0 := false, m1 := false }) 2)) ∧
    (∀ temp, 115 ≤ temp → exec (.epThermalTrip temp) s = .next (atEp (epLosePort (epLosePort
      ((((reportEpDown (epTemp s temp) 3).emit (.lanesOff 64)).emit (.lanesOff 65)).onEp
        fun e => { e with trip := true }) 1) 0) id)) ∧
    (∀ temp, temp < 115 → exec (.epThermalTrip temp) s = .next (epTemp s temp)) ∧
    (∀ temp, (epTemp s temp).ep = { s.ep with temp := temp, thermN := decide (105 ≤ temp) })

/-- Patrol scrub, stack loss, refresh changes and rebuild write-backs have their effect on an in-service stack (R66,
R175, R417, R430, R444, R446, R450, 09_pool_integrity.md). -/
def Obligations.PoolCommandsAnswer : Prop :=
  ∀ (s : State) (k : Fin 16), Running s →
    (∀ fs, stackUp s k = true → nthGranule (patrolSpans s k) ((s.stack k).cursor / 1024) = none →
      exec (.patrolScrubRead k fs) s =
        .next (s.onStack k fun t => { t with cursor := 0, granules := 0, passes := t.passes + 1 })) ∧
    (∀ fs g, stackUp s k = true → nthGranule (patrolSpans s k) ((s.stack k).cursor / 1024) = some g →
      exec (.patrolScrubRead k fs) s =
        let u := (scrubLine s (g * 1024 + (s.stack k).cursor % 1024) fs).onStack k fun t =>
          { t with cursor := t.cursor + 1, granules := (t.cursor + 1) / 1024 }
        .next (if (nthGranule (patrolSpans s k) (((s.stack k).cursor + 1) / 1024)).isNone
          then u.onStack k fun t => { t with cursor := 0, granules := 0, passes := t.passes + 1 } else u)) ∧
    (stackUp s k = true → exec (.stackLost k) s = .next (declareStackLost s k)) ∧
    (∀ temp, quadUp s (k.val / 4) = true → exec (.refreshRateChange k temp) s =
      .next (s.onStack k fun t => { t with temp := temp, refresh := refreshNext t.refresh temp })) ∧
    (∀ line w, (s.pool.rebuildWb.find? fun w => w.line == line) = some w →
      let u := bumpCorrected ((s.onPool fun p => { p with rebuildWb := p.rebuildWb.erase w }).onStack (lineStack line)
        fun t => { t with rebuilt := bump t.rebuilt })
      (protectedHome u line = none → exec (.rebuildWriteback line) s = .next u) ∧
      (∀ h, protectedHome u line = some h → exec (.rebuildWriteback line) s = .next (rebuildReport
        (setBook u h.ri { bookOf u h.ri with rebuilds := (bookOf u h.ri).rebuilds ++ [w] }) h.ri)))

/-- Staged commands activate, publications finish, regions free their granules, scrubs and measurements end (R37, R109,
R175, R701, R703, R705, R706, R708, 02_naming_regions.md). -/
def Obligations.RegionsAndPublicationsEnd : Prop :=
  ∀ (s : State), Running s →
    (∀ t, exec (.stagedActivate t) s =
      let u := if s.ep.tn.lock = .unlocked then s.reachTick t else (s.reachTick t).epReachTick t
      let u := runnersGo ((dueStaged u).foldl activateOne u)
      let u := rebuildsGo (rowCapsDone (rowCapsGo u.pwr.rowStaged.length u))
      .next (settle (atEp (pump (carriedInGo u.hif.carriedIn.length u)) epStagedGo))) ∧
    (∀ (ri : BitVec 16) t p r q, (s.coh.publishes.find? fun p => p.region == ri.toNat) = some p →
      s.region? p.region = some r → s.region? p.source = some q → r.destroying = false → q.destroying = false →
      bankRead (s.at_ t) p.region r (p.version % 2) = false →
      (Desc.staged p.desc = false ∨ Desc.activate p.desc ≤ (s.at_ t).now) → ownedOf (s.at_ t) p.source = [] →
      (∀ b ∈ s.coh.blocked, b.who ≠ .publish p.region) →
      (∀ m ∈ s.partnerW, m.who ≠ .publish p.region ∧ m.reg ≠ p.source) →
      (∀ fs, let x := sourceRead (publishWaits (s.at_ t) p.region) p.source q fs []
        wantsOf x.2 = [] → exec (.castCopyDone ri t fs) s = .next (endPublish x.1 p r x.2))) ∧
    (∀ (ri : BitVec 16) r, s.region? ri.toNat = some r → r.destroying = true → regionIdle s ri.toNat = true →
      (∀ j ∈ s.rgn.pageJobs, j.region ≠ ri.toNat) →
      (∀ p ∈ s.coh.publishes, p.region ≠ ri.toNat ∧ p.source ≠ ri.toNat) →
      exec (.regionFree ri) s = .next (freeRegionNow s ri.toNat r)) ∧
    (∀ (i : BitVec 12) b, s.sec.scrubs.get? i.toNat = some b → scrubDone s (BitVec.ofNat 16 i.toNat) b = true →
      exec (.tenantScrubDone i) s =
        let rcd := scrubRecord s (BitVec.ofNat 16 i.toNat) b
        let u := s.onRgn fun g => { g with tenants := g.tenants.modify i.toNat fun x => { x with state := .free } }
        .next (bothEvent (u.onSec fun c => { c with
          scrubs := c.scrubs.erase i.toNat, scrubN := (c.scrubN + 1) % 2 ^ 32
          scrubRecs := keepLast 64 (c.scrubRecs ++ [rcd]) }) rcd)) ∧
    (∀ (ri : BitVec 16) t fs m r v vs, measureOf? s ri.toNat = some m → s.region? ri.toNat = some r → m.running = v :: vs →
      homedOn s compATTEST 1 = true → r.isScratch = true →
      exec (.measureDone ri t fs) s =
        .next (measureEnd (s.at_ t) ri.toNat v (some (shake256 (readScratch (s.at_ t) r 0 r.bytes)))))

/-- Signed reports leave, updates commit or roll back, compartments and cores restart, flash writes end (R698, R711,
R713, R714, R716, R717, R756, 15_security_firmware.md). -/
def Obligations.SecurityCommandsAnswer : Prop :=
  ∀ (s : State), Running s →
    (∀ t q rest, s.sec.queue = q :: rest → homedOn s compATTEST 1 = true → dmaOk s (originPort q.origin) = true →
      exec (.reportSigned t) s =
        let u := (s.at_ t).onSec fun c => { c with queue := rest, reportsN := bump c.reportsN }
        .next (complete (dmaWrite u (originPort q.origin) (Desc.fld q.desc 56 8) (wholeReport u q.body)) q.origin q.desc stOk
          (leBytes 4 (wholeReport u q.body).length))) ∧
    (∀ t u, updating s = some u → homedOn s compUPDATE 1 = true → (s.at_ t).now ≤ u.began + ms 500 →
      exec (.fwCommit t) s =
      let x := (List.range 4).foldl clearHeld ((s.at_ t).onSec fun c => { c with
        fwDigest := u.digest, fwVersion := u.version, updates := c.updates + 1, update := none })
      .next (complete (fwEvent x.stepFree 0x7B (BitVec.ofNat 8 ((compPlace x 1).getD 0)) 0xFF (x.freeWord.setWidth 8) 0)
        u.origin u.desc stOk [])) ∧
    (∀ cause t u, updating s = some u →
      cause = 4 ∨ cause = 7 ∨ (cause = 5 ∧ due (s.at_ t).now u.began (ms 500) = true) →
      exec (.fwRollback cause t) s = .next (rollBack (s.at_ t) cause)) ∧
    (∀ (n : Fin 4) cause t, compPlaced s 0 n = true → compOn s 0 n = true → cause ≤ 2 →
      exec (.compartmentFail n 0 cause t) s = .next (coreRestart (s.at_ t) n cause)) ∧
    (∀ (n : Fin 4) (k : Fin 8) cause t, k ≠ 0 → compPlaced s k n = true → compOn s k n = true → cause ≤ 2 →
      exec (.compartmentFail n k cause t) s =
        let ts := (k.val, (s.at_ t).now) :: (coreOf s n).compTimes.filter fun x => within1s (s.at_ t).now x.2
        let cnt := (ts.filter fun x => x.1 == k.val).length
        let u := fwEvent (onCore (s.at_ t) n fun c => { c with compRestarts := bump c.compRestarts, compTimes := ts })
          0x78 (BitVec.ofNat 8 n) (BitVec.ofNat 8 k) cause cnt
        let u := compResumes (updateFails u (k.val == compUPDATE)) k n
        .next (if cnt ≥ 8 then fwEvent (onCore u n fun c => { c with heldComps := c.heldComps ||| BitVec.ofNat 8 (2 ^ k.val) })
          0x7A (BitVec.ofNat 8 n) (BitVec.ofNat 8 k) cause cnt else u)) ∧
    (∀ (n : Fin 4) cause t, coreRuns s n = true → (coreOf s n).halted = false → cause ≤ 3 →
      exec (.coreFail n cause t) s = .next (coreRestart (s.at_ t) n cause)) ∧
    (∀ ok j, s.sec.flash = some j → j.writing = true → exec (.flashWriteEnd ok) s =
      .next (flashDone (s.onSec fun c => { c with flash := some { j with writing := false, failed := !ok } })))

/-- The JTAG instructions have their effect while VIO is present, whether or not the switch is held in reset (R718,
R719, R720, R721, 15_security_firmware.md). -/
def Obligations.JtagInstructionsAnswer : Prop :=
  ∀ (s : State), s.dev.vio = true →
    exec .bypass s = .next ((tapQuiet s "BYPASS").onDev fun d => { d with tapDr := 0 }) ∧
    exec .idcode s = .next (((tapQuiet s "IDCODE").onDev fun d => { d with tapDr := idcodeValue }).emit (.tdo idcodeValue)) ∧
    exec .samplePreload s = .next (tapQuiet s "SAMPLE/PRELOAD") ∧
    exec .extest s = .next (pinsOut s "EXTEST") ∧
    exec .clamp s = .next (pinsOut s "CLAMP") ∧
    exec .highz s = .next (pinsOut s "HIGHZ") ∧
    (s.dev.held = false → exec (.dapAccess 0) s = .next (closeSession (tapQuiet s "DAP_ACCESS") 0)) ∧
    (∀ l : Fin 3, s.dev.held = false → l ≠ 0 →
      exec (.dapAccess l) s = .next (openSession (tapQuiet s "DAP_ACCESS") 0 l.val none)) ∧
    exec .trstNAssert s = .next (closeSession (tapQuiet s "IDCODE") 0)

/-- Beacons, liveness counts, elections, locks and parent losses act at the switch and at the ZE-208 (R601, R602, R603,
R608, R609, R610, R611, R612, 13_time_faults.md). -/
def Obligations.TimeAndElectionMessagesAct : Prop :=
  ∀ (s : State) (t : Time), Running s →
    (∀ port dst b fr, hears s .zs port.val dst = true → exec (.beacon .zs ⟨port, dst⟩ b t fr) s =
      .next (mgrGo (askTables (refreshCand (traceTimefault (beaconIn .zs port b t fr s) port 0x01 false 0 b.term))))) ∧
    (∀ (port : Fin 64) dst b fr, hears s .ze port.val dst = true →
      exec (.beacon .ze ⟨port, dst⟩ b t fr) s = .next (beaconIn .ze port b t fr s)) ∧
    (∀ part (port : Fin 64), nodeLinkUp s part port = true →
      (∀ x, (tnOf s part).nbrs.get? port = some x → x.sentAt = 0 ∨
        due (nowOf (atPart s part t) part) x.sentAt (beaconEvery (atPart s part t) part port) = true) →
      exec (.beaconSend part port t) s =
        let u := atPart s part t
        .next (onTn (sendVc7 u part port (beaconBytes (beaconNow u part port))) part fun n => { n with
          nbrs := n.nbrs.set port { (n.nbrs.getD port default) with sentAt := nowOf u part } })) ∧
    (∀ e, eligible s = true → s.flt.tn.live.get? s.dev.nodeId.toNat = some e → due (s.at_ t).now e.2 (us 10) = true →
      exec (.livenessTick t) s = .next (refreshCand ((s.at_ t).onFlt fun c => { c with
        liveCount := s.flt.liveCount + 1
        tn := { c.tn with live := c.tn.live.set s.dev.nodeId.toNat (s.flt.liveCount + 1, (s.at_ t).now) } }))) ∧
    (∀ n e, s.flt.tn.live.get? n.toNat = some e → isLive (s.at_ t).now e = false → n = s.flt.tn.manager →
      s.flt.role = false → exec (.livenessAgeout n t) s =
        .next (refreshCand (onTn (s.at_ t) .zs fun n => { n with electing := true }))) ∧
    (∀ c, (refreshCand (s.at_ t)).flt.candSince = some c → s.flt.role = false → due (s.at_ t).now c (us 300) = true →
      s.flt.tn.lock ≠ .unlocked → exec (.takeManagerRole t) s = .next (takeRole (refreshCand (s.at_ t)))) ∧
    (lockReady s .zs = true → exec (.firstLock .zs) s =
      let u := onTn (stepZs s (s.flt.tn.offset.tdiv 16)) .zs fun n => { movedBy n (s.flt.tn.offset.tdiv 16) with lock := .locked }
      .next (traceTime (setMode u (u.flt.rowMode.getD false)))) ∧
    (lockReady s .ze = true → exec (.firstLock .ze) s = .next ((onTn (stepZe s (s.ep.tn.offset.tdiv 16)) .ze
      fun n => { movedBy n (s.ep.tn.offset.tdiv 16) with lock := .locked }).onEp fun e => { e with configured := decide (e.nodeId ≠ 0) && !e.trip })) ∧
    (∀ part p, (tnOf s part).parent = some p → nodeLinkUp s part p = false →
      exec (.parentLoss part t) s = .next (reparent (atPart s part t) part)) ∧
    (∀ (port : Fin 64) dst n map, n ≠ s.dev.nodeId → hears s .zs port.val dst = true →
      exec (.status .zs ⟨port, dst⟩ n map t) s =
      .next (mgrGo (traceTimefault (onTn (s.at_ t) .zs fun x => { x with
        nbrs := x.nbrs.set port { (x.nbrs.getD port default) with map := map, statusAt := some (s.at_ t).now } })
          port 0x12 false n.toNat s.flt.tn.term)))

/-- Reports, probes, decisions, verdicts and drains act at the switch and at the ZE-208 (R613, R614, R615, R616, R617,
R618, R619, R620, R623, R631, 13_time_faults.md). -/
def Obligations.FaultMessagesAct : Prop :=
  ∀ (s : State) (t : Time), Running s →
    (∀ (port : Fin 64) dst m, hears s .zs port.val dst = true → seenKey s .zs (reportKey m) = false →
      exec (.report .zs ⟨port, dst⟩ m) s =
      .next (holdReport (traceTimefault (flood (markSeen s .zs (reportKey m)) .zs (some port.val) (reportBytes m)) port 0x08
        false m.subject.toNat (flood (markSeen s .zs (reportKey m)) .zs (some port.val) (reportBytes m)).flt.tn.term) m)) ∧
    (∀ (port : Fin 64) dst m, hears s .ze port.val dst = true → seenKey s .ze (reportKey m) = false →
      exec (.report .ze ⟨port, dst⟩ m) s = .next (flood (markSeen s .ze (reportKey m)) .ze (some port.val) (reportBytes m))) ∧
    (∀ (port : Fin 64) dst, hears s .ze port.val dst = true → exec (.probe .ze ⟨port, dst⟩) s = .next (sendVc7 s .ze port
      [0x0A, BitVec.ofNat 8 (b2n s.ep.configured + 2 * b2n (s.ep.m0 || s.ep.m1) + 4 * b2n s.ep.trip)])) ∧
    (∀ (port : Fin 64) dst, hears s .zs port.val dst = true → exec (.probe .zs ⟨port, dst⟩) s = .next (sendVc7
      (traceTimefault s.stepFree port 0x09 false 0 s.flt.tn.term) .zs port [0x0A, s.freeWord.setWidth 8])) ∧
    (∀ (port : Fin 64) dst st, s.flt.probes.has port = true → hears s .zs port.val dst = true →
      exec (.probeReply ⟨port, dst⟩ st) s =
      .next (probeEnd s port (isSwitch (nodeAt s port) || decide (st &&& 3 = 3)))) ∧
    (∀ (port : Fin 64) x, s.flt.probes.get? port = some x → due (s.at_ t).now x (us 100) = true →
      exec (.probeTimeout port t) s = .next (probeEnd (s.at_ t) port false)) ∧
    (∀ w, s.flt.window = some w → s.flt.role = true → due (s.at_ t).now w (ms 1) = true → quorum (s.at_ t) = true →
      exec (.decisionWindow t) s = .next (decideLosses (windowSubjects (s.at_ t)) s.flt.spares
        ((s.at_ t).onFlt fun c => { c with window := none }))) ∧
    (∀ (port : Fin 64) dst v, hears s .ze port.val dst = true → s.ep.tn.term ≤ v.term →
      seenKey (adoptTerm s .ze v.term v.manager) .ze (verdictKey v) = false → exec (.verdict .ze ⟨port, dst⟩ v) s =
        .next (atEp (flood (markSeen (adoptTerm s .ze v.term v.manager) .ze (verdictKey v)) .ze (some port.val)
          (verdictBytes v)) fun s => acceptVerdict s .ze v)) ∧
    (∀ (port : Fin 64) dst v, hears s .zs port.val dst = true →
      let u := traceTimefault s port 0x10 false v.subject.toNat v.term
      u.flt.tn.term ≤ v.term → seenKey (adoptTerm u .zs v.term v.manager) .zs (verdictKey v) = false →
      exec (.verdict .zs ⟨port, dst⟩ v) s = .next (acceptVerdict (flood (markSeen (adoptTerm u .zs v.term v.manager) .zs
        (verdictKey v)) .zs (some port.val) (verdictBytes v)) .zs v)) ∧
    exec (.verdictApply .zs t) s = .next (commandsGo ((dueVerdicts s.flt.tn (s.reachTick t).now).foldl
      (fun s v => applyVerdict s .zs v) (s.reachTick t))) ∧
    exec (.verdictApply .ze t) s = .next (atEp ((dueVerdicts s.ep.tn (s.epReachTick t).ep.now).foldl
      (fun s v => applyVerdict s .ze v) (s.epReachTick t)) id) ∧
    (∀ n d, (s.flt.drains.find? fun d => decide (d.subject = n ∧ d.second ≤ (s.reachTick t).now)) = some d →
      exec (.drainSecondInstant n t) s =
        let u := endDrain (s.reachTick t) d
        let u := if u.ep.tn.lock = .unlocked then u else u.epAt t
        .next (if drainDueZe u n = true then atEp u fun s => endDrainZe s n else u)) ∧
    (∀ id m, (s.flt.mgr.find? fun m => m.id == id && !m.decided) = some m → due (s.at_ t).now m.began (ms 10) = true →
      exec (.managerQuorumTimeout id t) s = .next (complete (dropMgr (s.at_ t) id) m.origin m.desc stDestLost [])) ∧
    exec (.rowCapTimeout t) s = .next ((s.pwr.rowSent.filter fun c => due (s.at_ t).now c.sent (ms 10)).foldl endRowCap (s.at_ t))

/-- The governor, the supply recorder, PFW and the thermal limits have their effect when a command calls for it (R653,
R655, R656, R657, R658, R659, R661, R662, R663, R664, R667, R673). -/
def Obligations.PowerCommandsAnswer : Prop :=
  ∀ (s : State) (t : Time), Running s →
    (∀ rs x, s.pwr.openS = some x →
      exec (.sensorWindow t rs) s = .next (closeSupply (takeWindow (extendSupply (s.at_ t) rs x) rs true))) ∧
    (∀ rs, s.pwr.openS = none → (lowSensors (s.at_ t) rs 1).length < 4 →
      exec (.sensorWindow t rs) s = .next (takeWindow (s.at_ t) rs false)) ∧
    (∀ rs, s.pwr.openS = none → 4 ≤ (lowSensors (s.at_ t) rs 1).length → exec (.sensorWindow t rs) s =
      let w := windowDepth (s.at_ t) rs
      let u := openSupply w.1 (w.1.now - 64) w.2 (lowSensors (s.at_ t) rs 1)
      .next (takeWindow (u.onPwr fun p => { p with openS := p.openS.map fun x => { x with duration := 1 } }) rs true)) ∧
    (∀ a, governs s = false → exec (.powerEstimate t a) s =
      let u := s.at_ t
      let e := estAt u a u.pwr.setpoint (dutyNow u) (gatherNow u)
      .next (u.onPwr fun p => { p with
        estimate := e, lastEst := ((u.now, e) :: p.lastEst).filter fun x => decide (u.now ≤ x.1 + us 3) })) ∧
    (∀ c, exec (.estimateCalibrate t c) s = .next ((s.at_ t).onPwr fun p => { p with calib := c })) ∧
    (∀ a d t0, s.pwr.capSince = some t0 → governs s = true → due (s.at_ t).now t0 (us 100) = true →
      exec (.vcoreRetarget t a d) s =
        .next (command ((s.at_ t).onPwr fun p => { p with capSince := none }) (retargetTo (s.at_ t) d))) ∧
    (∀ a, s.pwr.ramping = true → governs s = false →
      exec (.vcoreSettled t a) s = .next ((s.at_ t).onPwr fun p => { p with ramping := false })) ∧
    (∀ a d, governs s = true → s.pwr.ramping = false → s.pwr.capSince = none → s.pwr.fixedLeft = false →
      exec (.headroomCheck t a d) s = .next (if retargetTo (s.at_ t) d = s.pwr.setpoint ∨ s.pwr.vrSilent = true
        then restoreThrottles (s.at_ t) a else command (s.at_ t) (retargetTo (s.at_ t) d))) ∧
    (∀ a d t0, s.pwr.limitsSince = some t0 → s.pwr.fixed = true → s.pwr.fixedLeft = false → governs s = true →
      due (s.at_ t).now t0 (ms 1) = true → exec (.fixedLeft t a d) s = .next (command ((s.at_ t).onPwr fun p =>
        { p with fixedLeft := true, limitsSince := none }) (chooseSetpoint (s.at_ t) d))) ∧
    (∀ m : RegReading, 4 ≤ s.dev.step → m.current.isSome = true → exec (.regulatorPoll t m) s =
      .next ((s.at_ t).onPwr fun p => { p with
        vrLast := (s.at_ t).now, vrSilent := false, measured := m.vcore.getD p.measured, vin := m.vin.getD p.vin
        openS := match p.openS, m.vin with
          | some x, some v => some { x with vinMin := Nat.min x.vinMin v }
          | x, _ => x })) ∧
    (4 ≤ s.dev.step → s.pwr.vrSilent = false → due (s.at_ t).now s.pwr.vrLast (ms 10) = true →
      exec (.vrSilent t) s = .next (powerEvent ((s.at_ t).onPwr fun p => { p with vrSilent := true }) 0x74 none)) ∧
    (s.pwr.pfw = false → exec .pfwNAssert s =
      let u := (setThrottle s 0 0).onPwr fun p => { p with pfw := true, capSince := none }
      let u := match u.pwr.openS with
        | some x => u.onPwr fun p => { p with
            openS := some { x with flags := x.flags ||| 1 }, ring := ringPut p.ring { x with flags := x.flags ||| 1 } }
        | none => openSupply u u.now 0 []
      .next (powerEvent u 0x72 u.pwr.openS)) ∧
    (∀ a d, s.pwr.pfw = true → governs ((s.at_ t).onPwr fun p => { p with pfw := false }) = true →
      exec (.pfwNDeassert t a d) s =
        let u := (s.at_ t).onPwr fun p => { p with pfw := false }
        .next (command u (retargetTo u d))) ∧
    (∀ l d, (l.any fun x => decide (s.pwr.logicLimit ≤ x)) = true → exec (.thermalCapStep t l d) s =
      .next (setCap ((takeTemps (s.at_ t) l d).onPwr fun p => { p with lowering := true }) fun p => { p with
        thermal := Nat.max 1 ((if s.pwr.lowering then p.thermal else Nat.min p.thermal (p.estimate / 1000)) - 5) })) ∧
    (∀ l d, s.pwr.tripped = false → (l.any fun x => decide (115 ≤ x)) = true → exec (.thermalTrip l d) s =
      let u := (List.range 64).foldl tripPort (setThrottle (takeTemps s l d) 0 0)
      let v := { (u.onPwr fun p => { p with tripped := true }) with dev := { u.dev with thermtrip := true } }
      .next (powerEvent (v.emit (.pin "THERMTRIP_N" false)) 0x73 none))

/-- A reset pulse, a rail out of its limits and a lost reference clock reset the switch and hold it as the pin rules say
(R772, R773, R774, R775, R776, 17_package_electrical.md). -/
def Obligations.ResetPinsAnswer : Prop :=
  ∀ (s : State),
    (∀ ns taken rel, s.dev.vio = true → 1000 ≤ ns ∨ (100 ≤ ns ∧ taken = true) →
      exec (.sysResetNAssert ns taken rel) s = .next ((resetNow s).onDev fun d => { d with resetLow := !rel })) ∧
    (∀ rail ns back, s.dev.vio = true → rail ≠ .vio → s.dev.railsOut.contains rail = false → longPulse ns = true →
      exec (.railOutOfRange rail ns back) s =
        .next ((resetNow s).onDev fun d => { d with railsOut := if back then d.railsOut else d.railsOut ++ [rail] })) ∧
    (∀ rail ns, s.dev.vio = true → rail ≠ .vio → s.dev.railsOut.contains rail = true →
      exec (.railOutOfRange rail ns true) s =
        .next ((resetNow s).onDev fun d => { d with railsOut := d.railsOut.erase rail })) ∧
    (∀ ns, s.dev.vio = true → exec (.railOutOfRange .vio ns false) s =
      .next ((resetNow s).onDev fun d => { d with vio := false, thermtrip := false })) ∧
    (∀ ns, s.dev.vio = false → exec (.railOutOfRange .vio ns true) s = .next ((resetNow s).onDev fun d =>
      { d with vio := true, thermtrip := false, tapIr := "IDCODE", pinsOff := false })) ∧
    (∀ ns back, s.dev.vio = true → s.dev.refOut = true ∨ longPulse ns = true →
      exec (.refclkFLoss ns back) s = .next ((resetNow s).onDev fun d => { d with refOut := !back }))

/-- Each Dawn step, when it is the step in progress, has its effect and moves on to the next (R686, R738, R746, R748,
R749, R750, R752, R753, 16_dawn_config.md). -/
def Obligations.DawnStepsAnswer : Prop :=
  ∀ (s : State), Running s →
    (∀ q sfdp t, s.dev.step = 1 → exec (.dawnBootRom q sfdp t) s =
      .next (((stepEnds s t (if q = 0 then 0xE else 2)).onDev fun d =>
          { d with quadUp := q, quadFail := ~~~ q, sfdp := sfdp }).onSec fun c => { c with
        cores := (bitList q.toNat 4).map fun n => (n, { (default : Core) with running := true }) })) ∧
    (∀ raw helper t, s.dev.step = 2 → s.dev.sfdp = false →
      exec (.dawnPuf raw helper t) s = .next ((stepEnds s t 4).onSec fun c => { c with cause := 1 })) ∧
    (∀ raw helper t, s.dev.step = 2 → s.dev.sfdp = true → exec (.dawnPuf raw helper t) s =
      let x := Config.packageSeed
      .next (if Config.pufReads raw (helper.take 32768) = true ∧ checkOf x = sliceOf helper 32768 64 then
          let pk := padTo 64 (idPublicKey x)
          ((stepEnds s t 3).onSec fun c => { c with
            seed := x, pk := pk, keyReady := true, endorsement := helper.drop 32840 }).onDev fun d =>
              { d with serial := BitVec.ofNat 64 (fieldAt (shake256 pk) 0 8) }
        else (stepEnds s t 4).onSec fun c => { c with cause := 1 })) ∧
    (∀ image n t, s.dev.step = 3 → exec (.dawnNvm image n t) s = .next
      (match imageCheck (image.take (imageBytesOf image)) s.dev.sfdp n (some s.dev.serial) with
        | .ok l => applyImage (stepEnds s t 4) (image.take (imageBytesOf image)) l
        | .error c => (stepEnds s t 4).onSec fun x => { x with cause := c })) ∧
    (∀ bits t, s.dev.step = 4 → s.sec.owned = true → exec (.dawnDram bits t) s =
      let here := (List.range 16).filter fun k => quadUp s (k / 4)
      let bad := here.filter fun k => bits.getLsbD k
      .next (bad.foldl declareStackLost (((stepEnds s t 5).onDev fun d =>
          { d with stackFail := BitVec.ofNat 16 (bad.map (2 ^ ·)).sum }).onPool fun p =>
        { p with trained := BitVec.ofNat 16 ((here.filter fun k => !bits.getLsbD k).map (2 ^ ·)).sum }))) ∧
    (∀ t, s.dev.step = 5 →
      let u := ((usedPorts s).filter (portFresh s)).foldl (fun s p => startBringup s p 1) s
      exec (.dawnLinks t) s = .next (if (usedPorts u).all fun p => decide ((linkOf u p).step = 0 ∨ 6 ≤ (linkOf u p).step)
        then stepEnds u t 6 else u)) ∧
    (∀ t, s.dev.step = 6 → ((usedPorts s).all fun p => decide ((linkOf s p).step = 0)) = true →
      exec (.dawnFarEndIdentity t) s = .next (onTn (stepEnds s t 7) .zs fun n => { n with electing := true })) ∧
    (∀ t, s.dev.step = 7 → s.flt.tn.lock ≠ .unlocked ∨ 2000 ≤ t →
      exec (.dawnElectionAndLock t) s = .next (stepEnds s t 8)) ∧
    (∀ t, s.dev.step = 8 → exec (.dawnModeEntered t) s =
      let u := if s.flt.tn.lock = .unlocked then s.onFlt fun f => { f with service := false } else s
      .next (flashDone ((stepEnds u t 9).onDev fun d => { d with dawnDone := true })))

/-- The ring commands, with the entry of the table that says what each does. -/
def ringRows : List (CmdSpec × (CmdRef → Desc → Pick → Instr)) :=
  [(specRegionCreate, .regionCreate)] ++
  [(specRegionDestroy, fun r d _ => .regionDestroy r d), (specRegionSetRights, fun r d _ => .regionSetRights r d),
   (specKeyRotate, fun r d _ => .keyRotate r d), (specKeyRevoke, fun r d _ => .keyRevoke r d),
   (specRegionQuery, fun r d _ => .regionQuery r d), (specPageIn, fun r d _ => .pageIn r d),
   (specPageOut, fun r d k => .pageOut r d k), (specPageFaultClear, fun r d _ => .pageFaultClear r d),
   (specRangeMap, fun r d _ => .rangeMap r d), (specRangeUnmap, fun r d _ => .rangeUnmap r d),
   (specTenantCreate, fun r d _ => .tenantCreate r d), (specTenantSetQuota, fun r d _ => .tenantSetQuota r d),
   (specTenantRelease, fun r d _ => .tenantRelease r d), (specTenantQuery, fun r d _ => .tenantQuery r d)] ++
  [(specCounterAlloc, fun r d _ => .counterAlloc r d), (specCounterFree, fun r d _ => .counterFree r d),
   (specCounterSet, fun r d _ => .counterSet r d), (specCounterQuery, fun r d _ => .counterQuery r d),
   (specCastPublish, fun r d _ => .castPublish r d), (specMcastSet, fun r d _ => .mcastSet r d),
   (specMcastClear, fun r d _ => .mcastClear r d), (specRunnerSet, fun r d _ => .runnerSet r d),
   (specRunnerClear, fun r d _ => .runnerClear r d), (specRouteSet, fun r d _ => .routeSet r d),
   (specScheduleMode, fun r d _ => .scheduleMode r d), (specSwcQuery, fun r d _ => .swcQuery r d)] ++
  [(specProgramLoad, fun r d _ => .programLoad r d), (specProgramStart, fun r d _ => .programStart r d),
   (specProgramPost, fun r d _ => .programPost r d), (specProgramStop, fun r d _ => .programStop r d),
   (specProgramQuery, fun r d _ => .programQuery r d), (specGroupCreate, fun r d _ => .groupCreate r d),
   (specGroupDestroy, fun r d _ => .groupDestroy r d), (specGroupRearm, fun r d _ => .groupRearm r d),
   (specGroupQuery, fun r d _ => .groupQuery r d), (specPartnerAdopt, .partnerAdopt),
   (specPartnerRelease, fun r d _ => .partnerRelease r d), (specLinkRetrain, fun r d _ => .linkRetrain r d),
   (specLinkDisable, fun r d _ => .linkDisable r d), (specNop, fun r d _ => .nop r d),
   (specRingBind, fun r d _ => .ringBind r d), (specTenantSetOwner, fun r d _ => .tenantSetOwner r d)] ++
  [(specEpRangeCreate, fun r d _ => .epRangeCreate r d), (specEpRangeDestroy, fun r d _ => .epRangeDestroy r d),
   (specEpKeyRotate, fun r d _ => .epKeyRotate r d), (specEpKeyRevoke, fun r d _ => .epKeyRevoke r d),
   (specEpBind, fun r d _ => .epBind r d), (specEpReduceBind, fun r d _ => .epReduceBind r d),
   (specEpQuery, fun r d _ => .epQuery r d), (specStepMark, fun r d _ => .stepMark r d),
   (specTraceCtrl, fun r d _ => .traceCtrl r d), (specTraceDump, fun r d _ => .traceDump r d),
   (specFltQuery, fun r d _ => .fltQuery r d), (specPwrMode, fun r d _ => .pwrMode r d),
   (specSupplyDump, fun r d _ => .supplyDump r d), (specSupplyCtrl, fun r d _ => .supplyCtrl r d)] ++
  [(specAttestReport, fun r d _ => .attestReport r d), (specRegionMeasure, fun r d _ => .regionMeasure r d),
   (specFwUpdate, fun r d _ => .fwUpdate r d), (specDebugOpen, fun r d _ => .debugOpen r d),
   (specDebugClose, fun r d _ => .debugClose r d), (specDebugRead, fun r d _ => .debugRead r d),
   (specDebugWrite, fun r d _ => .debugWrite r d), (specHkControl, fun r d _ => .hkControl r d),
   (specSecQuery, fun r d _ => .secQuery r d), (specFlashWrite, fun r d _ => .flashWrite r d),
   (specImagePush, fun r d _ => .imagePush r d)]

/-- A ring command that has its turn and passes its checks begins, and has the effect of its row (R37, R106, R107, R108,
R272, R517, R519, R520, R523, R725, R749, R790). -/
def Obligations.RingCommandsRun : Prop :=
  ∀ x ∈ ringRows, ∀ (s : State) (r : CmdRef) (d : Desc) (k : Pick) (f : InFlight), RingTurn s x.1.op r d f →
    let u := markBegun s r f
    let k := if x.1.op = 0x20 ∨ x.1.op = 0x27 ∨ x.1.op = 0x80 then k else default
    x.1.dest d u = none → x.1.chk (.ring r) d u = none →
      (Desc.staged d = false ∨ x.1.early = true ∨ Desc.activate d ≤ s.now) →
      exec (x.2 r d k) s = .next (x.1.eff (.ring r) d k u)

/-- A manager command that passes its checks is handed to the manager, and a power cap takes effect or goes to the row
(R622, R632, R634, R676, 13_time_faults.md, 14_power.md). -/
def Obligations.ManagerCommandsAndCapsRun : Prop :=
  ∀ (s : State) (r : CmdRef) (d : Desc) (f : InFlight),
    (∀ (op : Nat) (c : Instr), (op, c) ∈ [(0xA9, .modeSet r d), (0xAA, .spareSet r d), (0xAB, .dusk r d), (0xAC, .rejoin r d)] →
      RingTurn s op r d f → firstFail (mgrFormat (markBegun s r f) (.ring r) d) = none →
      exec c s = .next (addMgr (markBegun s r f) (.ring r) d)) ∧
    (RingTurn s 0xB8 r d f → forManager d = true → firstFail (mgrFormat (markBegun s r f) (.ring r) d) = none →
      exec (.pwrCap r d) s = .next (addMgr (markBegun s r f) (.ring r) d)) ∧
    (RingTurn s 0xB8 r d f → forManager d = false → targetAt 48 d (markBegun s r f) = none → specPwrCap.chk (.ring r) d (markBegun s r f) = none →
      (Desc.staged d = false ∨ Desc.activate d ≤ s.now) →
      exec (.pwrCap r d) s = .next (specPwrCap.eff (.ring r) d default (markBegun s r f)))

/-- A step runs the command at the front of the queue on the state with the rest of the queue (00_scope.md,
95_what_each_step_holds.md). -/
def Obligations.StepRunsFrontCommand : Prop :=
  ∀ (s : State) (c : Instr) (rest : List Instr), s.pending = c :: rest → step s = exec c { s with pending := rest }

/-- With an empty queue a step is one idle tick (the model's choice, log entry 1) (R37, R187, R603, R618, R631,
00_scope.md). -/
def Obligations.EmptyQueueIdles : Prop :=
  (∀ (s : State), s.pending = [] →
    let ze := fun u : State => atEp (countTick u .ze) fun s => verdictsGo (epStagedGo s) .ze
    (Running s → step s =
      let u := loadsGo (pump (drainsGo (verdictsGo (stagedGo (countTick s .zs)) .zs)))
      .next (ze (settle (carriedInGo u.hif.carriedIn.length u)))) ∧
    (s.dev.vio = false ∨ s.dev.held = true → step s = .next (ze s))) ∧
  ∀ (s : State), slewOf s.flt.tn = 0 → (∀ t ∈ s.heldTicks, s.now < t) → (countTick s .zs).now = s.now + 1

/-- Every command answers a next state in every state, and so does every step (00_scope.md, 95_what_each_step_holds.md). -/
def Obligations.EveryCommandCompletes : Prop :=
  (∀ (c : Instr) (s : State), Completes c s) ∧ ∀ s : State, ∃ t, step s = .next t

/-- No command touches the queue of waiting commands: a step takes the front command and nothing else (00_scope.md,
95_what_each_step_holds.md). -/
def Obligations.QueueUntouched : Prop :=
  (∀ (c : Instr) (s t : State), exec c s = .next t → t.pending = s.pending) ∧
  ∀ s t : State, step s = .next t → t.pending = s.pending.tail

/-- Every step keeps the memories in their one canonical form (R64, R69, R282, 00_scope.md). -/
def Obligations.MemoryStaysCanonical : Prop :=
  ∀ s t : State, MemOk s → step s = .next t → MemOk t

/-- The memories are in canonical form after reset, and after any reset by a pin or a rail (R69, R773, R776). -/
def Obligations.ResetMemoryCanonical : Prop :=
  MemOk State.reset ∧ State.reset.pool.mem = [] ∧ State.reset.pool.scratch = [] ∧ State.reset.pending = [] ∧
  ∀ s : State, MemOk (resetNow s) ∧ (resetNow s).pool.mem = [] ∧ (resetNow s).ep = s.ep ∧ (resetNow s).pending = s.pending

/-- The opcode table gives no command any bits, so no word spells a command (00_scope.md). -/
def Obligations.NoWordSpellsACommand : Prop :=
  ∀ (n w : Nat) (s : State), decodeTableWord n w = none ∧ s.withFetchWord n w = s

/-- COMMAND_TAKE takes the next command of a port's rings and checks it (R516, R517, R518, R519, R520, R725,
11_host_interface.md). -/
def Obligations.CommandIsTaken : Prop :=
  ∀ (s : State) (p : Fin 2), Running s → hpPresent s p = true → ringServed s p = true →
    (nextRing s p = none → exec (.commandTake p) s = .next s) ∧
    (∀ n h u, nextRing s p = some n →
      lineHome s (ringIndex p) (cmdRingOff n (State.ringOf (s.hp p) n).taken.toNat) = some h →
      prepare s [h] .read none false = (u, []) → exec (.commandTake p) s =
        let r := State.ringOf (s.hp p) n
        let off := cmdRingOff n r.taken.toNat
        let d := Desc.ofBytes (ringLine u p off)
        let f : InFlight := ⟨Fin.ofNat 62 n, r.taken, d, u.rgn.order, false, r.binding, false⟩
        let v := setRing (u.onRgn fun g => { g with order := g.order + 1 }) p n { r with taken := r.taken + 1 }
        let v := v.onHp p fun h => { h with inflight := h.inflight ++ [f], rr := (n + 1) % 62 }
        let v := putRingLine v p (idxLineOff n) (indexLine (r.taken + 1).toNat r.written.toNat v.now)
        let v := traceCommand v r.binding p n r.taken.toNat d 0
        .next (match commonChk v (fun op => (specOf op).isSome) (ringLinePoisoned u p off) r.binding d with
          | some st => complete v (.ring ⟨p, Fin.ofNat 62 n, r.taken⟩) d st []
          | none => v))

/-- An access to BAR0 that is not naturally aligned, or not of 4 or 8 bytes, ends with Completer Abort and writes
nothing (R51). -/
def Obligations.UnalignedAccessesAbort : Prop :=
  ∀ (s : State) (p : Fin 2) (o : BitVec 28), PortOpen s p →
    (∀ size w, ¬ ((size = 4 ∨ size = 8) ∧ size ∣ o.toNat) →
      exec (.bar0BadAccess p o size w) s = .next (s.emit (.completerAbort p o))) ∧
    (∀ size w, (size = 4 ∨ size = 8) ∧ size ∣ o.toNat → exec (.bar0BadAccess p o size w) s = .next s) ∧
    (∀ v, ¬ 8 ∣ o.toNat → exec (.registerWrite p o true v) s = .next (s.emit (.completerAbort p o))) ∧
    (∀ v, ¬ 4 ∣ o.toNat → exec (.registerWrite p o false v) s = .next (s.emit (.completerAbort p o)))

/-- In UNVERIFIED only the listed commands are executed; every other ring command ends with a failure (R725, R727,
15_security_firmware.md). -/
def Obligations.UnverifiedRefusesOtherCommands : Prop :=
  ∀ (s : State) (r : CmdRef) (d : Desc) (k : Pick) (f : InFlight), Running s → s.sec.owned = false →
    let u := markBegun s r f
    (∀ x ∈ ringRows, mayBegin s x.1.op r d = some f →
      (x.1.op ∉ openOps → x.1.op ≠ 0xC1 → x.1.op ≠ 0xC2 →
        exec (x.2 r d k) s = .next (complete u (.ring r) d stResourceRefused [])) ∧
      (x.1.op = 0xC1 ∨ x.1.op = 0xC2 → ∃ st data, st ≠ stOk ∧ exec (x.2 r d k) s = .next (complete u (.ring r) d st data)) ∧
      (x.1.op ∈ openOps → x.1.dest d u = none → ∃ k', exec (x.2 r d k) s = .next (match x.1.chk (.ring r) d u with
        | some st => complete u (.ring r) d st (x.1.info (.ring r) d st u)
        | none =>
          if Desc.staged d ∧ x.1.early = false ∧ s.now < Desc.activate d then
            u.onRgn fun g => { g with staged := g.staged ++ [⟨Desc.activate d, f.order, .ring r, d, k', none⟩] }
          else x.1.eff (.ring r) d k' u))) ∧
    (∀ (op : Nat) (c : Instr), (op, c) ∈ [(0xA9, .modeSet r d), (0xAA, .spareSet r d), (0xAB, .dusk r d), (0xAC, .rejoin r d)] →
      mayBegin s op r d = some f → exec c s = .next (complete u (.ring r) d stResourceRefused []))

/-- Opcodes of the ring commands that only the operator may run. -/
def operatorOps : List Nat :=
  [0x02, 0x03, 0x2B, 0x2C, 0x2D, 0x52, 0x53, 0x54, 0x55, 0x80, 0x81, 0x88, 0x89, 0xAD, 0xAE, 0xAF] ++
  [0xB9, 0xBA, 0xBB, 0xC2, 0xC3, 0xC4, 0xC5, 0xC6, 0xC7, 0xD0, 0xD1]

/-- A command that only the operator may run ends with TENANT_DENIED on a tenant's ring (R106, R272, R534, R678, R727,
R790). -/
def Obligations.TenantsMayNotRunOperatorCommands : Prop :=
  ∀ x ∈ ringRows, x.1.op ∈ operatorOps → ∀ (s : State) (r : CmdRef) (d : Desc) (k : Pick) (f : InFlight),
    RingTurn s x.1.op r d f →
    let u := markBegun s r f
    x.1.dest d u = none → isOperator u (.ring r) = false →
      exec (x.2 r d k) s = .next (complete u (.ring r) d stTenantDenied (x.1.info (.ring r) d stTenantDenied u))

/-- Commands of the pins and of JTAG. -/
def pinOrJtag : Instr → Bool
  | .sysResetNAssert .. | .railOutOfRange .. | .refclkFLoss .. => true
  | .bypass | .idcode | .samplePreload | .extest | .clamp | .highz | .dapAccess _ | .trstNAssert => true
  | _ => false

/-- Commands addressed to the ZE-208: its operations, doorbells, links and timers, and packets that arrive there. -/
def ofEndPoint : Instr → Bool
  | .relay .. | .opRead _ | .opWrite _ | .opAtomic _ | .opFence _ | .opFlush _ | .opInval _ | .opCounterRead _ => true
  | .copyOut _ | .copyIn _ | .contrib _ | .tileFence _ | .prodDoorbell .. | .abortDoorbell .. | .winRd .. => true
  | .winCounterWrite .. | .mrdCpl .. | .mwrCpl .. | .d2dTimeout .. | .avoidanceExpire .. | .portEnable .. => true
  | .epConfigure .. | .ep0LinkLoss | .epConfigLoss | .epThermalTrip _ | .d2dLinkDown | .contribProbe .. => true
  | .read a _ | .readOwn a _ | .counterRead a | .write a | .closingWrite a | .store a | .writeback a | .atomic a _ => a.part == .ze
  | .snoopInv a | .snoopRecall a | .snoopResp a | .reduceResult a | .partnerWrite a | .partnerRead a _ => a.part == .ze
  | .partnerData a | .epcWrite a | .epcRead a | .epcData a | .capSet a | .carryCmd a _ | .carryCpl a => a.part == .ze
  | .grantReq a _ | .grant a | .partnerFree a | .tableReq a | .tableData a | .ack a | .nack a | .hold a => a.part == .ze
  | .readReply a | .atomicReply a | .counterReply a => a.part == .ze
  | .closingWriteRelease p .. | .closingWriteDiscard p .. | .holdTimer p .. | .retransmit p .. | .giveUp p .. => p == .ze
  | .rateRaise p .. | .graceClose p .. | .epochWaitExpire p .. => p == .ze
  | .flitReceive x _ => x.part == .ze
  | _ => false

/-- Messages and timers of the time tree and of the fault protocol at the ZE-208. -/
def timeOfEndPoint : Instr → Bool
  | .beacon p .. | .beaconSend p .. | .firstLock p | .parentLoss p _ => p == .ze
  | .status p .. | .report p .. | .probe p .. | .verdict p .. | .verdictApply p _ => p == .ze
  | .drainSecondInstant .. => true
  | _ => false

/-- A switch without VIO, or held in reset, takes no notice of any command but its pins and JTAG (R772, R773, R776,
17_package_electrical.md). -/
def Obligations.HeldSwitchIgnoresCommands : Prop :=
  ∀ (c : Instr) (s : State), s.dev.vio = false ∨ s.dev.held = true → pinOrJtag c = false → ofEndPoint c = false →
    timeOfEndPoint c = false → exec c s = .next s ∧ ∀ n t,
      let u := if s.ep.tn.lock = .unlocked then s else s.epAt t
      exec (.drainSecondInstant n t) s = .next (if drainDueZe u n = true then atEp u fun s => endDrainZe s n else u)

/-- What the ZE-208 does changes nothing of the switch: only packets and completions that leave it can (R221, R551,
R564, R571, 12_endpoint_block.md). -/
def Obligations.EndPointLeavesSwitchAlone : Prop :=
  ∀ (c : Instr) (s t : State), ofEndPoint c = true → exec c s = .next t → Apart s t

/-- An addend in units of 2^-160, rounded; none where it sets a flag instead (R306). -/
def gridUnits : Machine.Num → Option Int
  | .fin s m e =>
    if m ≠ 0 ∧ (Nat.log2 m : Int) + e ≥ 128 then none
    else
      let n : Int := roundUnits m e (-160) .rne
      some (if s then -n else n)
  | _ => none

/-- An exact accumulator holds the same after any set of addends, in every order and under every grouping (R307). -/
def Obligations.SumsDoNotDependOnOrder : Prop :=
  (∀ (c : Accum) (xs : List Machine.Num),
    let t := xs.foldl Accum.addNum c
    t.a = c.a + BitVec.ofInt 320 ((xs.filterMap gridUnits).sum) ∧
    t.nan = (c.nan || xs.any fun x => x == .nan) ∧
    t.posInf = (c.posInf || xs.any fun x => gridUnits x == none && x != .nan && !(Machine.Num.lt x Machine.Num.zero)) ∧
    t.negInf = (c.negInf || xs.any fun x => gridUnits x == none && x != .nan && Machine.Num.lt x Machine.Num.zero)) ∧
  (∀ (c : Accum) (xs ys : List Machine.Num), xs.Perm ys → xs.foldl Accum.addNum c = ys.foldl Accum.addNum c) ∧
  (∀ (c d : Accum) (xs ys : List Machine.Num),
    (xs.foldl Accum.addNum c).addImage (ys.foldl Accum.addNum d) = (xs ++ ys).foldl Accum.addNum (c.addImage d)) ∧
  (∀ xs : List Machine.Num, xs.length ≤ 2 ^ 31 → (∀ s m e, Machine.Num.fin s m e ∈ xs → m < 2 ^ 128) →
    (xs.foldl Accum.addNum default).a.toInt = (xs.filterMap gridUnits).sum)

/-- A unit delivers NaN only as the canonical NaN of the format, and an MX block with a NaN is NaN as a whole (R313,
R314, R315). -/
def Obligations.NanDeliveriesAreCanonical : Prop :=
  (∀ f n, (f, n) ∈ [(6, 0x7FC0), (7, 0x7E00), (8, 0x7FC00000)] → ∀ (x : Machine.Num) (md : Round),
    (decodeElem f (encode f x md) = .nan ↔ x = .nan) ∧ (x = .nan → encode f x md = n)) ∧
  (nanCode 3 = 0x7F ∧ nanCode 4 = 0x7E ∧ decodeElem 3 0x7F = .nan ∧ decodeElem 4 0x7E = .nan) ∧
  (∀ (f : Nat) (xs : List Machine.Num) (md : Nat → Round),
    (Machine.Num.nan ∈ xs → (encodeBlock f xs md).1 = 0xFF ∧ ∀ c, decodeScaled f 0xFF c = .nan) ∧
    (Machine.Num.nan ∉ xs → (encodeBlock f xs md).1 < 0xFF))

/-- A packet's TIME is extended to the nearest time stamp with those low bits, which is exact for packets up to 858 ms
old (R187, R188). -/
def Obligations.TimeStampsAreExtended : Prop :=
  (∀ (now : Time) (t : BitVec 32),
    extendTime now t % 2 ^ 32 = t.toNat ∧
    ∀ x : Int, x % 2 ^ 32 = t.toNat → (extendTime now t - now).natAbs ≤ (x - now).natAbs) ∧
  ∀ now sent : Time, sent ≤ now → now - sent ≤ ms 858 → extendTime now (BitVec.ofNat 32 sent) = sent

/-- A request that arrives again is answered from the window: done again only if it reads, never if it wrote (R201,
R205, R206, R213). -/
def Obligations.DuplicateRequestsAreNotRepeated : Prop :=
  ∀ (s : State) (a : Arrival) (fs : List ReadFault) (h : BitVec 24), Running s → a.part = .zs →
    let u := consume s a.pkt
    u.flt.tn.lock ≠ .unlocked →
    let w := u.xp.dstOf a.pkt.src
    let c := countRetx u
    let q := answerQuad c a.port
    (a.pkt.dst = u.dev.nodeId → admitHead u.xp.inc u.now a.pkt = none → w.h = some h → seqNewer a.pkt.seq h = false →
      (seqSub h a.pkt.seq ≤ 4095 → w.st.get? a.pkt.seq.toNat = some .busy →
        (a.pkt.opcode = opWRITE → a.pkt.close = false → exec (.write a) s = .next (settle (respond c q a.pkt (holdOf c a.pkt)))) ∧
        (a.pkt.opcode = opREAD → exec (.read a fs) s = .next (settle (respond c q a.pkt (holdOf c a.pkt)))) ∧
        (a.pkt.opcode = opATOMIC → exec (.atomic a fs) s = .next (settle (respond c q a.pkt (holdOf c a.pkt))))) ∧
      (seqSub h a.pkt.seq ≤ 4095 → w.st.get? a.pkt.seq.toNat = some .done →
        (a.pkt.opcode = opWRITE → a.pkt.close = false →
          exec (.write a) s = .next (settle (respond c q a.pkt (ackOf c a.pkt stOk)))) ∧
        (a.pkt.opcode = opSTORE → exec (.store a) s = .next (settle (respond c q a.pkt (ackOf c a.pkt stOk)))) ∧
        (a.pkt.opcode = opATOMIC → exec (.atomic a fs) s = .next (settle (respond c q a.pkt
          (match w.replies.find? fun x => x.1 == a.pkt.seq with
            | some x => reanswer c.now a.pkt x.2
            | none => nackOf c a.pkt stIndeterminate))))) ∧
      (4095 < seqSub h a.pkt.seq → a.pkt.opcode = opATOMIC → exec (.atomic a fs) s = .next (settle u))) ∧
    (a.pkt.crcOk = false ∨ a.pkt.dst ≠ u.dev.nodeId ∨ (us 130 : Int) < u.now - extendTime u.now a.pkt.time →
      a.pkt.opcode = opATOMIC → exec (.atomic a fs) s = .next (settle u))

/-- A request that fails a check of R82 before residency is answered with its status and changes nothing (R82, R83,
R84). -/
def Obligations.RefusedRequestsChangeNothing : Prop :=
  ∀ (s : State) (a : Arrival) (d : DstSrc) (fs : List ReadFault) (st : Status), Admitted s a d →
    let u := admitted s a d
    let refused := fun c : Instr => ∃ w : State, exec c s = .next (settle (respond w (answerQuad w a.port) a.pkt (nackOf w a.pkt st))) ∧
      w.pool = s.pool ∧ w.coh = s.coh ∧ w.hif = s.hif ∧ w.cru = s.cru ∧
      (w.rgn.regions = s.rgn.regions ∧ w.rgn.ranges = s.rgn.ranges ∧ w.rgn.parked = s.rgn.parked)
    (a.pkt.opcode = opREAD → checkAcc u (fabricAcc u a.pkt .read a.pkt.lenBytes) = .fail st → refused (.read a fs)) ∧
    (a.pkt.opcode = opWRITE → a.pkt.close = false → writeCheck u a.pkt = .fail st → refused (.write a)) ∧
    (a.pkt.opcode = opSTORE → writeCheck u a.pkt = .fail st → refused (.store a)) ∧
    (a.pkt.opcode = opATOMIC → checkAcc u (fabricAcc u a.pkt .atomic (atomicSize a.pkt)) = .fail st →
      refused (.atomic a fs))

/-- A write to a line is read back, adds 1 to the line's EPOCH, and changes no other line but its mirror or parity
(R415, R424, R425, R431). -/
def Obligations.StoredLinesReadBack : Prop :=
  ∀ (s : State) (h : LineHome) (data : List Byte) (poison : Bool), s.pool.mem.wf = true → data.length = 64 →
    lineUp s h.line = true →
    let t := storeLine s h data poison
    lineData t h.line = data ∧
    lineMeta t h.line h.r.tenant = ⟨h.r.tenant, (lineMeta s h.line h.r.tenant).epoch + 1, poison, false, false, 0⟩ ∧
    ∀ line, line ≠ h.line → (h.r.protection = 1 → line ≠ h.mirror) → (h.r.protection = 2 → line ≠ h.parity) →
      lineData t line = lineData s line ∧ ∀ tag, lineMeta t line tag = lineMeta s line tag

/-- Granules of SINGLE and SPREAD regions lie where R65 places them, no two of a region in one place (R64, R65, R66). -/
def Obligations.SpreadGranulesStayApart : Prop :=
  (∀ (s : State) (ri i : Nat) (r : Region), r.placement = 0 → granuleOf s ri r i = some (r.base.toNat + i)) ∧
  (∀ (s : State) (ri i : Nat) (r : Region), r.placement = 1 →
    let l := stackList r.stacks_
    gStack r.base.toNat ∈ l → gSlot r.base.toNat + i / l.length < 2 ^ 20 →
    ∃ g, granuleOf s ri r i = some g ∧ gStack g = l.getD ((l.idxOf (gStack r.base.toNat) + i) % l.length) 0 ∧
      gSlot g = gSlot r.base.toNat + i / l.length) ∧
  ∀ (s : State) (ri i j : Nat) (r : Region), r.placement = 1 →
    let l := stackList r.stacks_
    gStack r.base.toNat ∈ l → gSlot r.base.toNat + i / l.length < 2 ^ 20 → gSlot r.base.toNat + j / l.length < 2 ^ 20 →
    i ≠ j → granuleOf s ri r i ≠ granuleOf s ri r j

/-- DEV_IDENT reads as the part and stepping in every state, and a write of it is ignored (R53). -/
def Obligations.IdentityRegister : Prop :=
  (∀ (s : State) (p : Fin 2), let v := regRead s p 0
    v.extractLsb' 16 16 = 0x6476 ∧ v.extractLsb' 8 8 = 0xB0 ∧ v.extractLsb' 0 8 = 0) ∧
  ∀ (s : State) (p : Fin 2) (x : BitVec 64) (size8 : Bool), PortOpen s p → exec (.registerWrite p 0 size8 x) s = .next s

/-- TIM_NOW holds the time stamp and TIM_STATUS the parent, depth, offset and state of the lock; writes are ignored
(R636, R637). -/
def Obligations.TimeRegisters : Prop :=
  (∀ (s : State) (p : Fin 2), (regRead s p 0x5000000).toNat = s.now % 2 ^ 64) ∧
  (∀ (s : State) (p : Fin 2), let v := regRead s p 0x5000008
    let n := s.flt.tn
    v.extractLsb' 48 16 = 0 ∧ v.extractLsb' 2 14 = 0 ∧
    v.extractLsb' 40 8 = (match n.parent with
      | some q => BitVec.ofNat 8 q
      | none => 0xFF) ∧
    v.extractLsb' 32 8 = BitVec.ofNat 8 n.depth ∧ v.extractLsb' 16 16 = BitVec.ofInt 16 n.offset ∧
    v.extractLsb' 0 2 = (match n.lock with
      | .unlocked => 0
      | .locked => 1
      | .holdover => 2)) ∧
  (∀ p : Fin 2, regRead State.reset p 0x5000000 = 0 ∧ regRead State.reset p 0x5000008 = 0x0000FFFF00000000) ∧
  ∀ (s : State) (p : Fin 2) (x : BitVec 64) (size8 : Bool), PortOpen s p →
    exec (.registerWrite p 0x5000000 size8 x) s = .next s ∧ exec (.registerWrite p 0x5000008 size8 x) s = .next s

/-- The instructions of a thread group `g`. -/
def ofGroup (g : GroupId) : Instr → Bool
  | .add h | .sub h | .mul h | .and h | .or h | .xor h | .shl h | .shr h | .sar h | .min h | .max h | .li h
  | .sread h | .cmp h | .jmp h | .bany h | .ball h | .act h | .msave h | .mrest h | .endGroup h | .lds h
  | .sts h | .ldg h | .crucibleFence h | .cread h | .mbox h | .poolOpen h | .poolClose h | .aclr h | .aadd h
  | .aread h | .asave h | .aimg h | .wload h | .wswap h | .mma h | .vld h | .vst h | .vadd h | .vsub h
  | .vmul h | .vmax h | .vmin h | .vfma h | .vbcast h | .rngset h | .gather h | .atom h | .crucibleStore h
  | .signal h | .vcvt h | .vpack h | .rng h => h == g
  | _ => false

/-- While GATHER_LIMIT is 0 no group of the engine issues an instruction, and all program state is kept (R284, R329,
R360). -/
def Obligations.PausedEngineIssuesNothing : Prop :=
  ∀ (s : State) (g : GroupId) (pr : Program), prog? s g.prog.toNat = some pr →
    paused s (g.prog.toNat / 16) = true ∨ pr.state ≠ .running ∨ (cruGroup pr g.grp).ended = true
      ∨ (cruGroup pr g.grp).mboxWait.isSome = true →
    ∀ c, ofGroup g c = true → exec c s = .next s

/-- The instructions that only move values between a group's registers, of a group `g`. -/
def movesRegisters (g : GroupId) : Instr → Bool
  | .add h | .sub h | .mul h | .and h | .or h | .xor h | .shl h | .shr h | .sar h | .min h | .max h | .li h
  | .cmp h | .jmp h | .bany h | .ball h | .act h | .msave h | .mrest h => h == g
  | _ => false

/-- A register instruction of a thread group changes that group alone (R284, R359, R360). -/
def Obligations.RegisterInstructionsFrame : Prop :=
  ∀ (s t : State) (g : GroupId) (pr : Program), prog? s g.prog.toNat = some pr →
    (pr.code[(cruGroup pr g.grp).pc]?).isSome = true → ∀ c, movesRegisters g c = true → exec c s = .next t →
      { t with cru := s.cru } = s ∧
      { t.cru with progs := s.cru.progs, engines := s.cru.engines, reqs := s.cru.reqs } = s.cru ∧
      (∀ e, { engineOf t e with last := (engineOf s e).last } = engineOf s e) ∧
      (t.cru.reqs.map fun q => { q with kind := .raw }) = (s.cru.reqs.map fun q => { q with kind := .raw }) ∧
      (t.cru.reqs.filter fun q => decide (q.prog ≠ g.prog.toNat ∨ q.grp ≠ g.grp.val)) =
        s.cru.reqs.filter (fun q => decide (q.prog ≠ g.prog.toNat ∨ q.grp ≠ g.grp.val)) ∧
      (∀ p, p ≠ g.prog.toNat → prog? t p = prog? s p) ∧
      ∃ pr', prog? t g.prog.toNat = some pr' ∧ { pr' with groups := pr.groups } = pr ∧
        ∀ n, n ≠ g.grp.val → cruGroup pr' n = cruGroup pr n
end

