-- ==== Sys2Proof/Laws/State.lean ====
section
/-! SUPPORT. What each update of the state leaves alone, and what it writes: one lemma for each field of `State`. -/

namespace Sys2Proof.Machine.State

variable (s : State)

@[simp] theorem onDev_now (f : Dev → Dev) : (s.onDev f).now = s.now := rfl
@[simp] theorem onDev_cfg (f : Dev → Dev) : (s.onDev f).cfg = s.cfg := rfl
@[simp] theorem onDev_rgn (f : Dev → Dev) : (s.onDev f).rgn = s.rgn := rfl
@[simp] theorem onDev_pool (f : Dev → Dev) : (s.onDev f).pool = s.pool := rfl
@[simp] theorem onDev_coh (f : Dev → Dev) : (s.onDev f).coh = s.coh := rfl
@[simp] theorem onDev_xp (f : Dev → Dev) : (s.onDev f).xp = s.xp := rfl
@[simp] theorem onDev_swc (f : Dev → Dev) : (s.onDev f).swc = s.swc := rfl
@[simp] theorem onDev_lnk (f : Dev → Dev) : (s.onDev f).lnk = s.lnk := rfl
@[simp] theorem onDev_hif (f : Dev → Dev) : (s.onDev f).hif = s.hif := rfl
@[simp] theorem onDev_cru (f : Dev → Dev) : (s.onDev f).cru = s.cru := rfl
@[simp] theorem onDev_col (f : Dev → Dev) : (s.onDev f).col = s.col := rfl
@[simp] theorem onDev_flt (f : Dev → Dev) : (s.onDev f).flt = s.flt := rfl
@[simp] theorem onDev_pwr (f : Dev → Dev) : (s.onDev f).pwr = s.pwr := rfl
@[simp] theorem onDev_sec (f : Dev → Dev) : (s.onDev f).sec = s.sec := rfl
@[simp] theorem onDev_ep (f : Dev → Dev) : (s.onDev f).ep = s.ep := rfl
@[simp] theorem onDev_partnerW (f : Dev → Dev) : (s.onDev f).partnerW = s.partnerW := rfl
@[simp] theorem onDev_widNext (f : Dev → Dev) : (s.onDev f).widNext = s.widNext := rfl
@[simp] theorem onDev_out (f : Dev → Dev) : (s.onDev f).out = s.out := rfl
@[simp] theorem onDev_free (f : Dev → Dev) : (s.onDev f).free = s.free := rfl
@[simp] theorem onDev_pending (f : Dev → Dev) : (s.onDev f).pending = s.pending := rfl
@[simp] theorem onDev_dev (f : Dev → Dev) : (s.onDev f).dev = f s.dev := rfl

@[simp] theorem onRgn_now (f : Rgn → Rgn) : (s.onRgn f).now = s.now := rfl
@[simp] theorem onRgn_dev (f : Rgn → Rgn) : (s.onRgn f).dev = s.dev := rfl
@[simp] theorem onRgn_cfg (f : Rgn → Rgn) : (s.onRgn f).cfg = s.cfg := rfl
@[simp] theorem onRgn_pool (f : Rgn → Rgn) : (s.onRgn f).pool = s.pool := rfl
@[simp] theorem onRgn_coh (f : Rgn → Rgn) : (s.onRgn f).coh = s.coh := rfl
@[simp] theorem onRgn_xp (f : Rgn → Rgn) : (s.onRgn f).xp = s.xp := rfl
@[simp] theorem onRgn_swc (f : Rgn → Rgn) : (s.onRgn f).swc = s.swc := rfl
@[simp] theorem onRgn_lnk (f : Rgn → Rgn) : (s.onRgn f).lnk = s.lnk := rfl
@[simp] theorem onRgn_hif (f : Rgn → Rgn) : (s.onRgn f).hif = s.hif := rfl
@[simp] theorem onRgn_cru (f : Rgn → Rgn) : (s.onRgn f).cru = s.cru := rfl
@[simp] theorem onRgn_col (f : Rgn → Rgn) : (s.onRgn f).col = s.col := rfl
@[simp] theorem onRgn_flt (f : Rgn → Rgn) : (s.onRgn f).flt = s.flt := rfl
@[simp] theorem onRgn_pwr (f : Rgn → Rgn) : (s.onRgn f).pwr = s.pwr := rfl
@[simp] theorem onRgn_sec (f : Rgn → Rgn) : (s.onRgn f).sec = s.sec := rfl
@[simp] theorem onRgn_ep (f : Rgn → Rgn) : (s.onRgn f).ep = s.ep := rfl
@[simp] theorem onRgn_partnerW (f : Rgn → Rgn) : (s.onRgn f).partnerW = s.partnerW := rfl
@[simp] theorem onRgn_widNext (f : Rgn → Rgn) : (s.onRgn f).widNext = s.widNext := rfl
@[simp] theorem onRgn_out (f : Rgn → Rgn) : (s.onRgn f).out = s.out := rfl
@[simp] theorem onRgn_free (f : Rgn → Rgn) : (s.onRgn f).free = s.free := rfl
@[simp] theorem onRgn_pending (f : Rgn → Rgn) : (s.onRgn f).pending = s.pending := rfl
@[simp] theorem onRgn_rgn (f : Rgn → Rgn) : (s.onRgn f).rgn = f s.rgn := rfl

@[simp] theorem onPool_now (f : Pool → Pool) : (s.onPool f).now = s.now := rfl
@[simp] theorem onPool_dev (f : Pool → Pool) : (s.onPool f).dev = s.dev := rfl
@[simp] theorem onPool_cfg (f : Pool → Pool) : (s.onPool f).cfg = s.cfg := rfl
@[simp] theorem onPool_rgn (f : Pool → Pool) : (s.onPool f).rgn = s.rgn := rfl
@[simp] theorem onPool_coh (f : Pool → Pool) : (s.onPool f).coh = s.coh := rfl
@[simp] theorem onPool_xp (f : Pool → Pool) : (s.onPool f).xp = s.xp := rfl
@[simp] theorem onPool_swc (f : Pool → Pool) : (s.onPool f).swc = s.swc := rfl
@[simp] theorem onPool_lnk (f : Pool → Pool) : (s.onPool f).lnk = s.lnk := rfl
@[simp] theorem onPool_hif (f : Pool → Pool) : (s.onPool f).hif = s.hif := rfl
@[simp] theorem onPool_cru (f : Pool → Pool) : (s.onPool f).cru = s.cru := rfl
@[simp] theorem onPool_col (f : Pool → Pool) : (s.onPool f).col = s.col := rfl
@[simp] theorem onPool_flt (f : Pool → Pool) : (s.onPool f).flt = s.flt := rfl
@[simp] theorem onPool_pwr (f : Pool → Pool) : (s.onPool f).pwr = s.pwr := rfl
@[simp] theorem onPool_sec (f : Pool → Pool) : (s.onPool f).sec = s.sec := rfl
@[simp] theorem onPool_ep (f : Pool → Pool) : (s.onPool f).ep = s.ep := rfl
@[simp] theorem onPool_partnerW (f : Pool → Pool) : (s.onPool f).partnerW = s.partnerW := rfl
@[simp] theorem onPool_widNext (f : Pool → Pool) : (s.onPool f).widNext = s.widNext := rfl
@[simp] theorem onPool_out (f : Pool → Pool) : (s.onPool f).out = s.out := rfl
@[simp] theorem onPool_free (f : Pool → Pool) : (s.onPool f).free = s.free := rfl
@[simp] theorem onPool_pending (f : Pool → Pool) : (s.onPool f).pending = s.pending := rfl
@[simp] theorem onPool_pool (f : Pool → Pool) : (s.onPool f).pool = f s.pool := rfl

@[simp] theorem onCoh_now (f : Coh → Coh) : (s.onCoh f).now = s.now := rfl
@[simp] theorem onCoh_dev (f : Coh → Coh) : (s.onCoh f).dev = s.dev := rfl
@[simp] theorem onCoh_cfg (f : Coh → Coh) : (s.onCoh f).cfg = s.cfg := rfl
@[simp] theorem onCoh_rgn (f : Coh → Coh) : (s.onCoh f).rgn = s.rgn := rfl
@[simp] theorem onCoh_pool (f : Coh → Coh) : (s.onCoh f).pool = s.pool := rfl
@[simp] theorem onCoh_xp (f : Coh → Coh) : (s.onCoh f).xp = s.xp := rfl
@[simp] theorem onCoh_swc (f : Coh → Coh) : (s.onCoh f).swc = s.swc := rfl
@[simp] theorem onCoh_lnk (f : Coh → Coh) : (s.onCoh f).lnk = s.lnk := rfl
@[simp] theorem onCoh_hif (f : Coh → Coh) : (s.onCoh f).hif = s.hif := rfl
@[simp] theorem onCoh_cru (f : Coh → Coh) : (s.onCoh f).cru = s.cru := rfl
@[simp] theorem onCoh_col (f : Coh → Coh) : (s.onCoh f).col = s.col := rfl
@[simp] theorem onCoh_flt (f : Coh → Coh) : (s.onCoh f).flt = s.flt := rfl
@[simp] theorem onCoh_pwr (f : Coh → Coh) : (s.onCoh f).pwr = s.pwr := rfl
@[simp] theorem onCoh_sec (f : Coh → Coh) : (s.onCoh f).sec = s.sec := rfl
@[simp] theorem onCoh_ep (f : Coh → Coh) : (s.onCoh f).ep = s.ep := rfl
@[simp] theorem onCoh_partnerW (f : Coh → Coh) : (s.onCoh f).partnerW = s.partnerW := rfl
@[simp] theorem onCoh_widNext (f : Coh → Coh) : (s.onCoh f).widNext = s.widNext := rfl
@[simp] theorem onCoh_out (f : Coh → Coh) : (s.onCoh f).out = s.out := rfl
@[simp] theorem onCoh_free (f : Coh → Coh) : (s.onCoh f).free = s.free := rfl
@[simp] theorem onCoh_pending (f : Coh → Coh) : (s.onCoh f).pending = s.pending := rfl
@[simp] theorem onCoh_coh (f : Coh → Coh) : (s.onCoh f).coh = f s.coh := rfl

@[simp] theorem onXp_now (f : Xport → Xport) : (s.onXp f).now = s.now := rfl
@[simp] theorem onXp_dev (f : Xport → Xport) : (s.onXp f).dev = s.dev := rfl
@[simp] theorem onXp_cfg (f : Xport → Xport) : (s.onXp f).cfg = s.cfg := rfl
@[simp] theorem onXp_rgn (f : Xport → Xport) : (s.onXp f).rgn = s.rgn := rfl
@[simp] theorem onXp_pool (f : Xport → Xport) : (s.onXp f).pool = s.pool := rfl
@[simp] theorem onXp_coh (f : Xport → Xport) : (s.onXp f).coh = s.coh := rfl
@[simp] theorem onXp_swc (f : Xport → Xport) : (s.onXp f).swc = s.swc := rfl
@[simp] theorem onXp_lnk (f : Xport → Xport) : (s.onXp f).lnk = s.lnk := rfl
@[simp] theorem onXp_hif (f : Xport → Xport) : (s.onXp f).hif = s.hif := rfl
@[simp] theorem onXp_cru (f : Xport → Xport) : (s.onXp f).cru = s.cru := rfl
@[simp] theorem onXp_col (f : Xport → Xport) : (s.onXp f).col = s.col := rfl
@[simp] theorem onXp_flt (f : Xport → Xport) : (s.onXp f).flt = s.flt := rfl
@[simp] theorem onXp_pwr (f : Xport → Xport) : (s.onXp f).pwr = s.pwr := rfl
@[simp] theorem onXp_sec (f : Xport → Xport) : (s.onXp f).sec = s.sec := rfl
@[simp] theorem onXp_ep (f : Xport → Xport) : (s.onXp f).ep = s.ep := rfl
@[simp] theorem onXp_partnerW (f : Xport → Xport) : (s.onXp f).partnerW = s.partnerW := rfl
@[simp] theorem onXp_widNext (f : Xport → Xport) : (s.onXp f).widNext = s.widNext := rfl
@[simp] theorem onXp_out (f : Xport → Xport) : (s.onXp f).out = s.out := rfl
@[simp] theorem onXp_free (f : Xport → Xport) : (s.onXp f).free = s.free := rfl
@[simp] theorem onXp_pending (f : Xport → Xport) : (s.onXp f).pending = s.pending := rfl
@[simp] theorem onXp_xp (f : Xport → Xport) : (s.onXp f).xp = f s.xp := rfl

@[simp] theorem onSwc_now (f : Swc → Swc) : (s.onSwc f).now = s.now := rfl
@[simp] theorem onSwc_dev (f : Swc → Swc) : (s.onSwc f).dev = s.dev := rfl
@[simp] theorem onSwc_cfg (f : Swc → Swc) : (s.onSwc f).cfg = s.cfg := rfl
@[simp] theorem onSwc_rgn (f : Swc → Swc) : (s.onSwc f).rgn = s.rgn := rfl
@[simp] theorem onSwc_pool (f : Swc → Swc) : (s.onSwc f).pool = s.pool := rfl
@[simp] theorem onSwc_coh (f : Swc → Swc) : (s.onSwc f).coh = s.coh := rfl
@[simp] theorem onSwc_xp (f : Swc → Swc) : (s.onSwc f).xp = s.xp := rfl
@[simp] theorem onSwc_lnk (f : Swc → Swc) : (s.onSwc f).lnk = s.lnk := rfl
@[simp] theorem onSwc_hif (f : Swc → Swc) : (s.onSwc f).hif = s.hif := rfl
@[simp] theorem onSwc_cru (f : Swc → Swc) : (s.onSwc f).cru = s.cru := rfl
@[simp] theorem onSwc_col (f : Swc → Swc) : (s.onSwc f).col = s.col := rfl
@[simp] theorem onSwc_flt (f : Swc → Swc) : (s.onSwc f).flt = s.flt := rfl
@[simp] theorem onSwc_pwr (f : Swc → Swc) : (s.onSwc f).pwr = s.pwr := rfl
@[simp] theorem onSwc_sec (f : Swc → Swc) : (s.onSwc f).sec = s.sec := rfl
@[simp] theorem onSwc_ep (f : Swc → Swc) : (s.onSwc f).ep = s.ep := rfl
@[simp] theorem onSwc_partnerW (f : Swc → Swc) : (s.onSwc f).partnerW = s.partnerW := rfl
@[simp] theorem onSwc_widNext (f : Swc → Swc) : (s.onSwc f).widNext = s.widNext := rfl
@[simp] theorem onSwc_out (f : Swc → Swc) : (s.onSwc f).out = s.out := rfl
@[simp] theorem onSwc_free (f : Swc → Swc) : (s.onSwc f).free = s.free := rfl
@[simp] theorem onSwc_pending (f : Swc → Swc) : (s.onSwc f).pending = s.pending := rfl
@[simp] theorem onSwc_swc (f : Swc → Swc) : (s.onSwc f).swc = f s.swc := rfl

@[simp] theorem onLnk_now (f : Lnk → Lnk) : (s.onLnk f).now = s.now := rfl
@[simp] theorem onLnk_dev (f : Lnk → Lnk) : (s.onLnk f).dev = s.dev := rfl
@[simp] theorem onLnk_cfg (f : Lnk → Lnk) : (s.onLnk f).cfg = s.cfg := rfl
@[simp] theorem onLnk_rgn (f : Lnk → Lnk) : (s.onLnk f).rgn = s.rgn := rfl
@[simp] theorem onLnk_pool (f : Lnk → Lnk) : (s.onLnk f).pool = s.pool := rfl
@[simp] theorem onLnk_coh (f : Lnk → Lnk) : (s.onLnk f).coh = s.coh := rfl
@[simp] theorem onLnk_xp (f : Lnk → Lnk) : (s.onLnk f).xp = s.xp := rfl
@[simp] theorem onLnk_swc (f : Lnk → Lnk) : (s.onLnk f).swc = s.swc := rfl
@[simp] theorem onLnk_hif (f : Lnk → Lnk) : (s.onLnk f).hif = s.hif := rfl
@[simp] theorem onLnk_cru (f : Lnk → Lnk) : (s.onLnk f).cru = s.cru := rfl
@[simp] theorem onLnk_col (f : Lnk → Lnk) : (s.onLnk f).col = s.col := rfl
@[simp] theorem onLnk_flt (f : Lnk → Lnk) : (s.onLnk f).flt = s.flt := rfl
@[simp] theorem onLnk_pwr (f : Lnk → Lnk) : (s.onLnk f).pwr = s.pwr := rfl
@[simp] theorem onLnk_sec (f : Lnk → Lnk) : (s.onLnk f).sec = s.sec := rfl
@[simp] theorem onLnk_ep (f : Lnk → Lnk) : (s.onLnk f).ep = s.ep := rfl
@[simp] theorem onLnk_partnerW (f : Lnk → Lnk) : (s.onLnk f).partnerW = s.partnerW := rfl
@[simp] theorem onLnk_widNext (f : Lnk → Lnk) : (s.onLnk f).widNext = s.widNext := rfl
@[simp] theorem onLnk_out (f : Lnk → Lnk) : (s.onLnk f).out = s.out := rfl
@[simp] theorem onLnk_free (f : Lnk → Lnk) : (s.onLnk f).free = s.free := rfl
@[simp] theorem onLnk_pending (f : Lnk → Lnk) : (s.onLnk f).pending = s.pending := rfl
@[simp] theorem onLnk_lnk (f : Lnk → Lnk) : (s.onLnk f).lnk = f s.lnk := rfl

@[simp] theorem onHif_now (f : Hif → Hif) : (s.onHif f).now = s.now := rfl
@[simp] theorem onHif_dev (f : Hif → Hif) : (s.onHif f).dev = s.dev := rfl
@[simp] theorem onHif_cfg (f : Hif → Hif) : (s.onHif f).cfg = s.cfg := rfl
@[simp] theorem onHif_rgn (f : Hif → Hif) : (s.onHif f).rgn = s.rgn := rfl
@[simp] theorem onHif_pool (f : Hif → Hif) : (s.onHif f).pool = s.pool := rfl
@[simp] theorem onHif_coh (f : Hif → Hif) : (s.onHif f).coh = s.coh := rfl
@[simp] theorem onHif_xp (f : Hif → Hif) : (s.onHif f).xp = s.xp := rfl
@[simp] theorem onHif_swc (f : Hif → Hif) : (s.onHif f).swc = s.swc := rfl
@[simp] theorem onHif_lnk (f : Hif → Hif) : (s.onHif f).lnk = s.lnk := rfl
@[simp] theorem onHif_cru (f : Hif → Hif) : (s.onHif f).cru = s.cru := rfl
@[simp] theorem onHif_col (f : Hif → Hif) : (s.onHif f).col = s.col := rfl
@[simp] theorem onHif_flt (f : Hif → Hif) : (s.onHif f).flt = s.flt := rfl
@[simp] theorem onHif_pwr (f : Hif → Hif) : (s.onHif f).pwr = s.pwr := rfl
@[simp] theorem onHif_sec (f : Hif → Hif) : (s.onHif f).sec = s.sec := rfl
@[simp] theorem onHif_ep (f : Hif → Hif) : (s.onHif f).ep = s.ep := rfl
@[simp] theorem onHif_partnerW (f : Hif → Hif) : (s.onHif f).partnerW = s.partnerW := rfl
@[simp] theorem onHif_widNext (f : Hif → Hif) : (s.onHif f).widNext = s.widNext := rfl
@[simp] theorem onHif_out (f : Hif → Hif) : (s.onHif f).out = s.out := rfl
@[simp] theorem onHif_free (f : Hif → Hif) : (s.onHif f).free = s.free := rfl
@[simp] theorem onHif_pending (f : Hif → Hif) : (s.onHif f).pending = s.pending := rfl
@[simp] theorem onHif_hif (f : Hif → Hif) : (s.onHif f).hif = f s.hif := rfl

@[simp] theorem onCru_now (f : Cru → Cru) : (s.onCru f).now = s.now := rfl
@[simp] theorem onCru_dev (f : Cru → Cru) : (s.onCru f).dev = s.dev := rfl
@[simp] theorem onCru_cfg (f : Cru → Cru) : (s.onCru f).cfg = s.cfg := rfl
@[simp] theorem onCru_rgn (f : Cru → Cru) : (s.onCru f).rgn = s.rgn := rfl
@[simp] theorem onCru_pool (f : Cru → Cru) : (s.onCru f).pool = s.pool := rfl
@[simp] theorem onCru_coh (f : Cru → Cru) : (s.onCru f).coh = s.coh := rfl
@[simp] theorem onCru_xp (f : Cru → Cru) : (s.onCru f).xp = s.xp := rfl
@[simp] theorem onCru_swc (f : Cru → Cru) : (s.onCru f).swc = s.swc := rfl
@[simp] theorem onCru_lnk (f : Cru → Cru) : (s.onCru f).lnk = s.lnk := rfl
@[simp] theorem onCru_hif (f : Cru → Cru) : (s.onCru f).hif = s.hif := rfl
@[simp] theorem onCru_col (f : Cru → Cru) : (s.onCru f).col = s.col := rfl
@[simp] theorem onCru_flt (f : Cru → Cru) : (s.onCru f).flt = s.flt := rfl
@[simp] theorem onCru_pwr (f : Cru → Cru) : (s.onCru f).pwr = s.pwr := rfl
@[simp] theorem onCru_sec (f : Cru → Cru) : (s.onCru f).sec = s.sec := rfl
@[simp] theorem onCru_ep (f : Cru → Cru) : (s.onCru f).ep = s.ep := rfl
@[simp] theorem onCru_partnerW (f : Cru → Cru) : (s.onCru f).partnerW = s.partnerW := rfl
@[simp] theorem onCru_widNext (f : Cru → Cru) : (s.onCru f).widNext = s.widNext := rfl
@[simp] theorem onCru_out (f : Cru → Cru) : (s.onCru f).out = s.out := rfl
@[simp] theorem onCru_free (f : Cru → Cru) : (s.onCru f).free = s.free := rfl
@[simp] theorem onCru_pending (f : Cru → Cru) : (s.onCru f).pending = s.pending := rfl
@[simp] theorem onCru_cru (f : Cru → Cru) : (s.onCru f).cru = f s.cru := rfl

@[simp] theorem onCol_now (f : Col → Col) : (s.onCol f).now = s.now := rfl
@[simp] theorem onCol_dev (f : Col → Col) : (s.onCol f).dev = s.dev := rfl
@[simp] theorem onCol_cfg (f : Col → Col) : (s.onCol f).cfg = s.cfg := rfl
@[simp] theorem onCol_rgn (f : Col → Col) : (s.onCol f).rgn = s.rgn := rfl
@[simp] theorem onCol_pool (f : Col → Col) : (s.onCol f).pool = s.pool := rfl
@[simp] theorem onCol_coh (f : Col → Col) : (s.onCol f).coh = s.coh := rfl
@[simp] theorem onCol_xp (f : Col → Col) : (s.onCol f).xp = s.xp := rfl
@[simp] theorem onCol_swc (f : Col → Col) : (s.onCol f).swc = s.swc := rfl
@[simp] theorem onCol_lnk (f : Col → Col) : (s.onCol f).lnk = s.lnk := rfl
@[simp] theorem onCol_hif (f : Col → Col) : (s.onCol f).hif = s.hif := rfl
@[simp] theorem onCol_cru (f : Col → Col) : (s.onCol f).cru = s.cru := rfl
@[simp] theorem onCol_flt (f : Col → Col) : (s.onCol f).flt = s.flt := rfl
@[simp] theorem onCol_pwr (f : Col → Col) : (s.onCol f).pwr = s.pwr := rfl
@[simp] theorem onCol_sec (f : Col → Col) : (s.onCol f).sec = s.sec := rfl
@[simp] theorem onCol_ep (f : Col → Col) : (s.onCol f).ep = s.ep := rfl
@[simp] theorem onCol_partnerW (f : Col → Col) : (s.onCol f).partnerW = s.partnerW := rfl
@[simp] theorem onCol_widNext (f : Col → Col) : (s.onCol f).widNext = s.widNext := rfl
@[simp] theorem onCol_out (f : Col → Col) : (s.onCol f).out = s.out := rfl
@[simp] theorem onCol_free (f : Col → Col) : (s.onCol f).free = s.free := rfl
@[simp] theorem onCol_pending (f : Col → Col) : (s.onCol f).pending = s.pending := rfl
@[simp] theorem onCol_col (f : Col → Col) : (s.onCol f).col = f s.col := rfl

@[simp] theorem onFlt_now (f : Flt → Flt) : (s.onFlt f).now = s.now := rfl
@[simp] theorem onFlt_dev (f : Flt → Flt) : (s.onFlt f).dev = s.dev := rfl
@[simp] theorem onFlt_cfg (f : Flt → Flt) : (s.onFlt f).cfg = s.cfg := rfl
@[simp] theorem onFlt_rgn (f : Flt → Flt) : (s.onFlt f).rgn = s.rgn := rfl
@[simp] theorem onFlt_pool (f : Flt → Flt) : (s.onFlt f).pool = s.pool := rfl
@[simp] theorem onFlt_coh (f : Flt → Flt) : (s.onFlt f).coh = s.coh := rfl
@[simp] theorem onFlt_xp (f : Flt → Flt) : (s.onFlt f).xp = s.xp := rfl
@[simp] theorem onFlt_swc (f : Flt → Flt) : (s.onFlt f).swc = s.swc := rfl
@[simp] theorem onFlt_lnk (f : Flt → Flt) : (s.onFlt f).lnk = s.lnk := rfl
@[simp] theorem onFlt_hif (f : Flt → Flt) : (s.onFlt f).hif = s.hif := rfl
@[simp] theorem onFlt_cru (f : Flt → Flt) : (s.onFlt f).cru = s.cru := rfl
@[simp] theorem onFlt_col (f : Flt → Flt) : (s.onFlt f).col = s.col := rfl
@[simp] theorem onFlt_pwr (f : Flt → Flt) : (s.onFlt f).pwr = s.pwr := rfl
@[simp] theorem onFlt_sec (f : Flt → Flt) : (s.onFlt f).sec = s.sec := rfl
@[simp] theorem onFlt_ep (f : Flt → Flt) : (s.onFlt f).ep = s.ep := rfl
@[simp] theorem onFlt_partnerW (f : Flt → Flt) : (s.onFlt f).partnerW = s.partnerW := rfl
@[simp] theorem onFlt_widNext (f : Flt → Flt) : (s.onFlt f).widNext = s.widNext := rfl
@[simp] theorem onFlt_out (f : Flt → Flt) : (s.onFlt f).out = s.out := rfl
@[simp] theorem onFlt_free (f : Flt → Flt) : (s.onFlt f).free = s.free := rfl
@[simp] theorem onFlt_pending (f : Flt → Flt) : (s.onFlt f).pending = s.pending := rfl
@[simp] theorem onFlt_flt (f : Flt → Flt) : (s.onFlt f).flt = f s.flt := rfl

@[simp] theorem onPwr_now (f : Pwr → Pwr) : (s.onPwr f).now = s.now := rfl
@[simp] theorem onPwr_dev (f : Pwr → Pwr) : (s.onPwr f).dev = s.dev := rfl
@[simp] theorem onPwr_cfg (f : Pwr → Pwr) : (s.onPwr f).cfg = s.cfg := rfl
@[simp] theorem onPwr_rgn (f : Pwr → Pwr) : (s.onPwr f).rgn = s.rgn := rfl
@[simp] theorem onPwr_pool (f : Pwr → Pwr) : (s.onPwr f).pool = s.pool := rfl
@[simp] theorem onPwr_coh (f : Pwr → Pwr) : (s.onPwr f).coh = s.coh := rfl
@[simp] theorem onPwr_xp (f : Pwr → Pwr) : (s.onPwr f).xp = s.xp := rfl
@[simp] theorem onPwr_swc (f : Pwr → Pwr) : (s.onPwr f).swc = s.swc := rfl
@[simp] theorem onPwr_lnk (f : Pwr → Pwr) : (s.onPwr f).lnk = s.lnk := rfl
@[simp] theorem onPwr_hif (f : Pwr → Pwr) : (s.onPwr f).hif = s.hif := rfl
@[simp] theorem onPwr_cru (f : Pwr → Pwr) : (s.onPwr f).cru = s.cru := rfl
@[simp] theorem onPwr_col (f : Pwr → Pwr) : (s.onPwr f).col = s.col := rfl
@[simp] theorem onPwr_flt (f : Pwr → Pwr) : (s.onPwr f).flt = s.flt := rfl
@[simp] theorem onPwr_sec (f : Pwr → Pwr) : (s.onPwr f).sec = s.sec := rfl
@[simp] theorem onPwr_ep (f : Pwr → Pwr) : (s.onPwr f).ep = s.ep := rfl
@[simp] theorem onPwr_partnerW (f : Pwr → Pwr) : (s.onPwr f).partnerW = s.partnerW := rfl
@[simp] theorem onPwr_widNext (f : Pwr → Pwr) : (s.onPwr f).widNext = s.widNext := rfl
@[simp] theorem onPwr_out (f : Pwr → Pwr) : (s.onPwr f).out = s.out := rfl
@[simp] theorem onPwr_free (f : Pwr → Pwr) : (s.onPwr f).free = s.free := rfl
@[simp] theorem onPwr_pending (f : Pwr → Pwr) : (s.onPwr f).pending = s.pending := rfl
@[simp] theorem onPwr_pwr (f : Pwr → Pwr) : (s.onPwr f).pwr = f s.pwr := rfl

@[simp] theorem onSec_now (f : Sec → Sec) : (s.onSec f).now = s.now := rfl
@[simp] theorem onSec_dev (f : Sec → Sec) : (s.onSec f).dev = s.dev := rfl
@[simp] theorem onSec_cfg (f : Sec → Sec) : (s.onSec f).cfg = s.cfg := rfl
@[simp] theorem onSec_rgn (f : Sec → Sec) : (s.onSec f).rgn = s.rgn := rfl
@[simp] theorem onSec_pool (f : Sec → Sec) : (s.onSec f).pool = s.pool := rfl
@[simp] theorem onSec_coh (f : Sec → Sec) : (s.onSec f).coh = s.coh := rfl
@[simp] theorem onSec_xp (f : Sec → Sec) : (s.onSec f).xp = s.xp := rfl
@[simp] theorem onSec_swc (f : Sec → Sec) : (s.onSec f).swc = s.swc := rfl
@[simp] theorem onSec_lnk (f : Sec → Sec) : (s.onSec f).lnk = s.lnk := rfl
@[simp] theorem onSec_hif (f : Sec → Sec) : (s.onSec f).hif = s.hif := rfl
@[simp] theorem onSec_cru (f : Sec → Sec) : (s.onSec f).cru = s.cru := rfl
@[simp] theorem onSec_col (f : Sec → Sec) : (s.onSec f).col = s.col := rfl
@[simp] theorem onSec_flt (f : Sec → Sec) : (s.onSec f).flt = s.flt := rfl
@[simp] theorem onSec_pwr (f : Sec → Sec) : (s.onSec f).pwr = s.pwr := rfl
@[simp] theorem onSec_ep (f : Sec → Sec) : (s.onSec f).ep = s.ep := rfl
@[simp] theorem onSec_partnerW (f : Sec → Sec) : (s.onSec f).partnerW = s.partnerW := rfl
@[simp] theorem onSec_widNext (f : Sec → Sec) : (s.onSec f).widNext = s.widNext := rfl
@[simp] theorem onSec_out (f : Sec → Sec) : (s.onSec f).out = s.out := rfl
@[simp] theorem onSec_free (f : Sec → Sec) : (s.onSec f).free = s.free := rfl
@[simp] theorem onSec_pending (f : Sec → Sec) : (s.onSec f).pending = s.pending := rfl
@[simp] theorem onSec_sec (f : Sec → Sec) : (s.onSec f).sec = f s.sec := rfl

@[simp] theorem onEp_now (f : Ep → Ep) : (s.onEp f).now = s.now := rfl
@[simp] theorem onEp_dev (f : Ep → Ep) : (s.onEp f).dev = s.dev := rfl
@[simp] theorem onEp_cfg (f : Ep → Ep) : (s.onEp f).cfg = s.cfg := rfl
@[simp] theorem onEp_rgn (f : Ep → Ep) : (s.onEp f).rgn = s.rgn := rfl
@[simp] theorem onEp_pool (f : Ep → Ep) : (s.onEp f).pool = s.pool := rfl
@[simp] theorem onEp_coh (f : Ep → Ep) : (s.onEp f).coh = s.coh := rfl
@[simp] theorem onEp_xp (f : Ep → Ep) : (s.onEp f).xp = s.xp := rfl
@[simp] theorem onEp_swc (f : Ep → Ep) : (s.onEp f).swc = s.swc := rfl
@[simp] theorem onEp_lnk (f : Ep → Ep) : (s.onEp f).lnk = s.lnk := rfl
@[simp] theorem onEp_hif (f : Ep → Ep) : (s.onEp f).hif = s.hif := rfl
@[simp] theorem onEp_cru (f : Ep → Ep) : (s.onEp f).cru = s.cru := rfl
@[simp] theorem onEp_col (f : Ep → Ep) : (s.onEp f).col = s.col := rfl
@[simp] theorem onEp_flt (f : Ep → Ep) : (s.onEp f).flt = s.flt := rfl
@[simp] theorem onEp_pwr (f : Ep → Ep) : (s.onEp f).pwr = s.pwr := rfl
@[simp] theorem onEp_sec (f : Ep → Ep) : (s.onEp f).sec = s.sec := rfl
@[simp] theorem onEp_partnerW (f : Ep → Ep) : (s.onEp f).partnerW = s.partnerW := rfl
@[simp] theorem onEp_widNext (f : Ep → Ep) : (s.onEp f).widNext = s.widNext := rfl
@[simp] theorem onEp_out (f : Ep → Ep) : (s.onEp f).out = s.out := rfl
@[simp] theorem onEp_free (f : Ep → Ep) : (s.onEp f).free = s.free := rfl
@[simp] theorem onEp_pending (f : Ep → Ep) : (s.onEp f).pending = s.pending := rfl
@[simp] theorem onEp_ep (f : Ep → Ep) : (s.onEp f).ep = f s.ep := rfl

@[simp] theorem emit_now (o : Out) : (s.emit o).now = s.now := rfl
@[simp] theorem emit_dev (o : Out) : (s.emit o).dev = s.dev := rfl
@[simp] theorem emit_cfg (o : Out) : (s.emit o).cfg = s.cfg := rfl
@[simp] theorem emit_rgn (o : Out) : (s.emit o).rgn = s.rgn := rfl
@[simp] theorem emit_pool (o : Out) : (s.emit o).pool = s.pool := rfl
@[simp] theorem emit_coh (o : Out) : (s.emit o).coh = s.coh := rfl
@[simp] theorem emit_xp (o : Out) : (s.emit o).xp = s.xp := rfl
@[simp] theorem emit_swc (o : Out) : (s.emit o).swc = s.swc := rfl
@[simp] theorem emit_lnk (o : Out) : (s.emit o).lnk = s.lnk := rfl
@[simp] theorem emit_hif (o : Out) : (s.emit o).hif = s.hif := rfl
@[simp] theorem emit_cru (o : Out) : (s.emit o).cru = s.cru := rfl
@[simp] theorem emit_col (o : Out) : (s.emit o).col = s.col := rfl
@[simp] theorem emit_flt (o : Out) : (s.emit o).flt = s.flt := rfl
@[simp] theorem emit_pwr (o : Out) : (s.emit o).pwr = s.pwr := rfl
@[simp] theorem emit_sec (o : Out) : (s.emit o).sec = s.sec := rfl
@[simp] theorem emit_ep (o : Out) : (s.emit o).ep = s.ep := rfl
@[simp] theorem emit_partnerW (o : Out) : (s.emit o).partnerW = s.partnerW := rfl
@[simp] theorem emit_widNext (o : Out) : (s.emit o).widNext = s.widNext := rfl
@[simp] theorem emit_free (o : Out) : (s.emit o).free = s.free := rfl
@[simp] theorem emit_pending (o : Out) : (s.emit o).pending = s.pending := rfl
@[simp] theorem emit_out (o : Out) : (s.emit o).out = o :: s.out := rfl

@[simp] theorem at__dev (t : Time) : (s.at_ t).dev = s.dev := rfl
@[simp] theorem at__cfg (t : Time) : (s.at_ t).cfg = s.cfg := rfl
@[simp] theorem at__rgn (t : Time) : (s.at_ t).rgn = s.rgn := rfl
@[simp] theorem at__pool (t : Time) : (s.at_ t).pool = s.pool := rfl
@[simp] theorem at__coh (t : Time) : (s.at_ t).coh = s.coh := rfl
@[simp] theorem at__xp (t : Time) : (s.at_ t).xp = s.xp := rfl
@[simp] theorem at__swc (t : Time) : (s.at_ t).swc = s.swc := rfl
@[simp] theorem at__lnk (t : Time) : (s.at_ t).lnk = s.lnk := rfl
@[simp] theorem at__hif (t : Time) : (s.at_ t).hif = s.hif := rfl
@[simp] theorem at__cru (t : Time) : (s.at_ t).cru = s.cru := rfl
@[simp] theorem at__col (t : Time) : (s.at_ t).col = s.col := rfl
@[simp] theorem at__flt (t : Time) : (s.at_ t).flt = s.flt := rfl
@[simp] theorem at__pwr (t : Time) : (s.at_ t).pwr = s.pwr := rfl
@[simp] theorem at__sec (t : Time) : (s.at_ t).sec = s.sec := rfl
@[simp] theorem at__ep (t : Time) : (s.at_ t).ep = s.ep := rfl
@[simp] theorem at__partnerW (t : Time) : (s.at_ t).partnerW = s.partnerW := rfl
@[simp] theorem at__widNext (t : Time) : (s.at_ t).widNext = s.widNext := rfl
@[simp] theorem at__out (t : Time) : (s.at_ t).out = s.out := rfl
@[simp] theorem at__free (t : Time) : (s.at_ t).free = s.free := rfl
@[simp] theorem at__pending (t : Time) : (s.at_ t).pending = s.pending := rfl
@[simp] theorem at__now (t : Time) : (s.at_ t).now = max s.now (s.heldTicks.foldl (fun m x => min m (x - 1)) t) := rfl

@[simp] theorem epAt_now (t : Time) : (s.epAt t).now = s.now := rfl
@[simp] theorem epAt_dev (t : Time) : (s.epAt t).dev = s.dev := rfl
@[simp] theorem epAt_cfg (t : Time) : (s.epAt t).cfg = s.cfg := rfl
@[simp] theorem epAt_rgn (t : Time) : (s.epAt t).rgn = s.rgn := rfl
@[simp] theorem epAt_pool (t : Time) : (s.epAt t).pool = s.pool := rfl
@[simp] theorem epAt_coh (t : Time) : (s.epAt t).coh = s.coh := rfl
@[simp] theorem epAt_xp (t : Time) : (s.epAt t).xp = s.xp := rfl
@[simp] theorem epAt_swc (t : Time) : (s.epAt t).swc = s.swc := rfl
@[simp] theorem epAt_lnk (t : Time) : (s.epAt t).lnk = s.lnk := rfl
@[simp] theorem epAt_hif (t : Time) : (s.epAt t).hif = s.hif := rfl
@[simp] theorem epAt_cru (t : Time) : (s.epAt t).cru = s.cru := rfl
@[simp] theorem epAt_col (t : Time) : (s.epAt t).col = s.col := rfl
@[simp] theorem epAt_flt (t : Time) : (s.epAt t).flt = s.flt := rfl
@[simp] theorem epAt_pwr (t : Time) : (s.epAt t).pwr = s.pwr := rfl
@[simp] theorem epAt_sec (t : Time) : (s.epAt t).sec = s.sec := rfl
@[simp] theorem epAt_partnerW (t : Time) : (s.epAt t).partnerW = s.partnerW := rfl
@[simp] theorem epAt_widNext (t : Time) : (s.epAt t).widNext = s.widNext := rfl
@[simp] theorem epAt_out (t : Time) : (s.epAt t).out = s.out := rfl
@[simp] theorem epAt_free (t : Time) : (s.epAt t).free = s.free := rfl
@[simp] theorem epAt_pending (t : Time) : (s.epAt t).pending = s.pending := rfl
@[simp] theorem epAt_ep (t : Time) :
    (s.epAt t).ep = { s.ep with now := max s.ep.now (s.epHeldTicks.foldl (fun m x => min m (x - 1)) t) } := rfl

@[simp] theorem reachTick_dev (t : Time) : (s.reachTick t).dev = s.dev := rfl
@[simp] theorem reachTick_cfg (t : Time) : (s.reachTick t).cfg = s.cfg := rfl
@[simp] theorem reachTick_rgn (t : Time) : (s.reachTick t).rgn = s.rgn := rfl
@[simp] theorem reachTick_pool (t : Time) : (s.reachTick t).pool = s.pool := rfl
@[simp] theorem reachTick_coh (t : Time) : (s.reachTick t).coh = s.coh := rfl
@[simp] theorem reachTick_xp (t : Time) : (s.reachTick t).xp = s.xp := rfl
@[simp] theorem reachTick_swc (t : Time) : (s.reachTick t).swc = s.swc := rfl
@[simp] theorem reachTick_lnk (t : Time) : (s.reachTick t).lnk = s.lnk := rfl
@[simp] theorem reachTick_hif (t : Time) : (s.reachTick t).hif = s.hif := rfl
@[simp] theorem reachTick_cru (t : Time) : (s.reachTick t).cru = s.cru := rfl
@[simp] theorem reachTick_col (t : Time) : (s.reachTick t).col = s.col := rfl
@[simp] theorem reachTick_flt (t : Time) : (s.reachTick t).flt = s.flt := rfl
@[simp] theorem reachTick_pwr (t : Time) : (s.reachTick t).pwr = s.pwr := rfl
@[simp] theorem reachTick_sec (t : Time) : (s.reachTick t).sec = s.sec := rfl
@[simp] theorem reachTick_ep (t : Time) : (s.reachTick t).ep = s.ep := rfl
@[simp] theorem reachTick_partnerW (t : Time) : (s.reachTick t).partnerW = s.partnerW := rfl
@[simp] theorem reachTick_widNext (t : Time) : (s.reachTick t).widNext = s.widNext := rfl
@[simp] theorem reachTick_out (t : Time) : (s.reachTick t).out = s.out := rfl
@[simp] theorem reachTick_free (t : Time) : (s.reachTick t).free = s.free := rfl
@[simp] theorem reachTick_pending (t : Time) : (s.reachTick t).pending = s.pending := rfl
@[simp] theorem reachTick_now (t : Time) : (s.reachTick t).now = max s.now (s.heldTicks.foldl min t) := rfl

@[simp] theorem epReachTick_now (t : Time) : (s.epReachTick t).now = s.now := rfl
@[simp] theorem epReachTick_dev (t : Time) : (s.epReachTick t).dev = s.dev := rfl
@[simp] theorem epReachTick_cfg (t : Time) : (s.epReachTick t).cfg = s.cfg := rfl
@[simp] theorem epReachTick_rgn (t : Time) : (s.epReachTick t).rgn = s.rgn := rfl
@[simp] theorem epReachTick_pool (t : Time) : (s.epReachTick t).pool = s.pool := rfl
@[simp] theorem epReachTick_coh (t : Time) : (s.epReachTick t).coh = s.coh := rfl
@[simp] theorem epReachTick_xp (t : Time) : (s.epReachTick t).xp = s.xp := rfl
@[simp] theorem epReachTick_swc (t : Time) : (s.epReachTick t).swc = s.swc := rfl
@[simp] theorem epReachTick_lnk (t : Time) : (s.epReachTick t).lnk = s.lnk := rfl
@[simp] theorem epReachTick_hif (t : Time) : (s.epReachTick t).hif = s.hif := rfl
@[simp] theorem epReachTick_cru (t : Time) : (s.epReachTick t).cru = s.cru := rfl
@[simp] theorem epReachTick_col (t : Time) : (s.epReachTick t).col = s.col := rfl
@[simp] theorem epReachTick_flt (t : Time) : (s.epReachTick t).flt = s.flt := rfl
@[simp] theorem epReachTick_pwr (t : Time) : (s.epReachTick t).pwr = s.pwr := rfl
@[simp] theorem epReachTick_sec (t : Time) : (s.epReachTick t).sec = s.sec := rfl
@[simp] theorem epReachTick_partnerW (t : Time) : (s.epReachTick t).partnerW = s.partnerW := rfl
@[simp] theorem epReachTick_widNext (t : Time) : (s.epReachTick t).widNext = s.widNext := rfl
@[simp] theorem epReachTick_out (t : Time) : (s.epReachTick t).out = s.out := rfl
@[simp] theorem epReachTick_free (t : Time) : (s.epReachTick t).free = s.free := rfl
@[simp] theorem epReachTick_pending (t : Time) : (s.epReachTick t).pending = s.pending := rfl
@[simp] theorem epReachTick_ep (t : Time) :
    (s.epReachTick t).ep = { s.ep with now := max s.ep.now (s.epHeldTicks.foldl min t) } := rfl

@[simp] theorem stepFree_now : (s.stepFree).now = s.now := rfl
@[simp] theorem stepFree_dev : (s.stepFree).dev = s.dev := rfl
@[simp] theorem stepFree_cfg : (s.stepFree).cfg = s.cfg := rfl
@[simp] theorem stepFree_rgn : (s.stepFree).rgn = s.rgn := rfl
@[simp] theorem stepFree_pool : (s.stepFree).pool = s.pool := rfl
@[simp] theorem stepFree_coh : (s.stepFree).coh = s.coh := rfl
@[simp] theorem stepFree_xp : (s.stepFree).xp = s.xp := rfl
@[simp] theorem stepFree_swc : (s.stepFree).swc = s.swc := rfl
@[simp] theorem stepFree_lnk : (s.stepFree).lnk = s.lnk := rfl
@[simp] theorem stepFree_hif : (s.stepFree).hif = s.hif := rfl
@[simp] theorem stepFree_cru : (s.stepFree).cru = s.cru := rfl
@[simp] theorem stepFree_col : (s.stepFree).col = s.col := rfl
@[simp] theorem stepFree_flt : (s.stepFree).flt = s.flt := rfl
@[simp] theorem stepFree_pwr : (s.stepFree).pwr = s.pwr := rfl
@[simp] theorem stepFree_sec : (s.stepFree).sec = s.sec := rfl
@[simp] theorem stepFree_ep : (s.stepFree).ep = s.ep := rfl
@[simp] theorem stepFree_partnerW : (s.stepFree).partnerW = s.partnerW := rfl
@[simp] theorem stepFree_widNext : (s.stepFree).widNext = s.widNext := rfl
@[simp] theorem stepFree_out : (s.stepFree).out = s.out := rfl
@[simp] theorem stepFree_pending : (s.stepFree).pending = s.pending := rfl
@[simp] theorem stepFree_free : s.stepFree.free = s.free + 1 := rfl

@[simp] theorem setHp_now (p : Nat) (h : HostPort) : (s.setHp p h).now = s.now := rfl
@[simp] theorem setHp_dev (p : Nat) (h : HostPort) : (s.setHp p h).dev = s.dev := rfl
@[simp] theorem setHp_cfg (p : Nat) (h : HostPort) : (s.setHp p h).cfg = s.cfg := rfl
@[simp] theorem setHp_rgn (p : Nat) (h : HostPort) : (s.setHp p h).rgn = s.rgn := rfl
@[simp] theorem setHp_pool (p : Nat) (h : HostPort) : (s.setHp p h).pool = s.pool := rfl
@[simp] theorem setHp_coh (p : Nat) (h : HostPort) : (s.setHp p h).coh = s.coh := rfl
@[simp] theorem setHp_xp (p : Nat) (h : HostPort) : (s.setHp p h).xp = s.xp := rfl
@[simp] theorem setHp_swc (p : Nat) (h : HostPort) : (s.setHp p h).swc = s.swc := rfl
@[simp] theorem setHp_lnk (p : Nat) (h : HostPort) : (s.setHp p h).lnk = s.lnk := rfl
@[simp] theorem setHp_cru (p : Nat) (h : HostPort) : (s.setHp p h).cru = s.cru := rfl
@[simp] theorem setHp_col (p : Nat) (h : HostPort) : (s.setHp p h).col = s.col := rfl
@[simp] theorem setHp_flt (p : Nat) (h : HostPort) : (s.setHp p h).flt = s.flt := rfl
@[simp] theorem setHp_pwr (p : Nat) (h : HostPort) : (s.setHp p h).pwr = s.pwr := rfl
@[simp] theorem setHp_sec (p : Nat) (h : HostPort) : (s.setHp p h).sec = s.sec := rfl
@[simp] theorem setHp_ep (p : Nat) (h : HostPort) : (s.setHp p h).ep = s.ep := rfl
@[simp] theorem setHp_partnerW (p : Nat) (h : HostPort) : (s.setHp p h).partnerW = s.partnerW := rfl
@[simp] theorem setHp_widNext (p : Nat) (h : HostPort) : (s.setHp p h).widNext = s.widNext := rfl
@[simp] theorem setHp_out (p : Nat) (h : HostPort) : (s.setHp p h).out = s.out := rfl
@[simp] theorem setHp_free (p : Nat) (h : HostPort) : (s.setHp p h).free = s.free := rfl
@[simp] theorem setHp_pending (p : Nat) (h : HostPort) : (s.setHp p h).pending = s.pending := rfl

@[simp] theorem onHp_now (p : Nat) (f : HostPort → HostPort) : (s.onHp p f).now = s.now := rfl
@[simp] theorem onHp_dev (p : Nat) (f : HostPort → HostPort) : (s.onHp p f).dev = s.dev := rfl
@[simp] theorem onHp_cfg (p : Nat) (f : HostPort → HostPort) : (s.onHp p f).cfg = s.cfg := rfl
@[simp] theorem onHp_rgn (p : Nat) (f : HostPort → HostPort) : (s.onHp p f).rgn = s.rgn := rfl
@[simp] theorem onHp_pool (p : Nat) (f : HostPort → HostPort) : (s.onHp p f).pool = s.pool := rfl
@[simp] theorem onHp_coh (p : Nat) (f : HostPort → HostPort) : (s.onHp p f).coh = s.coh := rfl
@[simp] theorem onHp_xp (p : Nat) (f : HostPort → HostPort) : (s.onHp p f).xp = s.xp := rfl
@[simp] theorem onHp_swc (p : Nat) (f : HostPort → HostPort) : (s.onHp p f).swc = s.swc := rfl
@[simp] theorem onHp_lnk (p : Nat) (f : HostPort → HostPort) : (s.onHp p f).lnk = s.lnk := rfl
@[simp] theorem onHp_cru (p : Nat) (f : HostPort → HostPort) : (s.onHp p f).cru = s.cru := rfl
@[simp] theorem onHp_col (p : Nat) (f : HostPort → HostPort) : (s.onHp p f).col = s.col := rfl
@[simp] theorem onHp_flt (p : Nat) (f : HostPort → HostPort) : (s.onHp p f).flt = s.flt := rfl
@[simp] theorem onHp_pwr (p : Nat) (f : HostPort → HostPort) : (s.onHp p f).pwr = s.pwr := rfl
@[simp] theorem onHp_sec (p : Nat) (f : HostPort → HostPort) : (s.onHp p f).sec = s.sec := rfl
@[simp] theorem onHp_ep (p : Nat) (f : HostPort → HostPort) : (s.onHp p f).ep = s.ep := rfl
@[simp] theorem onHp_partnerW (p : Nat) (f : HostPort → HostPort) : (s.onHp p f).partnerW = s.partnerW := rfl
@[simp] theorem onHp_widNext (p : Nat) (f : HostPort → HostPort) : (s.onHp p f).widNext = s.widNext := rfl
@[simp] theorem onHp_out (p : Nat) (f : HostPort → HostPort) : (s.onHp p f).out = s.out := rfl
@[simp] theorem onHp_free (p : Nat) (f : HostPort → HostPort) : (s.onHp p f).free = s.free := rfl
@[simp] theorem onHp_pending (p : Nat) (f : HostPort → HostPort) : (s.onHp p f).pending = s.pending := rfl

@[simp] theorem onRegion_now (r : Nat) (f : Region → Region) : (s.onRegion r f).now = s.now := rfl
@[simp] theorem onRegion_dev (r : Nat) (f : Region → Region) : (s.onRegion r f).dev = s.dev := rfl
@[simp] theorem onRegion_cfg (r : Nat) (f : Region → Region) : (s.onRegion r f).cfg = s.cfg := rfl
@[simp] theorem onRegion_pool (r : Nat) (f : Region → Region) : (s.onRegion r f).pool = s.pool := rfl
@[simp] theorem onRegion_coh (r : Nat) (f : Region → Region) : (s.onRegion r f).coh = s.coh := rfl
@[simp] theorem onRegion_xp (r : Nat) (f : Region → Region) : (s.onRegion r f).xp = s.xp := rfl
@[simp] theorem onRegion_swc (r : Nat) (f : Region → Region) : (s.onRegion r f).swc = s.swc := rfl
@[simp] theorem onRegion_lnk (r : Nat) (f : Region → Region) : (s.onRegion r f).lnk = s.lnk := rfl
@[simp] theorem onRegion_hif (r : Nat) (f : Region → Region) : (s.onRegion r f).hif = s.hif := rfl
@[simp] theorem onRegion_cru (r : Nat) (f : Region → Region) : (s.onRegion r f).cru = s.cru := rfl
@[simp] theorem onRegion_col (r : Nat) (f : Region → Region) : (s.onRegion r f).col = s.col := rfl
@[simp] theorem onRegion_flt (r : Nat) (f : Region → Region) : (s.onRegion r f).flt = s.flt := rfl
@[simp] theorem onRegion_pwr (r : Nat) (f : Region → Region) : (s.onRegion r f).pwr = s.pwr := rfl
@[simp] theorem onRegion_sec (r : Nat) (f : Region → Region) : (s.onRegion r f).sec = s.sec := rfl
@[simp] theorem onRegion_ep (r : Nat) (f : Region → Region) : (s.onRegion r f).ep = s.ep := rfl
@[simp] theorem onRegion_partnerW (r : Nat) (f : Region → Region) : (s.onRegion r f).partnerW = s.partnerW := rfl
@[simp] theorem onRegion_widNext (r : Nat) (f : Region → Region) : (s.onRegion r f).widNext = s.widNext := rfl
@[simp] theorem onRegion_out (r : Nat) (f : Region → Region) : (s.onRegion r f).out = s.out := rfl
@[simp] theorem onRegion_free (r : Nat) (f : Region → Region) : (s.onRegion r f).free = s.free := rfl
@[simp] theorem onRegion_pending (r : Nat) (f : Region → Region) : (s.onRegion r f).pending = s.pending := rfl

@[simp] theorem onStack_now (k : Nat) (f : StackSt → StackSt) : (s.onStack k f).now = s.now := rfl
@[simp] theorem onStack_dev (k : Nat) (f : StackSt → StackSt) : (s.onStack k f).dev = s.dev := rfl
@[simp] theorem onStack_cfg (k : Nat) (f : StackSt → StackSt) : (s.onStack k f).cfg = s.cfg := rfl
@[simp] theorem onStack_rgn (k : Nat) (f : StackSt → StackSt) : (s.onStack k f).rgn = s.rgn := rfl
@[simp] theorem onStack_coh (k : Nat) (f : StackSt → StackSt) : (s.onStack k f).coh = s.coh := rfl
@[simp] theorem onStack_xp (k : Nat) (f : StackSt → StackSt) : (s.onStack k f).xp = s.xp := rfl
@[simp] theorem onStack_swc (k : Nat) (f : StackSt → StackSt) : (s.onStack k f).swc = s.swc := rfl
@[simp] theorem onStack_lnk (k : Nat) (f : StackSt → StackSt) : (s.onStack k f).lnk = s.lnk := rfl
@[simp] theorem onStack_hif (k : Nat) (f : StackSt → StackSt) : (s.onStack k f).hif = s.hif := rfl
@[simp] theorem onStack_cru (k : Nat) (f : StackSt → StackSt) : (s.onStack k f).cru = s.cru := rfl
@[simp] theorem onStack_col (k : Nat) (f : StackSt → StackSt) : (s.onStack k f).col = s.col := rfl
@[simp] theorem onStack_flt (k : Nat) (f : StackSt → StackSt) : (s.onStack k f).flt = s.flt := rfl
@[simp] theorem onStack_pwr (k : Nat) (f : StackSt → StackSt) : (s.onStack k f).pwr = s.pwr := rfl
@[simp] theorem onStack_sec (k : Nat) (f : StackSt → StackSt) : (s.onStack k f).sec = s.sec := rfl
@[simp] theorem onStack_ep (k : Nat) (f : StackSt → StackSt) : (s.onStack k f).ep = s.ep := rfl
@[simp] theorem onStack_partnerW (k : Nat) (f : StackSt → StackSt) : (s.onStack k f).partnerW = s.partnerW := rfl
@[simp] theorem onStack_widNext (k : Nat) (f : StackSt → StackSt) : (s.onStack k f).widNext = s.widNext := rfl
@[simp] theorem onStack_out (k : Nat) (f : StackSt → StackSt) : (s.onStack k f).out = s.out := rfl
@[simp] theorem onStack_free (k : Nat) (f : StackSt → StackSt) : (s.onStack k f).free = s.free := rfl
@[simp] theorem onStack_pending (k : Nat) (f : StackSt → StackSt) : (s.onStack k f).pending = s.pending := rfl

end Sys2Proof.Machine.State
end

