-- ==== Sys2Proof/Laws/Memory.lean ====
section
/-! SUPPORT. Tables and memories keep their canonical form. -/

namespace Sys2Proof.Machine

/-! ### Tables and memories -/

theorem Tbl.sorted_tail {α : Type} {x : Nat × α} {t : Tbl α} (h : Tbl.sorted (x :: t) = true) : Tbl.sorted t = true := by
  cases t with
  | nil => rfl
  | cons y t =>
    obtain ⟨i, v⟩ := x; obtain ⟨j, w⟩ := y
    simp [Tbl.sorted] at h; exact h.2

/-- Every key of a table is above `i`. -/
def Tbl.above {α : Type} (i : Nat) (t : Tbl α) : Prop := ∀ x ∈ t, i < x.1

theorem Tbl.sorted_cons {α : Type} (i : Nat) (v : α) (t : Tbl α) :
    Tbl.sorted ((i, v) :: t) = true ↔ Tbl.above i t ∧ Tbl.sorted t = true := by
  induction t generalizing i v with
  | nil => simp [Tbl.sorted, Tbl.above]
  | cons y t ih =>
    obtain ⟨j, w⟩ := y
    constructor
    · intro h
      simp only [Tbl.sorted, Bool.and_eq_true, decide_eq_true_eq] at h
      refine ⟨?_, h.2⟩
      have h2 := (ih j w).1 h.2
      intro x hx
      rcases List.mem_cons.1 hx with rfl | hx
      · exact h.1
      · exact Nat.lt_trans h.1 (h2.1 x hx)
    · rintro ⟨ha, hs⟩
      simp only [Tbl.sorted, Bool.and_eq_true, decide_eq_true_eq]
      exact ⟨ha (j, w) (by simp), hs⟩

theorem Tbl.above_set {α : Type} {i k : Nat} (t : Tbl α) (v : α) (h : Tbl.above i t) (hk : i < k) :
    Tbl.above i (Tbl.set t k v) := by
  induction t with
  | nil => intro x hx; simp [Tbl.set] at hx; subst hx; exact hk
  | cons y t ih =>
    obtain ⟨j, w⟩ := y
    have hj : i < j := h (j, w) (by simp)
    have ht : Tbl.above i t := fun x hx => h x (by simp [hx])
    simp only [Tbl.set]
    split
    · intro x hx; rcases List.mem_cons.1 hx with rfl | hx
      · exact hk
      · exact h x hx
    · split
      · intro x hx; rcases List.mem_cons.1 hx with rfl | hx
        · exact hk
        · exact ht x hx
      · intro x hx; rcases List.mem_cons.1 hx with rfl | hx
        · exact hj
        · exact ih ht x hx

theorem Tbl.sorted_set {α : Type} (t : Tbl α) (k : Nat) (v : α) (h : Tbl.sorted t = true) :
    Tbl.sorted (Tbl.set t k v) = true := by
  induction t with
  | nil => rfl
  | cons y t ih =>
    obtain ⟨j, w⟩ := y
    obtain ⟨ha, hs⟩ := (Tbl.sorted_cons j w t).1 h
    simp only [Tbl.set]
    split
    · rename_i hlt
      refine (Tbl.sorted_cons k v _).2 ⟨?_, h⟩
      intro x hx; rcases List.mem_cons.1 hx with rfl | hx
      · exact hlt
      · exact Nat.lt_trans hlt (ha x hx)
    · split
      · rename_i hne he
        subst he
        exact (Tbl.sorted_cons k v _).2 ⟨ha, hs⟩
      · rename_i h1 h2
        refine (Tbl.sorted_cons j w _).2 ⟨Tbl.above_set t v ha (by omega), ih hs⟩

theorem Tbl.erase_mem {α : Type} {x : Nat × α} {t : Tbl α} {k : Nat} (h : x ∈ Tbl.erase t k) : x ∈ t := by
  induction t with
  | nil => simp [Tbl.erase] at h
  | cons y t ih =>
    obtain ⟨j, w⟩ := y
    simp only [Tbl.erase] at h
    split at h
    · simp [h]
    · rcases List.mem_cons.1 h with rfl | h
      · simp
      · simp [ih h]

theorem Tbl.sorted_erase {α : Type} (t : Tbl α) (k : Nat) (h : Tbl.sorted t = true) :
    Tbl.sorted (Tbl.erase t k) = true := by
  induction t with
  | nil => rfl
  | cons y t ih =>
    obtain ⟨j, w⟩ := y
    obtain ⟨ha, hs⟩ := (Tbl.sorted_cons j w t).1 h
    simp only [Tbl.erase]
    split
    · exact hs
    · exact (Tbl.sorted_cons j w _).2 ⟨fun x hx => ha x (Tbl.erase_mem hx), ih hs⟩

theorem Tbl.sorted_filter {α : Type} (t : Tbl α) (p : Nat × α → Bool) (h : Tbl.sorted t = true) :
    Tbl.sorted (t.filter p) = true := by
  induction t with
  | nil => rfl
  | cons y t ih =>
    obtain ⟨j, w⟩ := y
    obtain ⟨ha, hs⟩ := (Tbl.sorted_cons j w t).1 h
    simp only [List.filter]
    split
    · exact (Tbl.sorted_cons j w _).2 ⟨fun x hx => ha x (List.mem_filter.1 hx).1, ih hs⟩
    · exact ih hs

theorem Tbl.set_mem {α : Type} {x : Nat × α} {t : Tbl α} {k : Nat} {v : α} (h : x ∈ Tbl.set t k v) :
    x = (k, v) ∨ x ∈ t := by
  induction t with
  | nil => simp [Tbl.set] at h; exact Or.inl h
  | cons y t ih =>
    obtain ⟨j, w⟩ := y
    simp only [Tbl.set] at h
    split at h
    · rcases List.mem_cons.1 h with h | h
      · exact Or.inl h
      · exact Or.inr h
    · split at h
      · rcases List.mem_cons.1 h with h | h
        · exact Or.inl h
        · exact Or.inr (by simp [h])
      · rcases List.mem_cons.1 h with h | h
        · exact Or.inr (by simp [h])
        · rcases ih h with h | h
          · exact Or.inl h
          · exact Or.inr (by simp [h])

theorem Mem.wf_iff (m : Mem) : m.wf = true ↔ Tbl.sorted m = true ∧ ∀ c ∈ m, c.2 ≠ Mem.unlisted := by
  simp [Mem.wf]

theorem Mem.write_wf (m : Mem) (a : Nat) (v : Byte) (h : m.wf = true) : (m.write a v).wf = true := by
  obtain ⟨hs, hv⟩ := (Mem.wf_iff m).1 h
  unfold Mem.write
  split
  · exact (Mem.wf_iff _).2 ⟨Tbl.sorted_erase m a hs, fun c hc => hv c (Tbl.erase_mem hc)⟩
  · rename_i hne
    refine (Mem.wf_iff _).2 ⟨Tbl.sorted_set m a v hs, fun c hc => ?_⟩
    rcases Tbl.set_mem hc with rfl | hc
    · exact hne
    · exact hv c hc

theorem Mem.writeN_wf (m : Mem) (a : Nat) (bs : List Byte) (h : m.wf = true) : (m.writeN a bs).wf = true := by
  induction bs generalizing m a with
  | nil => exact h
  | cons b bs ih => exact ih _ _ (Mem.write_wf m a b h)

theorem Mem.filter_wf (m : Mem) (p : Host.Cell → Bool) (h : m.wf = true) : Mem.wf (m.filter p) = true := by
  obtain ⟨hs, hv⟩ := (Mem.wf_iff m).1 h
  exact (Mem.wf_iff _).2 ⟨Tbl.sorted_filter m p hs, fun c hc => hv c (List.mem_filter.1 hc).1⟩

theorem Mem.zero_wf (m : Mem) (a n : Nat) (h : m.wf = true) : (m.zero a n).wf = true := Mem.filter_wf m _ h

theorem Mem.foldWrite_wf {α β : Type} (f : Mem × β → α → Mem × β) (hf : ∀ p x, p.1.wf = true → (f p x).1.wf = true)
    (l : List α) (p : Mem × β) (h : p.1.wf = true) : (l.foldl f p).1.wf = true := by
  induction l generalizing p with
  | nil => exact h
  | cons x l ih => exact ih _ (hf p x h)

/-! ### Reads after writes -/

theorem Tbl.set_set {α : Type} (t : Tbl α) (k : Nat) (v w : α) : (t.set k v).set k w = t.set k w := by
  induction t with
  | nil => simp [Tbl.set]
  | cons x t ih =>
    obtain ⟨j, y⟩ := x
    simp only [Tbl.set]
    split
    · simp [Tbl.set]
    · split
      · simp [Tbl.set]
      · rename_i h1 h2; simp [Tbl.set, h1, h2, ih]

@[simp] theorem Tbl.get?_set {α : Type} (t : Tbl α) (k : Nat) (v : α) : (t.set k v).get? k = some v := by
  induction t with
  | nil => simp [Tbl.set, Tbl.get?]
  | cons x t ih =>
    obtain ⟨j, y⟩ := x
    simp only [Tbl.set]
    split
    · simp [Tbl.get?]
    · split
      · simp [Tbl.get?]
      · rename_i h1 h2; simp [Tbl.get?, ih]; intro h; omega

theorem Tbl.get?_set_ne {α : Type} (t : Tbl α) (k j : Nat) (v : α) (h : j ≠ k) : (t.set k v).get? j = t.get? j := by
  induction t with
  | nil => simp [Tbl.set, Tbl.get?]; omega
  | cons x t ih =>
    obtain ⟨i, y⟩ := x
    simp only [Tbl.set]
    split
    · simp [Tbl.get?]; omega
    · split
      · rename_i h1 h2; subst h2; simp [Tbl.get?, Ne.symm h]
      · simp [Tbl.get?, ih]

theorem Tbl.get?_none_of_above {α : Type} {i k : Nat} (t : Tbl α) (h : Tbl.above i t) (hk : k ≤ i) : t.get? k = none := by
  induction t with
  | nil => rfl
  | cons x t ih =>
    obtain ⟨j, y⟩ := x
    have hj : i < j := h (j, y) (by simp)
    have : j ≠ k := by omega
    simp [Tbl.get?, this, ih fun x hx => h x (by simp [hx])]

theorem Tbl.get?_erase {α : Type} (t : Tbl α) (k : Nat) (h : Tbl.sorted t = true) : (t.erase k).get? k = none := by
  induction t with
  | nil => rfl
  | cons x t ih =>
    obtain ⟨j, y⟩ := x
    obtain ⟨ha, hs⟩ := (Tbl.sorted_cons j y t).1 h
    simp only [Tbl.erase]
    split
    · rename_i e; exact Tbl.get?_none_of_above t ha (by omega)
    · rename_i e; simp [Tbl.get?, e, ih hs]

theorem Tbl.get?_erase_ne {α : Type} (t : Tbl α) (k j : Nat) (h : j ≠ k) : (t.erase k).get? j = t.get? j := by
  induction t with
  | nil => rfl
  | cons x t ih =>
    obtain ⟨i, y⟩ := x
    simp only [Tbl.erase]
    split
    · rename_i e; have : i ≠ j := by omega
      simp [Tbl.get?, this]
    · simp [Tbl.get?, ih]

/-- A byte reads as it was written, in a memory in canonical form. -/
theorem Mem.read_write (m : Mem) (a : Nat) (v : Byte) (h : m.wf = true) : (m.write a v).read a = v := by
  unfold Mem.write Mem.read Tbl.getD
  split
  · rename_i e; rw [Tbl.get?_erase m a ((Mem.wf_iff m).1 h).1, e]; rfl
  · simp

/-- Any other byte reads as before. -/
theorem Mem.read_write_ne (m : Mem) (a b : Nat) (v : Byte) (h : b ≠ a) : (m.write a v).read b = m.read b := by
  unfold Mem.write Mem.read Tbl.getD
  split
  · rw [Tbl.get?_erase_ne m a b h]
  · rw [Tbl.get?_set_ne m a b v h]

theorem Mem.read_writeN_out (m : Mem) (a b : Nat) (bs : List Byte) (h : b < a ∨ a + bs.length ≤ b) :
    (m.writeN a bs).read b = m.read b := by
  induction bs generalizing m a with
  | nil => rfl
  | cons x bs ih =>
    simp only [List.length_cons] at h
    rw [Mem.writeN, ih _ _ (by omega), Mem.read_write_ne _ _ _ _ (by omega)]

/-- The bytes written read back. -/
theorem Mem.readN_writeN (m : Mem) (a : Nat) (bs : List Byte) (h : m.wf = true) :
    (m.writeN a bs).readN a bs.length = bs := by
  induction bs generalizing m a with
  | nil => rfl
  | cons x bs ih =>
    simp only [Mem.writeN, List.length_cons, Mem.readN]
    rw [ih _ _ (Mem.write_wf m a x h), Mem.read_writeN_out _ _ _ _ (by omega), Mem.read_write m a x h]

/-- A range that the write does not meet reads as before. -/
theorem Mem.readN_writeN_out (m : Mem) (a b n : Nat) (bs : List Byte) (h : b + n ≤ a ∨ a + bs.length ≤ b) :
    (m.writeN a bs).readN b n = m.readN b n := by
  induction n generalizing b with
  | zero => rfl
  | succ n ih => simp only [Mem.readN]; rw [ih _ (by omega), Mem.read_writeN_out _ _ _ _ (by omega)]

end Sys2Proof.Machine
end

