-- ==== Sys2Proof/Laws/Apart.lean ====
section
/-! SUPPORT. What the functions of the ZE-208 leave alone: everything of the switch. -/

namespace Sys2Proof.Machine

theorem Apart.refl (s : State) : Apart s s := rfl

theorem Apart.congr {s0 s t : State} (h : Apart s0 s)
    (e : { t with ep := s0.ep, out := s0.out, free := s0.free } = { s with ep := s0.ep, out := s0.out, free := s0.free }) :
    Apart s0 t := e.trans h

/-- An outcome whose next state is apart from `s0` in the ZE-208 alone. -/
def OutApart (s0 : State) (o : Host.Outcome State Fault Refusal) : Prop := ∀ t, o = .next t → Apart s0 t

theorem OutApart.next {s0 s : State} (h : Apart s0 s) : OutApart s0 (.next s) := by
  intro t ht; cases ht; exact h

theorem ite_apart {s0 a b : State} {c : Prop} [Decidable c] (ha : Apart s0 a) (hb : Apart s0 b) :
    Apart s0 (if c then a else b) := by split <;> assumption

theorem ite_outApart {s0 : State} {a b : Host.Outcome State Fault Refusal} {c : Prop} [Decidable c]
    (ha : OutApart s0 a) (hb : OutApart s0 b) : OutApart s0 (if c then a else b) := by split <;> assumption

theorem iteP_apart {s0 : State} {α : Type} {a b : State × α} {c : Prop} [Decidable c] (ha : Apart s0 a.1)
    (hb : Apart s0 b.1) : Apart s0 (if c then a else b).1 := by split <;> assumption

theorem fst_apart {s0 s : State} {α : Type} {a : α} {p : State × α} (e : p = (s, a)) (hp : Apart s0 p.1) :
    Apart s0 s := by subst e; exact hp

theorem foldl_apart {α : Type} {s0 s : State} {F : State → α → State} (l : List α) (h : Apart s0 s)
    (hF : ∀ s a, Apart s0 s → Apart s0 (F s a)) : Apart s0 (l.foldl F s) := by
  induction l generalizing s with
  | nil => exact h
  | cons a l ih => exact ih (hF s a h)

theorem foldlP_apart {α β : Type} {s0 : State} {p : State × β} {F : State × β → α → State × β} (l : List α)
    (h : Apart s0 p.1) (hF : ∀ p a, Apart s0 p.1 → Apart s0 (F p a).1) : Apart s0 (l.foldl F p).1 := by
  induction l generalizing p with
  | nil => exact h
  | cons a l ih => exact ih (hF p a h)

theorem onEp_apart {s0 s : State} (f : Ep → Ep) (h : Apart s0 s) : Apart s0 (s.onEp f) := h.congr rfl
theorem emit_apart {s0 s : State} (e : Out) (h : Apart s0 s) : Apart s0 (s.emit e) := h.congr rfl
theorem epAt_apart {s0 s : State} (t : Time) (h : Apart s0 s) : Apart s0 (s.epAt t) := h.congr rfl
theorem onTn_apart {s0 : State} (s : State) (f : TimeNode → TimeNode) (h : Apart s0 s) : Apart s0 (onTn s .ze f) :=
  onEp_apart _ h
theorem epLeave_apart {s0 : State} (s : State) (port : Nat) (vc : Fin 8) (p : Packet) (h : Apart s0 s) :
    Apart s0 (epLeave s port vc p) := by unfold epLeave; split; exact onEp_apart _ h; exact emit_apart _ h
theorem originateReport_apart {s0 : State} (s : State) (kind cause : Byte) (subject : Node) (port : Nat)
    (h : Apart s0 s) : Apart s0 (originateReport s .ze kind cause subject port) :=
  foldl_apart _ (onTn_apart _ _ (onTn_apart _ _ h)) fun _ _ h => epLeave_apart _ _ _ _ h
theorem reportGiveUp_apart {s0 : State} (s : State) (dst : Node) (h : Apart s0 s) : Apart s0 (reportGiveUp s .ze dst) :=
  originateReport_apart s 2 0 dst 0 h
theorem reportEpDown_apart {s0 : State} (s : State) (cause : Byte) (h : Apart s0 s) : Apart s0 (reportEpDown s cause) :=
  originateReport_apart s 3 cause s.ep.nodeId 0 h

theorem epSubmit_apart {s0 : State} (s : State) (cause : Cause) (p : Packet) (hK : Apart s0 s) : Apart s0 (epSubmit s
    cause p) := by
  unfold epSubmit
  try dsimp only
  repeat' first
    | with_reducible first
        | assumption | apply onEp_apart
    | (intro _; intros)

theorem onOp_apart {s0 : State} (s : State) (i : Nat) (k : BitVec 32) (f : EpOp → EpOp) (hK : Apart s0 s) : Apart s0
    (onOp s i k f) := by
  unfold onOp
  try dsimp only
  repeat' first
    | with_reducible first
        | assumption | apply ite_apart | apply iteP_apart | apply onEp_apart
    | (intro _; intros) | split | refine fst_apart (by with_reducible assumption) ?_

theorem sendDirect_apart {s0 : State} (s : State) (o : EpOp) (hK : Apart s0 s) : Apart s0 (sendDirect s o) := by
  unfold sendDirect
  try dsimp only
  repeat' first
    | with_reducible first
        | assumption | apply foldl_apart | apply foldlP_apart | apply epSubmit_apart | apply onOp_apart
    | (intro _; intros)

theorem epMwr_apart {s0 : State} (s : State) (addr : Nat) (data : List Byte) (use : D2dUse) (hK : Apart s0 s) : Apart
    s0 (epMwr s addr data use) := by
  unfold epMwr
  try dsimp only
  repeat' first
    | with_reducible first
        | assumption | apply ite_apart | apply iteP_apart | apply onEp_apart | apply emit_apart
    | (intro _; intros) | split | refine fst_apart (by with_reducible assumption) ?_

theorem epDecide_apart {s0 : State} (s : State) (i : Nat) (k : BitVec 32) (st : Status) (row : Nat) (hK : Apart s0 s)
    : Apart s0 (epDecide s i k st row) := by
  unfold epDecide
  try dsimp only
  repeat' first
    | with_reducible first
        | assumption | apply ite_apart | apply iteP_apart | apply onOp_apart
    | (intro _; intros) | split | refine fst_apart (by with_reducible assumption) ?_

theorem epMrd_apart {s0 : State} (s : State) (addr : Nat) (len : Nat) (use : D2dUse) (hK : Apart s0 s) : Apart s0
    (epMrd s addr len use) := by
  unfold epMrd
  try dsimp only
  repeat' first
    | with_reducible first
        | assumption | apply emit_apart | apply onEp_apart
    | (intro _; intros)

theorem epStep_apart {s0 : State} (s : State) (i : Nat) (k : BitVec 32) (hK : Apart s0 s) : Apart s0 (epStep s i k) :=
    by
  unfold epStep
  try dsimp only
  repeat' first
    | with_reducible first
        | assumption | apply ite_apart | apply iteP_apart | apply epMwr_apart | apply onOp_apart
        | apply epDecide_apart | apply sendDirect_apart | apply epMrd_apart
    | (intro _; intros) | split | refine fst_apart (by with_reducible assumption) ?_

theorem epWriteback_apart {s0 : State} (s : State) (c : CacheLine) (cause : Cause) (stream : Nat) (hK : Apart s0 s) :
    Apart s0 (epWriteback s c cause stream) := by
  unfold epWriteback
  try dsimp only
  repeat' first
    | with_reducible first
        | assumption | apply epSubmit_apart
    | (intro _; intros)

theorem epTakeOut_apart {s0 : State} (s : State) (i : Nat) (k : BitVec 32) (home : Node) (region : Nat) (spans : List
    (Nat × Nat)) (stream : Nat) (leave : Bool) (zero : Bool) (hK : Apart s0 s) : Apart s0 (epTakeOut s i k home region
    spans stream leave zero) := by
  unfold epTakeOut
  try dsimp only
  repeat' first
    | with_reducible first
        | assumption | apply ite_apart | apply iteP_apart | apply foldl_apart | apply foldlP_apart | apply onEp_apart
        | apply epWriteback_apart | apply onOp_apart
    | (intro _; intros) | split | refine fst_apart (by with_reducible assumption) ?_

theorem epInsert_apart {s0 : State} (s : State) (c : CacheLine) (hK : Apart s0 s) : Apart s0 (epInsert s c) := by
  unfold epInsert
  try dsimp only
  repeat' first
    | with_reducible first
        | assumption | apply ite_apart | apply iteP_apart | apply onEp_apart | apply epWriteback_apart
    | (intro _; intros) | split | refine fst_apart (by with_reducible assumption) ?_

theorem epMwrGo_apart {s0 : State} (x0 : Nat) (x1 : State) (hK : Apart s0 x1) : Apart s0 (epMwrGo x0 x1) := by
  induction x0 generalizing x1
  case zero =>
    unfold epMwrGo
    try dsimp only
    repeat' first
      | with_reducible first
          | assumption | apply ite_apart | apply iteP_apart | apply onEp_apart | apply emit_apart
      | (intro _; intros) | split | refine fst_apart (by with_reducible assumption) ?_
  case succ n ih =>
    unfold epMwrGo
    try dsimp only
    repeat' first
      | with_reducible first
          | assumption | apply ih | apply ite_apart | apply iteP_apart | apply onEp_apart | apply emit_apart
      | (intro _; intros) | split | refine fst_apart (by with_reducible assumption) ?_

theorem epAbsorb_apart {s0 : State} (s : State) (c : CacheLine) (off : Nat) (data : List Byte) (hK : Apart s0 s) :
    Apart s0 (epAbsorb s c off data) := by
  unfold epAbsorb
  try dsimp only
  repeat' first
    | with_reducible first
        | assumption | apply ite_apart | apply iteP_apart | apply onEp_apart | apply at__apart
    | (intro _; intros) | split | refine fst_apart (by with_reducible assumption) ?_

theorem epOutOn_apart {s0 : State} (s : State) (port : Nat) (vc : Fin 8) (p : Packet) (hK : Apart s0 s) : Apart s0
    (epOutOn s port vc p) := by
  unfold epOutOn
  try dsimp only
  repeat' first
    | with_reducible first
        | assumption | apply ite_apart | apply iteP_apart | apply onEp_apart | apply epLeave_apart
    | (intro _; intros) | split | refine fst_apart (by with_reducible assumption) ?_

theorem badDoorbell_apart {s0 : State} (s : State) (hK : Apart s0 s) : Apart s0 (badDoorbell s) := by
  unfold badDoorbell
  try dsimp only
  repeat' first
    | with_reducible first
        | assumption | apply onEp_apart
    | (intro _; intros)

theorem epOut_apart {s0 : State} (s : State) (port : Nat) (p : Packet) (hK : Apart s0 s) : Apart s0 (epOut s port p)
    := by
  unfold epOut
  try dsimp only
  repeat' first
    | with_reducible first
        | assumption | apply epOutOn_apart
    | (intro _; intros)

theorem onEpQ_apart {s0 : State} (s : State) (i : Nat) (f : EpQueue → EpQueue) (hK : Apart s0 s) : Apart s0 (onEpQ s i
    f) := by
  unfold onEpQ
  try dsimp only
  repeat' first
    | with_reducible first
        | assumption | apply onEp_apart
    | (intro _; intros)

theorem dropOp_apart {s0 : State} (s : State) (i : Nat) (k : BitVec 32) (hK : Apart s0 s) : Apart s0 (dropOp s i k) :=
    by
  unfold dropOp
  try dsimp only
  repeat' first
    | with_reducible first
        | assumption | apply onEp_apart
    | (intro _; intros)

theorem epAbortRecord_apart {s0 : State} (s : State) (i : Nat) (k : BitVec 32) (tag : BitVec 32) (st : Status) (hK :
    Apart s0 s) : Apart s0 (epAbortRecord s i k tag st) := by
  unfold epAbortRecord
  try dsimp only
  repeat' first
    | with_reducible first
        | assumption | apply epMwr_apart
    | (intro _; intros)

theorem epStepAll_apart {s0 : State} (s : State) (hK : Apart s0 s) : Apart s0 (epStepAll s) := by
  unfold epStepAll
  try dsimp only
  repeat' first
    | with_reducible first
        | assumption | apply foldl_apart | apply foldlP_apart | apply epStep_apart
    | (intro _; intros)

theorem contribGo_apart {s0 : State} (s : State) (j : Nat) (hK : Apart s0 s) : Apart s0 (contribGo s j) := by
  unfold contribGo
  try dsimp only
  repeat' first
    | with_reducible first
        | assumption | apply ite_apart | apply iteP_apart | apply epMrd_apart | apply onOp_apart
    | (intro _; intros) | split | refine fst_apart (by with_reducible assumption) ?_

theorem resultLanded_apart {s0 : State} (s : State) (j : Nat) (p : Packet) (hK : Apart s0 s) : Apart s0 (resultLanded
    s j p) := by
  unfold resultLanded
  try dsimp only
  repeat' first
    | with_reducible first
        | assumption | apply ite_apart | apply iteP_apart | apply onEp_apart | apply epDecide_apart
        | apply contribGo_apart
    | (intro _; intros) | split | refine fst_apart (by with_reducible assumption) ?_

theorem epStart_apart {s0 : State} (s : State) (i : Nat) (k : BitVec 32) (d : Desc) (hK : Apart s0 s) : Apart s0
    (epStart s i k d) := by
  unfold epStart
  try dsimp only
  repeat' first
    | with_reducible first
        | assumption | apply ite_apart | apply iteP_apart | apply onOp_apart | apply epMwr_apart
        | apply epTakeOut_apart | apply onEp_apart
    | (intro _; intros) | split | refine fst_apart (by with_reducible assumption) ?_

theorem dropWaiting_apart {s0 : State} (s : State) (i : Nat) (k : BitVec 32) (hK : Apart s0 s) : Apart s0 (dropWaiting
    s i k) := by
  unfold dropWaiting
  try dsimp only
  repeat' first
    | with_reducible first
        | assumption | apply foldl_apart | apply foldlP_apart | apply onOp_apart | apply onEp_apart
        | apply epInsert_apart
    | (intro _; intros)

theorem opDataGot_apart {s0 : State} (s : State) (i : Nat) (k : BitVec 32) (row : Nat) (off : Nat) (last : Bool) (ok :
    Bool) (data : List Byte) (hK : Apart s0 s) : Apart s0 (opDataGot s i k row off last ok data) := by
  unfold opDataGot
  try dsimp only
  repeat' first
    | with_reducible first
        | assumption | apply ite_apart | apply iteP_apart | apply onOp_apart | apply dropWaiting_apart
        | apply epAbsorb_apart | apply epTakeOut_apart | apply epSubmit_apart
    | (intro _; intros) | split | refine fst_apart (by with_reducible assumption) ?_

theorem contribResolved_apart {s0 : State} (s : State) (i : Nat) (k : BitVec 32) (st : Status) (hK : Apart s0 s) :
    Apart s0 (contribResolved s i k st) := by
  unfold contribResolved
  try dsimp only
  repeat' first
    | with_reducible first
        | assumption | apply ite_apart | apply iteP_apart | apply onOp_apart | apply epDecide_apart
        | apply dropWaiting_apart
    | (intro _; intros) | split | refine fst_apart (by with_reducible assumption) ?_

theorem epTake_apart {s0 : State} (s : State) (i : Nat) (op : Nat) (hK : Apart s0 s) : Apart s0 (epTake s i op) := by
  unfold epTake
  try dsimp only
  repeat' first
    | with_reducible first
        | assumption | apply ite_apart | apply iteP_apart | apply dropOp_apart | apply epStepAll_apart
        | apply onEpQ_apart | apply onEp_apart | apply epDecide_apart | apply epStart_apart | apply contribGo_apart
    | (intro _; intros) | split | refine fst_apart (by with_reducible assumption) ?_

theorem closeOne_apart {s0 : State} (s : State) (i : Nat) (k : BitVec 32) (fail : Option (Nat × Status)) (hK : Apart
    s0 s) : Apart s0 (closeOne s i k fail) := by
  unfold closeOne
  try dsimp only
  repeat' first
    | with_reducible first
        | assumption | apply ite_apart | apply iteP_apart | apply onOp_apart
    | (intro _; intros) | split | refine fst_apart (by with_reducible assumption) ?_

theorem abortDoorbell_apart {s0 : State} (s : State) (i : Nat) (target : BitVec 32) (tag : BitVec 32) (hK : Apart s0
    s) : Apart s0 (abortDoorbell s i target tag) := by
  unfold abortDoorbell
  try dsimp only
  repeat' first
    | with_reducible first
        | assumption | apply ite_apart | apply iteP_apart | apply badDoorbell_apart | apply epAbortRecord_apart
        | apply onEp_apart | apply epStepAll_apart | apply epDecide_apart | apply onOp_apart | apply dropWaiting_apart
    | (intro _; intros) | split | refine fst_apart (by with_reducible assumption) ?_

theorem opLanded_apart {s0 : State} (s : State) (i : Nat) (k : BitVec 32) (row : Nat) (bytes : Nat) (ok : Bool) (hK :
    Apart s0 s) : Apart s0 (opLanded s i k row bytes ok) := by
  unfold opLanded
  try dsimp only
  repeat' first
    | with_reducible first
        | assumption | apply ite_apart | apply iteP_apart | apply closeOne_apart | apply onEp_apart
    | (intro _; intros) | split | refine fst_apart (by with_reducible assumption) ?_

theorem cacheReply_apart {s0 : State} (s : State) (d : Desc) (q : EpQueue) (p : Packet) (hK : Apart s0 s) : Apart s0
    (cacheReply s d q p) := by
  unfold cacheReply
  try dsimp only
  repeat' first
    | with_reducible first
        | assumption | apply ite_apart | apply iteP_apart | apply epInsert_apart
    | (intro _; intros) | split | refine fst_apart (by with_reducible assumption) ?_

theorem prodDoorbell_apart {s0 : State} (s : State) (i : Nat) (prod : BitVec 32) (ds : List Desc) (hK : Apart s0 s) :
    Apart s0 (prodDoorbell s i prod ds) := by
  unfold prodDoorbell
  try dsimp only
  repeat' first
    | with_reducible first
        | assumption | apply ite_apart | apply iteP_apart | apply onEpQ_apart | apply badDoorbell_apart
    | (intro _; intros) | split | refine fst_apart (by with_reducible assumption) ?_

theorem writebackResolved_apart {s0 : State} (s : State) (i : Nat) (k : BitVec 32) (st : Status) (hK : Apart s0 s) :
    Apart s0 (writebackResolved s i k st) := by
  unfold writebackResolved
  try dsimp only
  repeat' first
    | with_reducible first
        | assumption | apply ite_apart | apply iteP_apart | apply onOp_apart
    | (intro _; intros) | split | refine fst_apart (by with_reducible assumption) ?_

theorem contribData_apart {s0 : State} (s : State) (j : Nat) (i : Nat) (k : BitVec 32) (g : Nat) (probe : Bool) (ok :
    Bool) (data : List Byte) (hK : Apart s0 s) : Apart s0 (contribData s j i k g probe ok data) := by
  unfold contribData
  try dsimp only
  repeat' first
    | with_reducible first
        | assumption | apply ite_apart | apply iteP_apart | apply onOp_apart | apply epDecide_apart
        | apply epSubmit_apart | apply contribGo_apart | apply onEp_apart
    | (intro _; intros) | split | refine fst_apart (by with_reducible assumption) ?_

theorem recordDone_apart {s0 : State} (s : State) (i : Nat) (k : BitVec 32) (notify : Bool) (hK : Apart s0 s) : Apart
    s0 (recordDone s i k notify) := by
  unfold recordDone
  try dsimp only
  repeat' first
    | with_reducible first
        | assumption | apply ite_apart | apply iteP_apart | apply dropOp_apart | apply emit_apart
        | apply epAbortRecord_apart
    | (intro _; intros) | split | refine fst_apart (by with_reducible assumption) ?_

theorem queueResolved_apart {s0 : State} (s : State) (i : Nat) (k : BitVec 32) (row : Nat) (laddr : Nat) (st : Status)
    (p : Packet) (hK : Apart s0 s) : Apart s0 (queueResolved s i k row laddr st p) := by
  unfold queueResolved
  try dsimp only
  repeat' first
    | with_reducible first
        | assumption | apply ite_apart | apply iteP_apart | apply closeOne_apart | apply cacheReply_apart
        | apply onOp_apart | apply epMwr_apart
    | (intro _; intros) | split | refine fst_apart (by with_reducible assumption) ?_

theorem onEpXp_apart {s0 : State} (s : State) (f : Xport → Xport) (hK : Apart s0 s) : Apart s0 (onEpXp s f) := by
  unfold onEpXp
  try dsimp only
  repeat' first
    | with_reducible first
        | assumption | apply onEp_apart
    | (intro _; intros)

theorem setRwin_apart {s0 : State} (s : State) (p : Packet) (d : DstSrc) (hK : Apart s0 s) : Apart s0 (setRwin s p d)
    := by
  unfold setRwin
  try dsimp only
  repeat' first
    | with_reducible first
        | assumption | apply onEp_apart
    | (intro _; intros)

theorem epRespond_apart {s0 : State} (s : State) (a : Arrival) (p : Packet) (hK : Apart s0 s) : Apart s0 (epRespond s
    a p) := by
  unfold epRespond
  try dsimp only
  repeat' first
    | with_reducible first
        | assumption | apply epOutOn_apart
    | (intro _; intros)

theorem resultEnd_apart {s0 : State} (s : State) (a : Arrival) (st : Status) (hK : Apart s0 s) : Apart s0 (resultEnd s
    a st) := by
  unfold resultEnd
  try dsimp only
  repeat' first
    | with_reducible first
        | assumption | apply ite_apart | apply iteP_apart | apply onEpXp_apart | apply setRwin_apart
        | apply epRespond_apart
    | (intro _; intros) | split | refine fst_apart (by with_reducible assumption) ?_

theorem epFinish_apart {s0 : State} (s : State) (a : Arrival) (st : Status) (ans : Packet) (leave : Bool) (hK : Apart
    s0 s) : Apart s0 (epFinish s a st ans leave) := by
  unfold epFinish
  try dsimp only
  repeat' first
    | with_reducible first
        | assumption | apply ite_apart | apply iteP_apart | apply onEpXp_apart | apply epRespond_apart
    | (intro _; intros) | split | refine fst_apart (by with_reducible assumption) ?_

theorem epRefuse_apart {s0 : State} (s : State) (a : Arrival) (st : Status) (hK : Apart s0 s) : Apart s0 (epRefuse s a
    st) := by
  unfold epRefuse
  try dsimp only
  repeat' first
    | with_reducible first
        | assumption | apply epFinish_apart
    | (intro _; intros)

theorem epCounterRead_apart {s0 : State} (s : State) (a : Arrival) (hK : Apart s0 s) : Apart s0 (epCounterRead s a) :=
    by
  unfold epCounterRead
  try dsimp only
  repeat' first
    | with_reducible first
        | assumption | apply ite_apart | apply iteP_apart | apply epRefuse_apart | apply epFinish_apart
    | (intro _; intros) | split | refine fst_apart (by with_reducible assumption) ?_

theorem epWriteDone_apart {s0 : State} (s : State) (a : Arrival) (ok : Bool) (bytes : Nat) (hK : Apart s0 s) : Apart
    s0 (epWriteDone s a ok bytes) := by
  unfold epWriteDone
  try dsimp only
  repeat' first
    | with_reducible first
        | assumption | apply ite_apart | apply iteP_apart | apply epRefuse_apart | apply onEp_apart
        | apply epFinish_apart
    | (intro _; intros) | split | refine fst_apart (by with_reducible assumption) ?_

theorem epRun_apart {s0 : State} (s : State) (a : Arrival) (addr : Nat) (hK : Apart s0 s) : Apart s0 (epRun s a addr)
    := by
  unfold epRun
  try dsimp only
  repeat' first
    | with_reducible first
        | assumption | apply ite_apart | apply iteP_apart | apply foldl_apart | apply foldlP_apart | apply onEp_apart
        | apply epMrd_apart | apply epWriteDone_apart | apply epMwr_apart | apply serveRead_apart
        | apply serveWrite_apart
    | (intro _; intros) | split | refine fst_apart (by with_reducible assumption) ?_

theorem epReceive_apart {s0 : State} (s : State) (a : Arrival) (go : State → State) (h_go : ∀ y0, Apart s0 y0 → Apart
    s0 (go y0)) (hK : Apart s0 s) : Apart s0 (epReceive s a go) := by
  unfold epReceive
  try dsimp only
  repeat' first
    | with_reducible first
        | assumption | apply h_go | apply ite_apart | apply iteP_apart | apply epRespond_apart | apply onEpXp_apart
        | apply epRefuse_apart
    | (intro _; intros) | split | refine fst_apart (by with_reducible assumption) ?_

theorem epClosing_apart {s0 : State} (s : State) (a : Arrival) (hK : Apart s0 s) : Apart s0 (epClosing s a) := by
  unfold epClosing
  try dsimp only
  repeat' first
    | with_reducible first
        | assumption | apply ite_apart | apply iteP_apart | apply epRefuse_apart | apply onEpXp_apart
        | apply epRespond_apart
    | (intro _; intros) | split | refine fst_apart (by with_reducible assumption) ?_

theorem epRerun_apart {s0 : State} (s : State) (a : Arrival) (hK : Apart s0 s) : Apart s0 (epRerun s a) := by
  unfold epRerun
  try dsimp only
  repeat' first
    | with_reducible first
        | assumption | apply epRefuse_apart | apply epRun_apart
    | (intro _; intros) | split | refine fst_apart (by with_reducible assumption) ?_

theorem epWaitGo_apart {s0 : State} (s : State) (hK : Apart s0 s) : Apart s0 (epWaitGo s) := by
  unfold epWaitGo
  try dsimp only
  repeat' first
    | with_reducible first
        | assumption | apply foldl_apart | apply foldlP_apart | apply epRerun_apart | apply onEp_apart
    | (intro _; intros)

theorem serveAtomDone_apart {s0 : State} (s : State) (a : Arrival) (old : List Byte) (line : Nat) (ok : Bool) (hK :
    Apart s0 s) : Apart s0 (serveAtomDone s a old line ok) := by
  unfold serveAtomDone
  try dsimp only
  repeat' first
    | with_reducible first
        | assumption | apply ite_apart | apply iteP_apart | apply onEp_apart | apply epWaitGo_apart
        | apply epFinish_apart | apply epRefuse_apart
    | (intro _; intros) | split | refine fst_apart (by with_reducible assumption) ?_

theorem epResult_apart {s0 : State} (s : State) (a : Arrival) (hK : Apart s0 s) : Apart s0 (epResult s a) := by
  unfold epResult
  try dsimp only
  repeat' first
    | with_reducible first
        | assumption | apply ite_apart | apply iteP_apart | apply epRespond_apart | apply onEpXp_apart
        | apply setRwin_apart | apply resultEnd_apart | apply epMwr_apart
    | (intro _; intros) | split | refine fst_apart (by with_reducible assumption) ?_

theorem serveMwr_apart {s0 : State} (s : State) (a : Arrival) (ok : Bool) (hK : Apart s0 s) : Apart s0 (serveMwr s a
    ok) := by
  unfold serveMwr
  try dsimp only
  repeat' first
    | with_reducible first
        | assumption | apply ite_apart | apply iteP_apart | apply epWaitGo_apart | apply epWriteDone_apart
        | apply onEp_apart | apply serveWrite_apart
    | (intro _; intros) | split | refine fst_apart (by with_reducible assumption) ?_

theorem resultWritten_apart {s0 : State} (s : State) (j : Nat) (a : Arrival) (ok : Bool) (hK : Apart s0 s) : Apart s0
    (resultWritten s j a ok) := by
  unfold resultWritten
  try dsimp only
  repeat' first
    | with_reducible first
        | assumption | apply ite_apart | apply iteP_apart | apply resultLanded_apart | apply resultEnd_apart
    | (intro _; intros) | split | refine fst_apart (by with_reducible assumption) ?_

theorem mwrEnd_apart {s0 : State} (s : State) (d : D2d) (ok : Bool) (hK : Apart s0 s) : Apart s0 (mwrEnd s d ok) := by
  unfold mwrEnd
  try dsimp only
  repeat' first
    | with_reducible first
        | assumption | apply ite_apart | apply iteP_apart | apply onEp_apart | apply opLanded_apart
        | apply recordDone_apart | apply emit_apart | apply serveMwr_apart | apply serveAtomDone_apart
        | apply resultWritten_apart | apply epMwrGo_apart | apply epWaitGo_apart | apply serveWrite_apart
    | (intro _; intros) | split | refine fst_apart (by with_reducible assumption) ?_

theorem epServe_apart {s0 : State} (s : State) (a : Arrival) (hK : Apart s0 s) : Apart s0 (epServe s a) := by
  unfold epServe
  try dsimp only
  repeat' first
    | with_reducible first
        | assumption | apply epRefuse_apart | apply epRun_apart
    | (intro _; intros) | split | refine fst_apart (by with_reducible assumption) ?_

theorem epSnoop_apart {s0 : State} (s : State) (a : Arrival) (hK : Apart s0 s) : Apart s0 (epSnoop s a) := by
  unfold epSnoop
  try dsimp only
  repeat' first
    | with_reducible first
        | assumption | apply ite_apart | apply iteP_apart | apply onEp_apart | apply epOut_apart | apply at__apart
    | (intro _; intros) | split | refine fst_apart (by with_reducible assumption) ?_

theorem serveMrd_apart {s0 : State} (s : State) (a : Arrival) (atom : Bool) (ok : Bool) (data : List Byte) (hK : Apart
    s0 s) : Apart s0 (serveMrd s a atom ok data) := by
  unfold serveMrd
  try dsimp only
  repeat' first
    | with_reducible first
        | assumption | apply ite_apart | apply iteP_apart | apply epFinish_apart | apply epRefuse_apart
        | apply epWaitGo_apart | apply onEp_apart | apply epMwr_apart
    | (intro _; intros) | split | refine fst_apart (by with_reducible assumption) ?_

theorem mrdEnd_apart {s0 : State} (s : State) (d : D2d) (ok : Bool) (data : List Byte) (hK : Apart s0 s) : Apart s0
    (mrdEnd s d ok data) := by
  unfold mrdEnd
  try dsimp only
  repeat' first
    | with_reducible first
        | assumption | apply ite_apart | apply iteP_apart | apply onEp_apart | apply opDataGot_apart
        | apply contribData_apart | apply serveMrd_apart | apply serveRead_apart
    | (intro _; intros) | split | refine fst_apart (by with_reducible assumption) ?_

theorem epResolved_apart {s0 : State} (s : State) (c : Cause) (st : Status) (p : Packet) (hK : Apart s0 s) : Apart s0
    (epResolved s c st p) := by
  unfold epResolved
  try dsimp only
  repeat' first
    | with_reducible first
        | assumption | apply ite_apart | apply iteP_apart | apply queueResolved_apart | apply writebackResolved_apart
        | apply contribResolved_apart
    | (intro _; intros) | split | refine fst_apart (by with_reducible assumption) ?_

theorem epInject_apart {s0 : State} (s : State) (w : Submit) (port : Nat) (hK : Apart s0 s) : Apart s0 (epInject s w
    port) := by
  unfold epInject
  try dsimp only
  repeat' first
    | with_reducible first
        | assumption | apply ite_apart | apply iteP_apart | apply onEp_apart | apply onEpXp_apart | apply epOut_apart
    | (intro _; intros) | split | refine fst_apart (by with_reducible assumption) ?_

theorem epRetransmit_apart {s0 : State} (s : State) (o : Op) (hK : Apart s0 s) : Apart s0 (epRetransmit s o) := by
  unfold epRetransmit
  try dsimp only
  repeat' first
    | with_reducible first
        | assumption | apply ite_apart | apply iteP_apart | apply epOut_apart | apply onEpXp_apart
    | (intro _; intros) | split | refine fst_apart (by with_reducible assumption) ?_

theorem epEndAll_apart {s0 : State} (s : State) (sel : Packet → Bool) (hK : Apart s0 s) : Apart s0 (epEndAll s sel) :=
    by
  unfold epEndAll
  try dsimp only
  repeat' first
    | with_reducible first
        | assumption | apply foldl_apart | apply foldlP_apart | apply onEpXp_apart | apply epResolved_apart
    | (intro _; intros)

theorem epUnconfigure_apart {s0 : State} (s : State) (hK : Apart s0 s) : Apart s0 (epUnconfigure s) := by
  unfold epUnconfigure
  try dsimp only
  repeat' first
    | with_reducible first
        | assumption | apply ite_apart | apply iteP_apart | apply foldl_apart | apply foldlP_apart
        | apply reportEpDown_apart | apply epEndAll_apart | apply epDecide_apart | apply onEp_apart
        | apply epStepAll_apart | apply emit_apart
    | (intro _; intros) | split | refine fst_apart (by with_reducible assumption) ?_

theorem epcReadZe_apart {s0 : State} (s : State) (a : Arrival) (hK : Apart s0 s) : Apart s0 (epcReadZe s a) := by
  unfold epcReadZe
  try dsimp only
  repeat' first
    | with_reducible first
        | assumption | apply epFinish_apart
    | (intro _; intros)

theorem epYield_apart {s0 : State} (s : State) (hK : Apart s0 s) : Apart s0 (epYield s) := by
  unfold epYield
  try dsimp only
  repeat' first
    | with_reducible first
        | assumption | apply ite_apart | apply iteP_apart | apply foldl_apart | apply foldlP_apart
        | apply epTakeOut_apart
    | (intro _; intros) | split | refine fst_apart (by with_reducible assumption) ?_

theorem epPump_apart {s0 : State} (x0 : Nat) (x1 : State) (hK : Apart s0 x1) : Apart s0 (epPump x0 x1) := by
  induction x0 generalizing x1
  case zero =>
    unfold epPump
    try dsimp only
    repeat' first
      | with_reducible first
          | assumption | apply epInject_apart | apply epResolved_apart | apply onEpXp_apart
      | (intro _; intros) | split | refine fst_apart (by with_reducible assumption) ?_
  case succ n ih =>
    unfold epPump
    try dsimp only
    repeat' first
      | with_reducible first
          | assumption | apply ih | apply epInject_apart | apply epResolved_apart | apply onEpXp_apart
      | (intro _; intros) | split | refine fst_apart (by with_reducible assumption) ?_

theorem epFree_apart {s0 : State} (s : State) (hK : Apart s0 s) : Apart s0 (epFree s) := by
  unfold epFree
  try dsimp only
  repeat' first
    | with_reducible first
        | assumption | apply onEp_apart
    | (intro _; intros)

theorem epSettle_apart {s0 : State} (s : State) (hK : Apart s0 s) : Apart s0 (epSettle s) := by
  unfold epSettle
  try dsimp only
  repeat' first
    | with_reducible first
        | assumption | apply epYield_apart | apply epStepAll_apart | apply epPump_apart | apply epFree_apart
    | (intro _; intros)

theorem epResponse_apart {s0 : State} (s : State) (a : Arrival) (hK : Apart s0 s) : Apart s0 (epResponse s a) := by
  unfold epResponse
  try dsimp only
  repeat' first
    | with_reducible first
        | assumption | apply ite_apart | apply iteP_apart | apply onEpXp_apart | apply epResolved_apart
    | (intro _; intros) | split | refine fst_apart (by with_reducible assumption) ?_

theorem epSelf_apart {s0 : State} (s : State) (p : Packet) (hK : Apart s0 s) : Apart s0 (epSelf s p) := by
  unfold epSelf
  try dsimp only
  repeat' first
    | with_reducible first
        | assumption | apply ite_apart | apply iteP_apart | apply epResponse_apart | apply epReceive_apart
        | apply epCounterRead_apart | apply epClosing_apart | apply epServe_apart
    | (intro _; intros) | split | refine fst_apart (by with_reducible assumption) ?_

theorem epLoop_apart {s0 : State} (x0 : Nat) (x1 : State) (hK : Apart s0 x1) : Apart s0 (epLoop x0 x1) := by
  induction x0 generalizing x1
  case zero =>
    unfold epLoop
    try dsimp only
    repeat' first
      | with_reducible first
          | assumption | apply epSettle_apart | apply onEp_apart | apply epSelf_apart
      | (intro _; intros) | split | refine fst_apart (by with_reducible assumption) ?_
  case succ n ih =>
    unfold epLoop
    try dsimp only
    repeat' first
      | with_reducible first
          | assumption | apply ih | apply epSettle_apart | apply onEp_apart | apply epSelf_apart
      | (intro _; intros) | split | refine fst_apart (by with_reducible assumption) ?_

theorem atEp_apart {s0 : State} (s : State) (k : State → State) (h_k : ∀ y0, Apart s0 y0 → Apart s0 (k y0)) (hK :
    Apart s0 s) : Apart s0 (atEp s k) := by
  unfold atEp
  try dsimp only
  repeat' first
    | with_reducible first
        | assumption | apply h_k | apply epLoop_apart | apply epSettle_apart
    | (intro _; intros)

theorem epcWriteZe_apart {s0 : State} (s : State) (a : Arrival) (hK : Apart s0 s) : Apart s0 (epcWriteZe s a) := by
  unfold epcWriteZe
  try dsimp only
  repeat' first
    | with_reducible first
        | assumption | apply ite_apart | apply iteP_apart | apply epRefuse_apart | apply onEp_apart
        | apply epFinish_apart
    | (intro _; intros) | split | refine fst_apart (by with_reducible assumption) ?_

theorem epDropCell_apart {s0 : State} (s : State) (hK : Apart s0 s) : Apart s0 (epDropCell s) := by
  unfold epDropCell
  try dsimp only
  repeat' first
    | with_reducible first
        | assumption | apply onEp_apart
    | (intro _; intros)

theorem epGiveUp_apart {s0 : State} (s : State) (o : Op) (hK : Apart s0 s) : Apart s0 (epGiveUp s o) := by
  unfold epGiveUp
  try dsimp only
  repeat' first
    | with_reducible first
        | assumption | apply reportGiveUp_apart | apply epResolved_apart | apply onEpXp_apart
    | (intro _; intros)

theorem epStagedGo_apart {s0 : State} (s : State) (hK : Apart s0 s) : Apart s0 (epStagedGo s) := by
  unfold epStagedGo
  try dsimp only
  repeat' first
    | with_reducible first
        | assumption | apply foldl_apart | apply foldlP_apart | apply onEp_apart
    | (intro _; intros)

theorem relayTell_apart {s0 : State} (s : State) (hK : Apart s0 s) : Apart s0 (relayTell s) := by
  unfold relayTell
  try dsimp only
  repeat' first
    | with_reducible first
        | assumption | apply ite_apart | apply iteP_apart | apply foldl_apart | apply foldlP_apart | apply emit_apart
        | apply onEp_apart
    | (intro _; intros) | split | refine fst_apart (by with_reducible assumption) ?_

theorem execOpInval_apart {s0 : State} (q : Fin 32) (s : State) (hK : Apart s0 s) : OutApart s0 (execOpInval q s) :=
    by
  unfold execOpInval
  try dsimp only
  repeat' first
    | with_reducible first
        | assumption | apply OutApart.next | apply atEp_apart | apply epTake_apart
    | (intro _; intros)

theorem execProdDoorbell_apart {s0 : State} (i : Fin 96) (prod : BitVec 32) (slots : List Desc) (s : State) (hK :
    Apart s0 s) : OutApart s0 (execProdDoorbell i prod slots s) := by
  unfold execProdDoorbell
  try dsimp only
  repeat' first
    | with_reducible first
        | assumption | apply OutApart.next | apply prodDoorbell_apart
    | (intro _; intros)

theorem execWinRd_apart {s0 : State} (offset : BitVec 24) (tag : BitVec 16) (s : State) (hK : Apart s0 s) : OutApart
    s0 (execWinRd offset tag s) := by
  unfold execWinRd
  try dsimp only
  repeat' first
    | with_reducible first
        | assumption | apply OutApart.next | apply emit_apart
    | (intro _; intros)

theorem execRelay_apart {s0 : State} (port : Fin 64) (pkt : Packet) (s : State) (hK : Apart s0 s) : OutApart s0
    (execRelay port pkt s) := by
  unfold execRelay
  try dsimp only
  repeat' first
    | with_reducible first
        | assumption | apply ite_outApart | apply ite_apart | apply iteP_apart | apply OutApart.next
        | apply relayTell_apart | apply onEp_apart | apply emit_apart
    | (intro _; intros) | split | refine fst_apart (by with_reducible assumption) ?_

theorem epPortsGone_apart {s0 : State} (s : State) (hK : Apart s0 s) : Apart s0 (epPortsGone s) := by
  unfold epPortsGone
  try dsimp only
  repeat' first
    | with_reducible first
        | assumption | apply ite_apart | apply iteP_apart | apply epUnconfigure_apart
    | (intro _; intros) | split | refine fst_apart (by with_reducible assumption) ?_

theorem epLosePort_apart {s0 : State} (s : State) (p : Nat) (hK : Apart s0 s) : Apart s0 (epLosePort s p) := by
  unfold epLosePort
  try dsimp only
  repeat' first
    | with_reducible first
        | assumption | apply ite_apart | apply iteP_apart | apply onEp_apart | apply onTn_apart
        | apply epDropCell_apart | apply epPortsGone_apart
    | (intro _; intros) | split | refine fst_apart (by with_reducible assumption) ?_

theorem execEp0LinkLoss_apart {s0 : State} (s : State) (hK : Apart s0 s) : OutApart s0 (execEp0LinkLoss s) := by
  unfold execEp0LinkLoss
  try dsimp only
  repeat' first
    | with_reducible first
        | assumption | apply OutApart.next | apply atEp_apart | apply epLosePort_apart
    | (intro _; intros)

theorem epFlitIn_apart {s0 : State} (s : State) (port : Nat) (f : Flit) (hK : Apart s0 s) : Apart s0 (epFlitIn s port
    f) := by
  unfold epFlitIn
  try dsimp only
  repeat' first
    | with_reducible first
        | assumption | apply ite_apart | apply iteP_apart | apply foldl_apart | apply foldlP_apart | apply onEp_apart
        | apply relayTell_apart | apply emit_apart
    | (intro _; intros) | split | refine fst_apart (by with_reducible assumption) ?_

theorem execMrdCpl_apart {s0 : State} (tag : Nat) (ok : Bool) (data : List Byte) (s : State) (hK : Apart s0 s) :
    OutApart s0 (execMrdCpl tag ok data s) := by
  unfold execMrdCpl
  try dsimp only
  repeat' first
    | with_reducible first
        | assumption | apply OutApart.next | apply atEp_apart | apply mrdEnd_apart
    | split | (intro _; intros) | split | refine fst_apart (by with_reducible assumption) ?_

theorem execOpRead_apart {s0 : State} (q : Fin 32) (s : State) (hK : Apart s0 s) : OutApart s0 (execOpRead q s) := by
  unfold execOpRead
  try dsimp only
  repeat' first
    | with_reducible first
        | assumption | apply OutApart.next | apply atEp_apart | apply epTake_apart
    | (intro _; intros)

theorem execCopyIn_apart {s0 : State} (c : Fin 64) (s : State) (hK : Apart s0 s) : OutApart s0 (execCopyIn c s) := by
  unfold execCopyIn
  try dsimp only
  repeat' first
    | with_reducible first
        | assumption | apply OutApart.next | apply atEp_apart | apply epTake_apart
    | (intro _; intros)

theorem execOpWrite_apart {s0 : State} (q : Fin 32) (s : State) (hK : Apart s0 s) : OutApart s0 (execOpWrite q s) :=
    by
  unfold execOpWrite
  try dsimp only
  repeat' first
    | with_reducible first
        | assumption | apply OutApart.next | apply atEp_apart | apply epTake_apart
    | (intro _; intros)

theorem execOpCounterRead_apart {s0 : State} (q : Fin 32) (s : State) (hK : Apart s0 s) : OutApart s0
    (execOpCounterRead q s) := by
  unfold execOpCounterRead
  try dsimp only
  repeat' first
    | with_reducible first
        | assumption | apply OutApart.next | apply atEp_apart | apply epTake_apart
    | (intro _; intros)

theorem epTrain_apart {s0 : State} (s : State) (p : Nat) (hK : Apart s0 s) : Apart s0 (epTrain s p) := by
  unfold epTrain
  try dsimp only
  repeat' first
    | with_reducible first
        | assumption | apply emit_apart
    | (intro _; intros)

theorem execEpConfigLoss_apart {s0 : State} (s : State) (hK : Apart s0 s) : OutApart s0 (execEpConfigLoss s) := by
  unfold execEpConfigLoss
  try dsimp only
  repeat' first
    | with_reducible first
        | assumption | apply OutApart.next | apply atEp_apart | apply epLosePort_apart
    | (intro _; intros)

theorem execOpFence_apart {s0 : State} (q : Fin 32) (s : State) (hK : Apart s0 s) : OutApart s0 (execOpFence q s) :=
    by
  unfold execOpFence
  try dsimp only
  repeat' first
    | with_reducible first
        | assumption | apply OutApart.next | apply atEp_apart | apply epTake_apart
    | (intro _; intros)

theorem execTileFence_apart {s0 : State} (c : Fin 64) (s : State) (hK : Apart s0 s) : OutApart s0 (execTileFence c s)
    := by
  unfold execTileFence
  try dsimp only
  repeat' first
    | with_reducible first
        | assumption | apply OutApart.next | apply atEp_apart | apply epTake_apart
    | (intro _; intros)

theorem epTemp_apart {s0 : State} (s : State) (temp : Nat) (hK : Apart s0 s) : Apart s0 (epTemp s temp) := by
  unfold epTemp
  try dsimp only
  repeat' first
    | with_reducible first
        | assumption | apply ite_apart | apply iteP_apart | apply onEp_apart | apply emit_apart
    | (intro _; intros) | split | refine fst_apart (by with_reducible assumption) ?_

theorem execPortEnable_apart {s0 : State} (on : EpOn) (override_ : BitVec 2) (regs : List (Nat × BitVec 64)) (s :
    State) (hK : Apart s0 s) : OutApart s0 (execPortEnable on override_ regs s) := by
  unfold execPortEnable
  try dsimp only
  repeat' first
    | with_reducible first
        | assumption | apply ite_outApart | apply ite_apart | apply iteP_apart | apply OutApart.next
        | apply foldl_apart | apply foldlP_apart | apply onEp_apart | apply epLosePort_apart | apply epTrain_apart
    | (intro _; intros) | split | refine fst_apart (by with_reducible assumption) ?_

theorem execAvoidanceExpire_apart {s0 : State} (dst : Node) (t : Time) (s : State) (hK : Apart s0 s) : OutApart s0
    (execAvoidanceExpire dst t s) := by
  unfold execAvoidanceExpire
  try dsimp only
  repeat' first
    | with_reducible first
        | assumption | apply OutApart.next | apply atEp_apart | apply epAt_apart | apply onEpXp_apart
    | (intro _; intros)

theorem execEpConfigure_apart {s0 : State} (node : Node) (inc : Byte) (locked : Bool) (s : State) (hK : Apart s0 s) :
    OutApart s0 (execEpConfigure node inc locked s) := by
  unfold execEpConfigure
  try dsimp only
  repeat' first
    | with_reducible first
        | assumption | apply ite_outApart | apply ite_apart | apply iteP_apart | apply OutApart.next
        | apply onEp_apart
    | (intro _; intros) | split | refine fst_apart (by with_reducible assumption) ?_

theorem execContrib_apart {s0 : State} (c : Fin 64) (s : State) (hK : Apart s0 s) : OutApart s0 (execContrib c s) :=
    by
  unfold execContrib
  try dsimp only
  repeat' first
    | with_reducible first
        | assumption | apply OutApart.next | apply atEp_apart | apply epTake_apart
    | (intro _; intros)

theorem execMwrCpl_apart {s0 : State} (tag : Nat) (ok : Bool) (s : State) (hK : Apart s0 s) : OutApart s0 (execMwrCpl
    tag ok s) := by
  unfold execMwrCpl
  try dsimp only
  repeat' first
    | with_reducible first
        | assumption | apply OutApart.next | apply atEp_apart | apply mwrEnd_apart
    | split | (intro _; intros) | split | refine fst_apart (by with_reducible assumption) ?_

theorem execOpAtomic_apart {s0 : State} (q : Fin 32) (s : State) (hK : Apart s0 s) : OutApart s0 (execOpAtomic q s) :=
    by
  unfold execOpAtomic
  try dsimp only
  repeat' first
    | with_reducible first
        | assumption | apply OutApart.next | apply atEp_apart | apply epTake_apart
    | (intro _; intros)

theorem execContribProbe_apart {s0 : State} (binding : Fin 64) (t : Time) (s : State) (hK : Apart s0 s) : OutApart s0
    (execContribProbe binding t s) := by
  unfold execContribProbe
  try dsimp only
  repeat' first
    | with_reducible first
        | assumption | apply ite_outApart | apply ite_apart | apply iteP_apart | apply OutApart.next
        | apply epAt_apart | apply onEp_apart | apply epMrd_apart
    | split | (intro _; intros) | split | refine fst_apart (by with_reducible assumption) ?_

theorem execD2dTimeout_apart {s0 : State} (tag : Nat) (t : Time) (s : State) (hK : Apart s0 s) : OutApart s0
    (execD2dTimeout tag t s) := by
  unfold execD2dTimeout
  try dsimp only
  repeat' first
    | with_reducible first
        | assumption | apply ite_outApart | apply ite_apart | apply iteP_apart | apply OutApart.next
        | apply epAt_apart | apply atEp_apart | apply mrdEnd_apart | apply mwrEnd_apart
    | split | (intro _; intros) | split | refine fst_apart (by with_reducible assumption) ?_

theorem execEpThermalTrip_apart {s0 : State} (temp : Nat) (s : State) (hK : Apart s0 s) : OutApart s0
    (execEpThermalTrip temp s) := by
  unfold execEpThermalTrip
  try dsimp only
  repeat' first
    | with_reducible first
        | assumption | apply ite_outApart | apply ite_apart | apply iteP_apart | apply OutApart.next
        | apply epTemp_apart | apply atEp_apart | apply emit_apart | apply reportEpDown_apart | apply epLosePort_apart
        | apply onEp_apart
    | (intro _; intros) | split | refine fst_apart (by with_reducible assumption) ?_

theorem execCopyOut_apart {s0 : State} (c : Fin 64) (s : State) (hK : Apart s0 s) : OutApart s0 (execCopyOut c s) :=
    by
  unfold execCopyOut
  try dsimp only
  repeat' first
    | with_reducible first
        | assumption | apply OutApart.next | apply atEp_apart | apply epTake_apart
    | (intro _; intros)

theorem execWinCounterWrite_apart {s0 : State} (k : Fin 4096) (value : BitVec 64) (s : State) (hK : Apart s0 s) :
    OutApart s0 (execWinCounterWrite k value s) := by
  unfold execWinCounterWrite
  try dsimp only
  repeat' first
    | with_reducible first
        | assumption | apply OutApart.next | apply onEp_apart
    | (intro _; intros)

theorem execAbortDoorbell_apart {s0 : State} (i : Fin 96) (target : BitVec 32) (tag : BitVec 32) (s : State) (hK :
    Apart s0 s) : OutApart s0 (execAbortDoorbell i target tag s) := by
  unfold execAbortDoorbell
  try dsimp only
  repeat' first
    | with_reducible first
        | assumption | apply OutApart.next | apply atEp_apart | apply abortDoorbell_apart
    | (intro _; intros)

theorem execOpFlush_apart {s0 : State} (q : Fin 32) (s : State) (hK : Apart s0 s) : OutApart s0 (execOpFlush q s) :=
    by
  unfold execOpFlush
  try dsimp only
  repeat' first
    | with_reducible first
        | assumption | apply OutApart.next | apply atEp_apart | apply epTake_apart
    | (intro _; intros)

/-! ### Rows -/

theorem dest_apart {a : Arrival} {ok : Bool} {zs ze : State → State} {s : State} (hp : a.part = Part.ze)
    (h : ∀ s0 s, Apart s0 s → Apart s0 (ze s)) :
    OutApart s (atDest a ok zs ze s) := by
  unfold atDest; rw [hp]; dsimp only; apply OutApart.next
  split
  · exact atEp_apart _ _ (fun y hy => epReceive_apart _ _ _ (fun z hz => h _ _ hz) hy) (Apart.refl s)
  · exact Apart.refl s

theorem src_apart {a : Arrival} {ok : Bool} {s : State} (hp : a.part = Part.ze) :
    OutApart s (atSource a ok s) := by
  unfold atSource; rw [hp]; dsimp only; apply OutApart.next
  split
  · exact atEp_apart _ _ (fun y hy => epResponse_apart _ _ hy) (Apart.refl s)
  · exact Apart.refl s

theorem ep_apart {a : Arrival} {ok : Bool} {ze : State → State} {s : State} (hp : a.part = Part.ze)
    (h : ∀ s0 s, Apart s0 s → Apart s0 (ze s)) :
    OutApart s (atEndPoint a ok ze s) := by
  unfold atEndPoint; rw [hp]; dsimp only; apply OutApart.next
  split
  · exact atEp_apart _ _ (fun y hy => h _ _ hy) (Apart.refl s)
  · exact Apart.refl s

theorem execRead_ze (a : Arrival) (faults : List ReadFault) (s : State) (h : a.part = Part.ze) :
    OutApart s (execRead a faults s) := by
  exact dest_apart h (fun _ _ h => epServe_apart _ _ h)

theorem execReadOwn_ze (a : Arrival) (faults : List ReadFault) (s : State) (h : a.part = Part.ze) :
    OutApart s (execReadOwn a faults s) := by
  exact dest_apart h (fun _ _ h => epServe_apart _ _ h)

theorem execCounterRead_ze (a : Arrival) (s : State) (h : a.part = Part.ze) :
    OutApart s (execCounterRead a s) := by
  exact dest_apart h (fun _ _ h => epCounterRead_apart _ _ h)

theorem execWrite_ze (a : Arrival) (s : State) (h : a.part = Part.ze) :
    OutApart s (execWrite a s) := by
  exact dest_apart h (fun _ _ h => epServe_apart _ _ h)

theorem execClosingWrite_ze (a : Arrival) (s : State) (h : a.part = Part.ze) :
    OutApart s (execClosingWrite a s) := by
  exact dest_apart h (fun _ _ h => epClosing_apart _ _ h)

theorem execStore_ze (a : Arrival) (s : State) (h : a.part = Part.ze) :
    OutApart s (execStore a s) := by
  exact dest_apart h (fun _ _ h => epServe_apart _ _ h)

theorem execWriteback_ze (a : Arrival) (s : State) (h : a.part = Part.ze) :
    OutApart s (execWriteback a s) := by
  exact dest_apart h (fun _ _ h => epServe_apart _ _ h)

theorem execAtomic_ze (a : Arrival) (faults : List ReadFault) (s : State) (h : a.part = Part.ze) :
    OutApart s (execAtomic a faults s) := by
  exact dest_apart h (fun _ _ h => epServe_apart _ _ h)

theorem execSnoopInv_ze (a : Arrival) (s : State) (h : a.part = Part.ze) :
    OutApart s (execSnoopInv a s) := by
  exact ep_apart h (fun _ _ h => epSnoop_apart _ _ h)

theorem execSnoopRecall_ze (a : Arrival) (s : State) (h : a.part = Part.ze) :
    OutApart s (execSnoopRecall a s) := by
  exact ep_apart h (fun _ _ h => epSnoop_apart _ _ h)

theorem execSnoopResp_ze (a : Arrival) (s : State) (h : a.part = Part.ze) :
    OutApart s (execSnoopResp a s) := by
  unfold execSnoopResp; rw [h]; exact OutApart.next (Apart.refl s)

theorem execReduceResult_ze (a : Arrival) (s : State) (h : a.part = Part.ze) :
    OutApart s (execReduceResult a s) := by
  exact ep_apart h (fun _ _ h => epResult_apart _ _ h)

theorem execPartnerWrite_ze (a : Arrival) (s : State) (h : a.part = Part.ze) :
    OutApart s (execPartnerWrite a s) := by
  exact dest_apart h (fun _ _ h => epRefuse_apart _ _ _ h)

theorem execPartnerRead_ze (a : Arrival) (faults : List ReadFault) (s : State) (h : a.part = Part.ze) :
    OutApart s (execPartnerRead a faults s) := by
  exact dest_apart h (fun _ _ h => epRefuse_apart _ _ _ h)

theorem execPartnerData_ze (a : Arrival) (s : State) (h : a.part = Part.ze) :
    OutApart s (execPartnerData a s) := by
  exact src_apart h

theorem execEpcWrite_ze (a : Arrival) (s : State) (h : a.part = Part.ze) :
    OutApart s (execEpcWrite a s) := by
  exact dest_apart h (fun _ _ h => epcWriteZe_apart _ _ h)

theorem execEpcRead_ze (a : Arrival) (s : State) (h : a.part = Part.ze) :
    OutApart s (execEpcRead a s) := by
  exact dest_apart h (fun _ _ h => epcReadZe_apart _ _ h)

theorem execEpcData_ze (a : Arrival) (s : State) (h : a.part = Part.ze) :
    OutApart s (execEpcData a s) := by
  exact src_apart h

theorem execCapSet_ze (a : Arrival) (s : State) (h : a.part = Part.ze) :
    OutApart s (execCapSet a s) := by
  exact dest_apart h (fun _ _ h => epRefuse_apart _ _ _ h)

theorem execCarryCmd_ze (a : Arrival) (k : Pick) (s : State) (h : a.part = Part.ze) :
    OutApart s (execCarryCmd a k s) := by
  exact dest_apart h (fun _ _ h => epRefuse_apart _ _ _ h)

theorem execCarryCpl_ze (a : Arrival) (s : State) (h : a.part = Part.ze) :
    OutApart s (execCarryCpl a s) := by
  exact dest_apart h (fun _ _ h => epRefuse_apart _ _ _ h)

theorem execGrantReq_ze (a : Arrival) (k : Pick) (s : State) (h : a.part = Part.ze) :
    OutApart s (execGrantReq a k s) := by
  exact dest_apart h (fun _ _ h => epRefuse_apart _ _ _ h)

theorem execGrant_ze (a : Arrival) (s : State) (h : a.part = Part.ze) :
    OutApart s (execGrant a s) := by
  exact src_apart h

theorem execPartnerFree_ze (a : Arrival) (s : State) (h : a.part = Part.ze) :
    OutApart s (execPartnerFree a s) := by
  exact dest_apart h (fun _ _ h => epRefuse_apart _ _ _ h)

theorem execTableReq_ze (a : Arrival) (s : State) (h : a.part = Part.ze) :
    OutApart s (execTableReq a s) := by
  exact dest_apart h (fun _ _ h => epRefuse_apart _ _ _ h)

theorem execTableData_ze (a : Arrival) (s : State) (h : a.part = Part.ze) :
    OutApart s (execTableData a s) := by
  exact src_apart h

theorem execAck_ze (a : Arrival) (s : State) (h : a.part = Part.ze) :
    OutApart s (execAck a s) := by
  exact src_apart h

theorem execNack_ze (a : Arrival) (s : State) (h : a.part = Part.ze) :
    OutApart s (execNack a s) := by
  exact src_apart h

theorem execHold_ze (a : Arrival) (s : State) (h : a.part = Part.ze) :
    OutApart s (execHold a s) := by
  exact src_apart h

theorem execReadReply_ze (a : Arrival) (s : State) (h : a.part = Part.ze) :
    OutApart s (execReadReply a s) := by
  exact src_apart h

theorem execAtomicReply_ze (a : Arrival) (s : State) (h : a.part = Part.ze) :
    OutApart s (execAtomicReply a s) := by
  exact src_apart h

theorem execCounterReply_ze (a : Arrival) (s : State) (h : a.part = Part.ze) :
    OutApart s (execCounterReply a s) := by
  exact src_apart h

theorem execClosingWriteRelease_ze (part : Part) (src : Node) (stream : Byte) (s : State) (h : part = Part.ze) :
    OutApart s (execClosingWriteRelease part src stream s) := by
  subst h; unfold execClosingWriteRelease
  apply OutApart.next; split
  · exact Apart.refl s
  · exact atEp_apart _ _ (fun _ h => epRerun_apart _ _ (onEpXp_apart _ _ h)) (Apart.refl s)

theorem execClosingWriteDiscard_ze (part : Part) (src : Node) (stream : Byte) (t : Time) (s : State) (h : part = Part.ze) :
    OutApart s (execClosingWriteDiscard part src stream t s) := by
  subst h; unfold execClosingWriteDiscard
  apply OutApart.next; split
  · exact epAt_apart t (Apart.refl s)
  · exact atEp_apart _ _ (fun _ h => epRefuse_apart _ _ _ (onEpXp_apart _ _ h)) (epAt_apart t (Apart.refl s))

theorem execHoldTimer_ze (part : Part) (src : Node) (seq : BitVec 24) (t : Time) (s : State) (h : part = Part.ze) :
    OutApart s (execHoldTimer part src seq t s) := by
  subst h; unfold execHoldTimer
  apply OutApart.next; split
  · exact epAt_apart t (Apart.refl s)
  · exact atEp_apart _ _ (fun _ h => epRespond_apart _ _ _ (onEpXp_apart _ _ h)) (epAt_apart t (Apart.refl s))

theorem execRetransmit_ze (part : Part) (dst : Node) (seq : BitVec 24) (t : Time) (s : State) (h : part = Part.ze) :
    OutApart s (execRetransmit part dst seq t s) := by
  subst h; unfold execRetransmit
  apply OutApart.next; split
  · exact epAt_apart t (Apart.refl s)
  · exact atEp_apart _ _ (fun _ h => epRetransmit_apart _ _ h) (epAt_apart t (Apart.refl s))

theorem execGiveUp_ze (part : Part) (dst : Node) (seq : BitVec 24) (t : Time) (s : State) (h : part = Part.ze) :
    OutApart s (execGiveUp part dst seq t s) := by
  subst h; unfold execGiveUp
  apply OutApart.next; split
  · exact epAt_apart t (Apart.refl s)
  · exact atEp_apart _ _ (fun _ h => epGiveUp_apart _ _ h) (epAt_apart t (Apart.refl s))

theorem execRateRaise_ze (part : Part) (dst : Node) (t : Time) (s : State) (h : part = Part.ze) :
    OutApart s (execRateRaise part dst t s) := by
  subst h; unfold execRateRaise
  exact OutApart.next (atEp_apart _ _ (fun _ h => onEpXp_apart _ _ h) (epAt_apart t (Apart.refl s)))

theorem execGraceClose_ze (part : Part) (region : BitVec 16) (t : Time) (s : State) (h : part = Part.ze) :
    OutApart s (execGraceClose part region t s) := by
  subst h; unfold execGraceClose
  apply OutApart.next; split
  · exact epAt_apart t (Apart.refl s)
  · exact onEp_apart _ (epAt_apart t (Apart.refl s))

theorem execEpochWaitExpire_ze (part : Part) (dst : Node) (stream : Byte) (t : Time) (s : State) (h : part = Part.ze) :
    OutApart s (execEpochWaitExpire part dst stream t s) := by
  subst h; unfold execEpochWaitExpire
  exact OutApart.next (atEp_apart _ _ (fun _ h => onEpXp_apart _ _ h) (epAt_apart t (Apart.refl s)))

theorem execD2dLinkDown_apart {s0 : State} (s : State) (h : Apart s0 s) : OutApart s0 (execD2dLinkDown s) := by
  unfold execD2dLinkDown; apply OutApart.next; split
  · exact reportEpDown_apart _ _ (onEp_apart _ h)
  · exact h

end Sys2Proof.Machine
end

