-- ==== Sys2Proof/Laws/Keeps.lean ====
section
/-! SUPPORT. -/

namespace Sys2Proof.Machine

theorem Keeps.refl (s : State) : Keeps s s := ⟨rfl, id⟩

/-- What an outcome's next state keeps. -/
def OutKeeps (s0 : State) (o : Host.Outcome State Fault Refusal) : Prop := ∀ t, o = .next t → Keeps s0 t

theorem OutKeeps.next {s0 s : State} (h : Keeps s0 s) : OutKeeps s0 (.next s) := by
  intro t ht; cases ht; exact h

theorem Keeps.congr {s0 s t : State} (h : Keeps s0 s) (hp : t.pending = s.pending) (hm : MemOk s → MemOk t) :
    Keeps s0 t := ⟨hp.trans h.queue, fun x => hm (h.mem x)⟩

theorem ite_keeps {s0 a b : State} {c : Prop} [Decidable c] (ha : Keeps s0 a) (hb : Keeps s0 b) :
    Keeps s0 (if c then a else b) := by split <;> assumption

theorem ite_outKeeps {s0 : State} {a b : Host.Outcome State Fault Refusal} {c : Prop} [Decidable c]
    (ha : OutKeeps s0 a) (hb : OutKeeps s0 b) : OutKeeps s0 (if c then a else b) := by split <;> assumption

theorem iteP_keeps {s0 : State} {α : Type} {a b : State × α} {c : Prop} [Decidable c] (ha : Keeps s0 a.1)
    (hb : Keeps s0 b.1) : Keeps s0 (if c then a else b).1 := by split <;> assumption

theorem fst_keeps {s0 s : State} {α : Type} {a : α} {p : State × α} (e : p = (s, a)) (hp : Keeps s0 p.1) :
    Keeps s0 s := by subst e; exact hp

theorem foldl_keeps {α : Type} {s0 s : State} {F : State → α → State} (l : List α) (h : Keeps s0 s)
    (hF : ∀ s a, Keeps s0 s → Keeps s0 (F s a)) : Keeps s0 (l.foldl F s) := by
  induction l generalizing s with
  | nil => exact h
  | cons a l ih => exact ih (hF s a h)

theorem foldlP_keeps {α β : Type} {s0 : State} {p : State × β} {F : State × β → α → State × β} (l : List α)
    (h : Keeps s0 p.1) (hF : ∀ p a, Keeps s0 p.1 → Keeps s0 (F p a).1) : Keeps s0 (l.foldl F p).1 := by
  induction l generalizing p with
  | nil => exact h
  | cons a l ih => exact ih (hF p a h)

section

variable {s0 s : State}

theorem onDev_keeps (f : Dev → Dev) (h : Keeps s0 s) : Keeps s0 (s.onDev f) := ⟨h.queue, h.mem⟩
theorem onRgn_keeps (f : Rgn → Rgn) (h : Keeps s0 s) : Keeps s0 (s.onRgn f) := ⟨h.queue, h.mem⟩
theorem onCoh_keeps (f : Coh → Coh) (h : Keeps s0 s) : Keeps s0 (s.onCoh f) := ⟨h.queue, h.mem⟩
theorem onXp_keeps (f : Xport → Xport) (h : Keeps s0 s) : Keeps s0 (s.onXp f) := ⟨h.queue, h.mem⟩
theorem onSwc_keeps (f : Swc → Swc) (h : Keeps s0 s) : Keeps s0 (s.onSwc f) := ⟨h.queue, h.mem⟩
theorem onLnk_keeps (f : Lnk → Lnk) (h : Keeps s0 s) : Keeps s0 (s.onLnk f) := ⟨h.queue, h.mem⟩
theorem onHif_keeps (f : Hif → Hif) (h : Keeps s0 s) : Keeps s0 (s.onHif f) := ⟨h.queue, h.mem⟩
theorem onCru_keeps (f : Cru → Cru) (h : Keeps s0 s) : Keeps s0 (s.onCru f) := ⟨h.queue, h.mem⟩
theorem onCol_keeps (f : Col → Col) (h : Keeps s0 s) : Keeps s0 (s.onCol f) := ⟨h.queue, h.mem⟩
theorem onFlt_keeps (f : Flt → Flt) (h : Keeps s0 s) : Keeps s0 (s.onFlt f) := ⟨h.queue, h.mem⟩
theorem onPwr_keeps (f : Pwr → Pwr) (h : Keeps s0 s) : Keeps s0 (s.onPwr f) := ⟨h.queue, h.mem⟩
theorem onEp_keeps (f : Ep → Ep) (h : Keeps s0 s) : Keeps s0 (s.onEp f) := ⟨h.queue, h.mem⟩
theorem onPool_keeps (f : Pool → Pool) (h : Keeps s0 s) (hm : s.pool.mem.wf = true → (f s.pool).mem.wf = true)
    (hs : s.pool.scratch.wf = true → (f s.pool).scratch.wf = true) : Keeps s0 (s.onPool f) :=
  ⟨h.queue, fun x => ⟨hm (h.mem x).1, hs (h.mem x).2.1, (h.mem x).2.2⟩⟩
theorem onSec_keeps (f : Sec → Sec) (h : Keeps s0 s) (hm : s.sec.hkmem.wf = true → (f s.sec).hkmem.wf = true) :
    Keeps s0 (s.onSec f) :=
  ⟨h.queue, fun x => ⟨(h.mem x).1, (h.mem x).2.1, hm (h.mem x).2.2⟩⟩
theorem mk_keeps {now dev cfg rgn coh xp swc lnk hif cru col flt pwr ep partnerW widNext out free} (h : Keeps s0 s) :
    Keeps s0 ⟨now, dev, cfg, rgn, s.pool, coh, xp, swc, lnk, hif, cru, col, flt, pwr, s.sec, ep, partnerW, widNext, out, free,
      s.pending⟩ := ⟨h.queue, h.mem⟩
theorem emit_keeps (o : Out) (h : Keeps s0 s) : Keeps s0 (s.emit o) := ⟨h.queue, h.mem⟩
theorem at__keeps (t : Time) (h : Keeps s0 s) : Keeps s0 (s.at_ t) := ⟨h.queue, h.mem⟩
theorem epAt_keeps (t : Time) (h : Keeps s0 s) : Keeps s0 (s.epAt t) := ⟨h.queue, h.mem⟩
theorem reachTick_keeps (t : Time) (h : Keeps s0 s) : Keeps s0 (s.reachTick t) := ⟨h.queue, h.mem⟩
theorem epReachTick_keeps (t : Time) (h : Keeps s0 s) : Keeps s0 (s.epReachTick t) := ⟨h.queue, h.mem⟩
theorem stepFree_keeps (h : Keeps s0 s) : Keeps s0 s.stepFree := ⟨h.queue, h.mem⟩
theorem setHp_keeps (p : Nat) (x : HostPort) (h : Keeps s0 s) : Keeps s0 (s.setHp p x) := ⟨h.queue, h.mem⟩
theorem onHp_keeps (p : Nat) (f : HostPort → HostPort) (h : Keeps s0 s) : Keeps s0 (s.onHp p f) := ⟨h.queue, h.mem⟩
theorem onRegion_keeps (r : Nat) (f : Region → Region) (h : Keeps s0 s) : Keeps s0 (s.onRegion r f) := ⟨h.queue, h.mem⟩
theorem onStack_keeps (k : Nat) (f : StackSt → StackSt) (h : Keeps s0 s) : Keeps s0 (s.onStack k f) := ⟨h.queue, h.mem⟩

end

end Sys2Proof.Machine
end

