-- ==== Sys2Proof/Laws/KeepsOps.lean ====
section
/-! SUPPORT. What the functions of Ops keep. -/

namespace Sys2Proof.Machine

theorem countRecall_keeps {s0 : State} (s : State) (hK : Keeps s0 s) : Keeps s0 (countRecall s) := by
  unfold countRecall
  try dsimp only
  repeat' first
    | with_reducible first
        | assumption | apply onCol_keeps
    | (intro _; intros)

theorem countQuench_keeps {s0 : State} (s : State) (hK : Keeps s0 s) : Keeps s0 (countQuench s) := by
  unfold countQuench
  try dsimp only
  repeat' first
    | with_reducible first
        | assumption | apply onCol_keeps
    | (intro _; intros)

theorem countReplay_keeps {s0 : State} (s : State) (hK : Keeps s0 s) : Keeps s0 (countReplay s) := by
  unfold countReplay
  try dsimp only
  repeat' first
    | with_reducible first
        | assumption | apply onCol_keeps
    | (intro _; intros)

theorem onCore_keeps {s0 : State} (s : State) (n : Nat) (f : Core → Core) (hK : Keeps s0 s) : Keeps s0 (onCore s n f)
    := by
  unfold onCore
  try dsimp only
  repeat' first
    | with_reducible first
        | assumption | apply onSec_keeps
    | exact fun h => h | exact fun h => Mem.writeN_wf _ _ _ h | exact fun h => Mem.zero_wf _ _ _ h
    | exact fun h => Mem.foldWrite_wf _ (fun p _ hp => Mem.write_wf p.1 _ _ hp) _ _ h | (intro _; intros)

theorem countRetx_keeps {s0 : State} (s : State) (hK : Keeps s0 s) : Keeps s0 (countRetx s) := by
  unfold countRetx
  try dsimp only
  repeat' first
    | with_reducible first
        | assumption | apply onCol_keeps
    | (intro _; intros)

end Sys2Proof.Machine
end

