-- ==== Sys2Proof/Laws/KeepsPlace.lean ====
section
/-! SUPPORT. What the functions of Place keep. -/

namespace Sys2Proof.Machine

theorem scrubSpan_keeps {s0 : State} (s : State) (x : Span) (hK : Keeps s0 s) : Keeps s0 (scrubSpan s x) := by
  unfold scrubSpan
  try dsimp only
  repeat' first
    | with_reducible first
        | assumption | apply onPool_keeps
    | exact fun h => h | exact fun h => Mem.writeN_wf _ _ _ h | exact fun h => Mem.zero_wf _ _ _ h
    | exact fun h => Mem.foldWrite_wf _ (fun p _ hp => Mem.write_wf p.1 _ _ hp) _ _ h | (intro _; intros)

theorem scrubSpans_keeps {s0 : State} (s : State) (xs : List Span) (hK : Keeps s0 s) : Keeps s0 (scrubSpans s xs) :=
    by
  unfold scrubSpans
  try dsimp only
  repeat' first
    | with_reducible first
        | assumption | apply foldl_keeps | apply foldlP_keeps | apply scrubSpan_keeps
    | (intro _; intros)

theorem zeroScratch_keeps {s0 : State} (s : State) (e : Nat) (slot : Nat) (n : Nat) (hK : Keeps s0 s) : Keeps s0
    (zeroScratch s e slot n) := by
  unfold zeroScratch
  try dsimp only
  repeat' first
    | with_reducible first
        | assumption | apply onPool_keeps
    | exact fun h => h | exact fun h => Mem.writeN_wf _ _ _ h | exact fun h => Mem.zero_wf _ _ _ h
    | exact fun h => Mem.foldWrite_wf _ (fun p _ hp => Mem.write_wf p.1 _ _ hp) _ _ h | (intro _; intros)

end Sys2Proof.Machine
end

