-- ==== Sys2Proof/Laws/KeepsTrace.lean ====
section
/-! SUPPORT. What the functions of Trace keep. -/

namespace Sys2Proof.Machine

theorem onTrace_keeps {s0 : State} (s : State) (q : Nat) (f : TraceSt → TraceSt) (hK : Keeps s0 s) : Keeps s0 (onTrace
    s q f) := by
  unfold onTrace
  try dsimp only
  repeat' first
    | with_reducible first
        | assumption | apply onFlt_keeps
    | (intro _; intros)

theorem traceAdd_keeps {s0 : State} (s : State) (cls : Nat) (tag : Option Tag) (q : Nat) (unit : Nat) (kind : Byte)
    (data : List Byte) (hK : Keeps s0 s) : Keeps s0 (traceAdd s cls tag q unit kind data) := by
  unfold traceAdd
  try dsimp only
  repeat' first
    | with_reducible first
        | assumption | apply ite_keeps | apply iteP_keeps | apply onTrace_keeps
    | (intro _; intros) | split | refine fst_keeps (by with_reducible assumption) ?_

theorem traceTimefault_keeps {s0 : State} (s : State) (port : Nat) (msg : Byte) (sent : Bool) (subject : Nat) (term :
    Nat) (hK : Keeps s0 s) : Keeps s0 (traceTimefault s port msg sent subject term) := by
  unfold traceTimefault
  try dsimp only
  repeat' first
    | with_reducible first
        | assumption | apply ite_keeps | apply iteP_keeps | apply traceAdd_keeps | apply stepFree_keeps
    | (intro _; intros) | split | refine fst_keeps (by with_reducible assumption) ?_

theorem traceMemory_keeps {s0 : State} (s : State) (tag : Tag) (r : List Byte) (hK : Keeps s0 s) : Keeps s0
    (traceMemory s tag r) := by
  unfold traceMemory
  try dsimp only
  repeat' first
    | with_reducible first
        | assumption | apply traceAdd_keeps
    | (intro _; intros)

theorem traceLink_keeps {s0 : State} (s : State) (port : Nat) (state : BitVec 4) (cause : BitVec 4) (hK : Keeps s0 s)
    : Keeps s0 (traceLink s port state cause) := by
  unfold traceLink
  try dsimp only
  repeat' first
    | with_reducible first
        | assumption | apply traceAdd_keeps
    | (intro _; intros)

theorem traceTime_keeps {s0 : State} (s : State) (hK : Keeps s0 s) : Keeps s0 (traceTime s) := by
  unfold traceTime
  try dsimp only
  repeat' first
    | with_reducible first
        | assumption | apply traceAdd_keeps
    | (intro _; intros)

theorem traceProgram_keeps {s0 : State} (s : State) (prog : Nat) (engine : Nat) (state : Nat) (st : Byte) (tag : Tag)
    (hK : Keeps s0 s) : Keeps s0 (traceProgram s prog engine state st tag) := by
  unfold traceProgram
  try dsimp only
  repeat' first
    | with_reducible first
        | assumption | apply traceAdd_keeps
    | (intro _; intros)

theorem traceQuench_keeps {s0 : State} (s : State) (duty : Nat) (gather : Nat) (hK : Keeps s0 s) : Keeps s0
    (traceQuench s duty gather) := by
  unfold traceQuench
  try dsimp only
  repeat' first
    | with_reducible first
        | assumption | apply traceAdd_keeps
    | (intro _; intros)

theorem tracePacket_keeps {s0 : State} (s : State) (port : Nat) (p : Packet) (hK : Keeps s0 s) : Keeps s0 (tracePacket
    s port p) := by
  unfold tracePacket
  try dsimp only
  repeat' first
    | with_reducible first
        | assumption | apply ite_keeps | apply iteP_keeps | apply onTrace_keeps | apply traceAdd_keeps
    | (intro _; intros) | split | refine fst_keeps (by with_reducible assumption) ?_

theorem traceCommand_keeps {s0 : State} (s : State) (tag : Tag) (port : Nat) (ring : Nat) (slot : Nat) (d : Desc) (st
    : Byte) (hK : Keeps s0 s) : Keeps s0 (traceCommand s tag port ring slot d st) := by
  unfold traceCommand
  try dsimp only
  repeat' first
    | with_reducible first
        | assumption | apply ite_keeps | apply iteP_keeps | apply traceAdd_keeps
    | (intro _; intros) | split | refine fst_keeps (by with_reducible assumption) ?_

end Sys2Proof.Machine
end

