-- ==== Sys2Proof/Laws/KeepsSwCore.lean ====
section
/-! SUPPORT. What the functions of SwCore keep. -/

namespace Sys2Proof.Machine

theorem onFc_keeps {s0 : State} (s : State) (p : Nat) (f : PortFc → PortFc) (hK : Keeps s0 s) : Keeps s0 (onFc s p f)
    := by
  unfold onFc
  try dsimp only
  repeat' first
    | with_reducible first
        | assumption | apply onSwc_keeps
    | (intro _; intros)

theorem refreshXoff1_keeps {s0 : State} (q : Fin 4) (f : Nat) (s : State) (p : Fin 64) (vc : Fin 8) (hK : Keeps s0 s)
    : Keeps s0 (refreshXoff1 q f s p vc) := by
  unfold refreshXoff1
  try dsimp only
  repeat' first
    | with_reducible first
        | assumption | apply ite_keeps | apply iteP_keeps | apply onFc_keeps
    | (intro _; intros) | split | refine fst_keeps (by with_reducible assumption) ?_

theorem refreshXoff_keeps {s0 : State} (s : State) (q : Fin 4) (hK : Keeps s0 s) : Keeps s0 (refreshXoff s q) := by
  unfold refreshXoff
  try dsimp only
  repeat' first
    | with_reducible first
        | assumption | apply foldl_keeps | apply foldlP_keeps | apply refreshXoff1_keeps
    | (intro _; intros)

theorem countNoroute_keeps {s0 : State} (s : State) (hK : Keeps s0 s) : Keeps s0 (countNoroute s) := by
  unfold countNoroute
  try dsimp only
  repeat' first
    | with_reducible first
        | assumption | apply onSwc_keeps
    | (intro _; intros)

theorem enqueueNow_keeps {s0 : State} (s : State) (id : Nat) (pkt : Packet) (p : Fin 64) (vc : Fin 8) (hK : Keeps s0
    s) : Keeps s0 (enqueueNow s id pkt p vc) := by
  unfold enqueueNow
  try dsimp only
  repeat' first
    | with_reducible first
        | assumption | apply ite_keeps | apply iteP_keeps | apply onFc_keeps | apply onSwc_keeps
    | (intro _; intros) | split | refine fst_keeps (by with_reducible assumption) ?_

theorem enqueue_keeps {s0 : State} (s : State) (id : Nat) (pkt : Packet) (p : Fin 64) (vc : Fin 8) (a : Option (Fin
    64)) (hK : Keeps s0 s) : Keeps s0 (enqueue s id pkt p vc a) := by
  unfold enqueue
  try dsimp only
  repeat' first
    | with_reducible first
        | assumption | apply ite_keeps | apply iteP_keeps | apply onSwc_keeps | apply enqueueNow_keeps
    | (intro _; intros) | split | refine fst_keeps (by with_reducible assumption) ?_

theorem storePacket_keeps {s0 : State} (s : State) (pkt : Packet) (q : Fin 4) (a : Option (Fin 64)) (vc : Fin 8) (refs
    : Nat) (hK : Keeps s0 s) : Keeps s0 (storePacket s pkt q a vc refs) := by
  unfold storePacket
  try dsimp only
  repeat' first
    | with_reducible first
        | assumption | apply onSwc_keeps | apply refreshXoff_keeps
    | (intro _; intros)

theorem countMcast_keeps {s0 : State} (s : State) (hK : Keeps s0 s) : Keeps s0 (countMcast s) := by
  unfold countMcast
  try dsimp only
  repeat' first
    | with_reducible first
        | assumption | apply onSwc_keeps
    | (intro _; intros)

theorem mcastForward_keeps {s0 : State} (s : State) (pkt : Packet) (q : Fin 4) (a : Option (Fin 64)) (vc : Fin 8) (hK
    : Keeps s0 s) : Keeps s0 (mcastForward s pkt q a vc) := by
  unfold mcastForward
  try dsimp only
  repeat' first
    | with_reducible first
        | assumption | apply ite_keeps | apply iteP_keeps | apply foldl_keeps | apply foldlP_keeps
        | apply countMcast_keeps | apply onSwc_keeps | apply storePacket_keeps | apply enqueue_keeps
    | (intro _; intros) | split | refine fst_keeps (by with_reducible assumption) ?_

theorem routeTaken_keeps {s0 : State} (s : State) (r : RouteRes) (hK : Keeps s0 s) : Keeps s0 (routeTaken s r) := by
  unfold routeTaken
  try dsimp only
  repeat' first
    | with_reducible first
        | assumption | apply onSwc_keeps
    | (intro _; intros) | split | refine fst_keeps (by with_reducible assumption) ?_

theorem originateNow_keeps {s0 : State} (s : State) (w : LocalWait) (hK : Keeps s0 s) : Keeps s0 (originateNow s w) :=
    by
  unfold originateNow
  try dsimp only
  repeat' first
    | with_reducible first
        | assumption | apply enqueue_keeps | apply storePacket_keeps | apply mcastForward_keeps | apply onSwc_keeps
        | apply countNoroute_keeps | apply routeTaken_keeps
    | (intro _; intros) | split | refine fst_keeps (by with_reducible assumption) ?_

theorem onLink_keeps {s0 : State} (s : State) (p : Nat) (f : LinkSt → LinkSt) (hK : Keeps s0 s) : Keeps s0 (onLink s p
    f) := by
  unfold onLink
  try dsimp only
  repeat' first
    | with_reducible first
        | assumption | apply onLnk_keeps
    | (intro _; intros)

theorem releasePacket_keeps {s0 : State} (s : State) (id : Nat) (hK : Keeps s0 s) : Keeps s0 (releasePacket s id) :=
    by
  unfold releasePacket
  try dsimp only
  repeat' first
    | with_reducible first
        | assumption | apply ite_keeps | apply iteP_keeps | apply refreshXoff_keeps | apply onSwc_keeps
    | (intro _; intros) | split | refine fst_keeps (by with_reducible assumption) ?_

theorem drainLocal_keeps {s0 : State} (x0 : Nat) (x1 : State) (hK : Keeps s0 x1) : Keeps s0 (drainLocal x0 x1) := by
  induction x0 generalizing x1
  case zero =>
    unfold drainLocal
    try dsimp only
    repeat' first
      | with_reducible first
          | assumption | apply onSwc_keeps | apply originateNow_keeps
      | (intro _; intros) | split | refine fst_keeps (by with_reducible assumption) ?_
  case succ n ih =>
    unfold drainLocal
    try dsimp only
    repeat' first
      | with_reducible first
          | assumption | apply ih | apply onSwc_keeps | apply originateNow_keeps
      | (intro _; intros) | split | refine fst_keeps (by with_reducible assumption) ?_

theorem release_keeps {s0 : State} (s : State) (id : Nat) (hK : Keeps s0 s) : Keeps s0 (release s id) := by
  unfold release
  try dsimp only
  repeat' first
    | with_reducible first
        | assumption | apply releasePacket_keeps | apply drainLocal_keeps
    | (intro _; intros)

theorem consume_keeps {s0 : State} (s : State) (pkt : Packet) (hK : Keeps s0 s) : Keeps s0 (consume s pkt) := by
  unfold consume
  try dsimp only
  repeat' first
    | with_reducible first
        | assumption | apply release_keeps | apply onSwc_keeps
    | (intro _; intros) | split | refine fst_keeps (by with_reducible assumption) ?_

theorem originate_keeps {s0 : State} (s : State) (q : Fin 4) (vc : Fin 8) (port : Option (Fin 64)) (pkt : Packet) (hK
    : Keeps s0 s) : Keeps s0 (originate s q vc port pkt) := by
  unfold originate
  try dsimp only
  repeat' first
    | with_reducible first
        | assumption | apply ite_keeps | apply iteP_keeps | apply onSwc_keeps | apply originateNow_keeps
    | (intro _; intros) | split | refine fst_keeps (by with_reducible assumption) ?_

end Sys2Proof.Machine
end

