-- ==== Sys2Proof/Laws/KeepsLines.lean ====
section
/-! SUPPORT. What the functions of Lines keep. -/

namespace Sys2Proof.Machine

theorem dirPut_keeps {s0 : State} (s : State) (line : Nat) (st : Hold) (hK : Keeps s0 s) : Keeps s0 (dirPut s line st)
    := by
  unfold dirPut
  try dsimp only
  repeat' first
    | with_reducible first
        | assumption | apply ite_keeps | apply iteP_keeps | apply onCoh_keeps
    | (intro _; intros) | split | refine fst_keeps (by with_reducible assumption) ?_

theorem dirShare_keeps {s0 : State} (s : State) (line : Nat) (x : Fin 34) (hK : Keeps s0 s) : Keeps s0 (dirShare s
    line x) := by
  unfold dirShare
  try dsimp only
  repeat' first
    | with_reducible first
        | assumption | apply dirPut_keeps
    | (intro _; intros) | split | refine fst_keeps (by with_reducible assumption) ?_

theorem snoop_keeps {s0 : State} (s : State) (h : LineHome) (x : Fin 34) (owned : Bool) (drop : Bool) (hK : Keeps s0
    s) : Keeps s0 (snoop s h x owned drop) := by
  unfold snoop
  try dsimp only
  repeat' first
    | with_reducible first
        | assumption | apply ite_keeps | apply iteP_keeps | apply onCoh_keeps | apply countRecall_keeps
        | apply emit_keeps | apply originate_keeps
    | (intro _; intros) | split | refine fst_keeps (by with_reducible assumption) ?_

theorem dirDrop_keeps {s0 : State} (s : State) (line : Nat) (hK : Keeps s0 s) : Keeps s0 (dirDrop s line) := by
  unfold dirDrop
  try dsimp only
  repeat' first
    | with_reducible first
        | assumption | apply onCoh_keeps
    | (intro _; intros)

theorem dirRemove_keeps {s0 : State} (s : State) (line : Nat) (x : Fin 34) (hK : Keeps s0 s) : Keeps s0 (dirRemove s
    line x) := by
  unfold dirRemove
  try dsimp only
  repeat' first
    | with_reducible first
        | assumption | apply ite_keeps | apply iteP_keeps | apply dirDrop_keeps | apply dirPut_keeps
    | (intro _; intros) | split | refine fst_keeps (by with_reducible assumption) ?_

theorem setLine_keeps {s0 : State} (s : State) (line : Nat) (data : List Byte) (md : LineMeta) (hK : Keeps s0 s) :
    Keeps s0 (setLine s line data md) := by
  unfold setLine
  try dsimp only
  repeat' first
    | with_reducible first
        | assumption | apply onPool_keeps
    | exact fun h => h | exact fun h => Mem.writeN_wf _ _ _ h | exact fun h => Mem.zero_wf _ _ _ h
    | exact fun h => Mem.foldWrite_wf _ (fun p _ hp => Mem.write_wf p.1 _ _ hp) _ _ h | (intro _; intros)

theorem storeLine_keeps {s0 : State} (s : State) (h : LineHome) (data : List Byte) (poison : Bool) (hK : Keeps s0 s) :
    Keeps s0 (storeLine s h data poison) := by
  unfold storeLine
  try dsimp only
  repeat' first
    | with_reducible first
        | assumption | apply ite_keeps | apply iteP_keeps | apply foldl_keeps | apply foldlP_keeps
        | apply setLine_keeps
    | (intro _; intros) | split | refine fst_keeps (by with_reducible assumption) ?_

theorem takeBack_keeps {s0 : State} (s : State) (h : LineHome) (hK : Keeps s0 s) : Keeps s0 (takeBack s h) := by
  unfold takeBack
  try dsimp only
  repeat' first
    | with_reducible first
        | assumption | apply foldl_keeps | apply foldlP_keeps | apply dirDrop_keeps | apply snoop_keeps
    | (intro _; intros) | split | refine fst_keeps (by with_reducible assumption) ?_

end Sys2Proof.Machine
end

