-- ==== Sys2Proof/Laws/KeepsFltNode.lean ====
section
/-! SUPPORT. What the functions of FltNode keep. -/

namespace Sys2Proof.Machine

theorem onTn_keeps {s0 : State} (s : State) (p : Part) (f : TimeNode → TimeNode) (hK : Keeps s0 s) : Keeps s0 (onTn s
    p f) := by
  unfold onTn
  try dsimp only
  repeat' first
    | with_reducible first
        | assumption | apply onFlt_keeps | apply onEp_keeps
    | (intro _; intros) | split | refine fst_keeps (by with_reducible assumption) ?_

theorem epLeave_keeps {s0 : State} (s : State) (port : Nat) (vc : Fin 8) (p : Packet) (hK : Keeps s0 s) : Keeps s0
    (epLeave s port vc p) := by
  unfold epLeave
  try dsimp only
  repeat' first
    | with_reducible first
        | assumption | apply ite_keeps | apply iteP_keeps | apply onEp_keeps | apply emit_keeps
    | (intro _; intros) | split | refine fst_keeps (by with_reducible assumption) ?_

theorem sendVc7_keeps {s0 : State} (s : State) (part : Part) (port : Nat) (payload : List Byte) (hK : Keeps s0 s) :
    Keeps s0 (sendVc7 s part port payload) := by
  unfold sendVc7
  try dsimp only
  repeat' first
    | with_reducible first
        | assumption | apply epLeave_keeps | apply traceTimefault_keeps | apply originate_keeps
    | (intro _; intros) | split | refine fst_keeps (by with_reducible assumption) ?_

theorem flood_keeps {s0 : State} (s : State) (part : Part) (from_ : Option Nat) (payload : List Byte) (hK : Keeps s0
    s) : Keeps s0 (flood s part from_ payload) := by
  unfold flood
  try dsimp only
  repeat' first
    | with_reducible first
        | assumption | apply foldl_keeps | apply foldlP_keeps | apply sendVc7_keeps
    | (intro _; intros)

theorem markSeen_keeps {s0 : State} (s : State) (part : Part) (k : Nat × Nat) (hK : Keeps s0 s) : Keeps s0 (markSeen s
    part k) := by
  unfold markSeen
  try dsimp only
  repeat' first
    | with_reducible first
        | assumption | apply onTn_keeps
    | (intro _; intros)

theorem sendProbes_keeps {s0 : State} (s : State) (subject : Node) (hK : Keeps s0 s) : Keeps s0 (sendProbes s subject)
    := by
  unfold sendProbes
  try dsimp only
  repeat' first
    | with_reducible first
        | assumption | apply foldl_keeps | apply foldlP_keeps | apply onFlt_keeps | apply sendVc7_keeps
    | (intro _; intros)

theorem holdReport_keeps {s0 : State} (s : State) (m : Report) (hK : Keeps s0 s) : Keeps s0 (holdReport s m) := by
  unfold holdReport
  try dsimp only
  repeat' first
    | with_reducible first
        | assumption | apply ite_keeps | apply iteP_keeps | apply onFlt_keeps | apply sendProbes_keeps
    | (intro _; intros) | split | refine fst_keeps (by with_reducible assumption) ?_

theorem originateReport_keeps {s0 : State} (s : State) (part : Part) (kind : Byte) (cause : Byte) (subject : Node)
    (port : Nat) (hK : Keeps s0 s) : Keeps s0 (originateReport s part kind cause subject port) := by
  unfold originateReport
  try dsimp only
  repeat' first
    | with_reducible first
        | assumption | apply ite_keeps | apply iteP_keeps | apply onTn_keeps | apply flood_keeps
        | apply markSeen_keeps | apply holdReport_keeps | apply onFlt_keeps
    | (intro _; intros) | split | refine fst_keeps (by with_reducible assumption) ?_

theorem reportEpDown_keeps {s0 : State} (s : State) (cause : Byte) (hK : Keeps s0 s) : Keeps s0 (reportEpDown s cause)
    := by
  unfold reportEpDown
  try dsimp only
  repeat' first
    | with_reducible first
        | assumption | apply originateReport_keeps
    | (intro _; intros)

theorem reportGiveUp_keeps {s0 : State} (s : State) (part : Part) (dst : Node) (hK : Keeps s0 s) : Keeps s0
    (reportGiveUp s part dst) := by
  unfold reportGiveUp
  try dsimp only
  repeat' first
    | with_reducible first
        | assumption | apply originateReport_keeps
    | (intro _; intros)

end Sys2Proof.Machine
end

