-- ==== Sys2Proof/Laws/KeepsTransport.lean ====
section
/-! SUPPORT. What the functions of Transport keep. -/

namespace Sys2Proof.Machine

theorem respond_keeps {s0 : State} (s : State) (q : Fin 4) (req : Packet) (p : Packet) (hK : Keeps s0 s) : Keeps s0
    (respond s q req p) := by
  unfold respond
  try dsimp only
  repeat' first
    | with_reducible first
        | assumption | apply originate_keeps
    | (intro _; intros)

theorem finishReq_keeps {s0 : State} (s : State) (a : Arrival) (st : Status) (ans : Packet) (keep : Bool) (hK : Keeps
    s0 s) : Keeps s0 (finishReq s a st ans keep) := by
  unfold finishReq
  try dsimp only
  repeat' first
    | with_reducible first
        | assumption | apply ite_keeps | apply iteP_keeps | apply onXp_keeps | apply respond_keeps
    | (intro _; intros) | split | refine fst_keeps (by with_reducible assumption) ?_

theorem refuse_keeps {s0 : State} (s : State) (a : Arrival) (st : Status) (hK : Keeps s0 s) : Keeps s0 (refuse s a st)
    := by
  unfold refuse
  try dsimp only
  repeat' first
    | with_reducible first
        | assumption | apply finishReq_keeps
    | (intro _; intros)

theorem receive_keeps {s0 : State} (s : State) (a : Arrival) (go : State → State) (h_go : ∀ y0, Keeps s0 y0 → Keeps s0
    (go y0)) (hK : Keeps s0 s) : Keeps s0 (receive s a go) := by
  unfold receive
  try dsimp only
  repeat' first
    | with_reducible first
        | assumption | apply h_go | apply ite_keeps | apply iteP_keeps | apply consume_keeps | apply countRetx_keeps
        | apply respond_keeps | apply onXp_keeps | apply refuse_keeps
    | (intro _; intros) | split | refine fst_keeps (by with_reducible assumption) ?_

theorem countBurst_keeps {s0 : State} (s : State) (hK : Keeps s0 s) : Keeps s0 (countBurst s) := by
  unfold countBurst
  try dsimp only
  repeat' first
    | with_reducible first
        | assumption | apply onSwc_keeps
    | (intro _; intros)

theorem burstOut_keeps {s0 : State} (s : State) (i : Nat) (r : Runner) (quad : Fin 4) (p : Packet) (hK : Keeps s0 s) :
    Keeps s0 (burstOut s i r quad p) := by
  unfold burstOut
  try dsimp only
  repeat' first
    | with_reducible first
        | assumption | apply ite_keeps | apply iteP_keeps | apply onSwc_keeps | apply countBurst_keeps
        | apply originate_keeps
    | (intro _; intros) | split | refine fst_keeps (by with_reducible assumption) ?_

theorem pumpZs_keeps {s0 : State} (x0 : Nat) (x1 : State) (hK : Keeps s0 x1) : Keeps s0 (pumpZs x0 x1) := by
  induction x0 generalizing x1
  case zero =>
    unfold pumpZs
    try dsimp only
    repeat' first
      | with_reducible first
          | assumption | apply onXp_keeps | apply burstOut_keeps | apply originate_keeps
      | (intro _; intros) | split | refine fst_keeps (by with_reducible assumption) ?_
  case succ n ih =>
    unfold pumpZs
    try dsimp only
    repeat' first
      | with_reducible first
          | assumption | apply ih | apply onXp_keeps | apply burstOut_keeps | apply originate_keeps
      | (intro _; intros) | split | refine fst_keeps (by with_reducible assumption) ?_

theorem pump_keeps {s0 : State} (s : State) (hK : Keeps s0 s) : Keeps s0 (pump s) := by
  unfold pump
  try dsimp only
  repeat' first
    | with_reducible first
        | assumption | apply pumpZs_keeps
    | (intro _; intros)

theorem submit_keeps {s0 : State} (s : State) (quad : Fin 4) (cause : Cause) (p : Packet) (hK : Keeps s0 s) : Keeps s0
    (submit s quad cause p) := by
  unfold submit
  try dsimp only
  repeat' first
    | with_reducible first
        | assumption | apply pump_keeps | apply onXp_keeps
    | (intro _; intros)

theorem sendMgmt_keeps {s0 : State} (s : State) (cause : Cause) (dst : Node) (payload : List Byte) (hK : Keeps s0 s) :
    Keeps s0 (sendMgmt s cause dst payload) := by
  unfold sendMgmt
  try dsimp only
  repeat' first
    | with_reducible first
        | assumption | apply submit_keeps
    | (intro _; intros)

end Sys2Proof.Machine
end

