-- ==== Sys2Proof/Laws/KeepsRecords.lean ====
section
/-! SUPPORT. What the functions of Records keep. -/

namespace Sys2Proof.Machine

theorem putRingLine_keeps {s0 : State} (s : State) (p : Nat) (off : Nat) (data : List Byte) (hK : Keeps s0 s) : Keeps
    s0 (putRingLine s p off data) := by
  unfold putRingLine
  try dsimp only
  repeat' first
    | with_reducible first
        | assumption | apply ite_keeps | apply iteP_keeps | apply storeLine_keeps | apply takeBack_keeps
    | (intro _; intros) | split | refine fst_keeps (by with_reducible assumption) ?_

theorem msix_keeps {s0 : State} (s : State) (p : Nat) (v : Nat) (hK : Keeps s0 s) : Keeps s0 (msix s p v) := by
  unfold msix
  try dsimp only
  repeat' first
    | with_reducible first
        | assumption | apply ite_keeps | apply iteP_keeps | apply setHp_keeps | apply emit_keeps
    | (intro _; intros) | split | refine fst_keeps (by with_reducible assumption) ?_

theorem writeFault_keeps {s0 : State} (s : State) (p : Nat) (r : List Byte) (hK : Keeps s0 s) : Keeps s0 (writeFault s
    p r) := by
  unfold writeFault
  try dsimp only
  repeat' first
    | with_reducible first
        | assumption | apply putRingLine_keeps | apply onHp_keeps | apply msix_keeps
    | (intro _; intros)

theorem faultMarker_keeps {s0 : State} (s : State) (p : Nat) (hK : Keeps s0 s) : Keeps s0 (faultMarker s p) := by
  unfold faultMarker
  try dsimp only
  repeat' first
    | with_reducible first
        | assumption | apply ite_keeps | apply iteP_keeps | apply writeFault_keeps | apply setHp_keeps
    | (intro _; intros) | split | refine fst_keeps (by with_reducible assumption) ?_

theorem loseFault_keeps {s0 : State} (s : State) (p : Nat) (refused : Bool) (hK : Keeps s0 s) : Keeps s0 (loseFault s
    p refused) := by
  unfold loseFault
  try dsimp only
  repeat' first
    | with_reducible first
        | assumption | apply onHp_keeps
    | (intro _; intros)

theorem faultLost_keeps {s0 : State} (s : State) (p : Nat) (refused : Bool) (hK : Keeps s0 s) : Keeps s0 (faultLost s
    p refused) := by
  unfold faultLost
  try dsimp only
  repeat' first
    | with_reducible first
        | assumption | apply faultMarker_keeps | apply loseFault_keeps
    | (intro _; intros)

theorem pendPage_keeps {s0 : State} (s : State) (page : Nat × Nat) (hK : Keeps s0 s) : Keeps s0 (pendPage s page) :=
    by
  unfold pendPage
  try dsimp only
  repeat' first
    | with_reducible first
        | assumption | apply ite_keeps | apply iteP_keeps | apply onRgn_keeps
    | (intro _; intros) | split | refine fst_keeps (by with_reducible assumption) ?_

theorem park_keeps {s0 : State} (s : State) (isLine : Bool) (a : Arrival) (lineId : Nat) (m : MissInfo) (fs : List
    ReadFault) (hK : Keeps s0 s) : Keeps s0 (park s isLine a lineId m fs) := by
  unfold park
  try dsimp only
  repeat' first
    | with_reducible first
        | assumption | apply onRgn_keeps
    | (intro _; intros)

theorem pageMiss_keeps {s0 : State} (s : State) (m : MissInfo) (canPark : Bool) (hK : Keeps s0 s) : Keeps s0 (pageMiss
    s m canPark).1 := by
  unfold pageMiss
  try dsimp only
  repeat' first
    | with_reducible first
        | assumption | apply ite_keeps | apply iteP_keeps | apply onRgn_keeps | apply faultMarker_keeps
        | apply faultLost_keeps | apply writeFault_keeps | apply pendPage_keeps | apply park_keeps
    | (intro _; intros) | split | refine fst_keeps (by with_reducible assumption) ?_

theorem loseEvent_keeps {s0 : State} (s : State) (p : Nat) (hK : Keeps s0 s) : Keeps s0 (loseEvent s p) := by
  unfold loseEvent
  try dsimp only
  repeat' first
    | with_reducible first
        | assumption | apply onHp_keeps
    | (intro _; intros)

theorem writeEvent_keeps {s0 : State} (s : State) (p : Nat) (r : List Byte) (hK : Keeps s0 s) : Keeps s0 (writeEvent s
    p r) := by
  unfold writeEvent
  try dsimp only
  repeat' first
    | with_reducible first
        | assumption | apply putRingLine_keeps | apply onHp_keeps | apply msix_keeps
    | (intro _; intros)

theorem eventMarker_keeps {s0 : State} (s : State) (p : Nat) (hK : Keeps s0 s) : Keeps s0 (eventMarker s p) := by
  unfold eventMarker
  try dsimp only
  repeat' first
    | with_reducible first
        | assumption | apply ite_keeps | apply iteP_keeps | apply writeEvent_keeps | apply setHp_keeps
    | (intro _; intros) | split | refine fst_keeps (by with_reducible assumption) ?_

theorem eventLost_keeps {s0 : State} (s : State) (p : Nat) (hK : Keeps s0 s) : Keeps s0 (eventLost s p) := by
  unfold eventLost
  try dsimp only
  repeat' first
    | with_reducible first
        | assumption | apply eventMarker_keeps | apply loseEvent_keeps
    | (intro _; intros)

theorem queueEvent_keeps {s0 : State} (s : State) (p : Nat) (tag : Tag) (r : List Byte) (hK : Keeps s0 s) : Keeps s0
    (queueEvent s p tag r) := by
  unfold queueEvent
  try dsimp only
  repeat' first
    | with_reducible first
        | assumption | apply ite_keeps | apply iteP_keeps | apply onHp_keeps | apply eventLost_keeps
    | (intro _; intros) | split | refine fst_keeps (by with_reducible assumption) ?_

theorem postEvent_keeps {s0 : State} (s : State) (p : Nat) (tag : Tag) (r : List Byte) (hK : Keeps s0 s) : Keeps s0
    (postEvent s p tag r) := by
  unfold postEvent
  try dsimp only
  repeat' first
    | with_reducible first
        | assumption | apply ite_keeps | apply iteP_keeps | apply loseEvent_keeps | apply eventMarker_keeps
        | apply queueEvent_keeps | apply writeEvent_keeps
    | (intro _; intros) | split | refine fst_keeps (by with_reducible assumption) ?_

theorem bothEvent_keeps {s0 : State} (s : State) (r : List Byte) (hK : Keeps s0 s) : Keeps s0 (bothEvent s r) := by
  unfold bothEvent
  try dsimp only
  repeat' first
    | with_reducible first
        | assumption | apply postEvent_keeps
    | (intro _; intros)

theorem memPostBoth_keeps {s0 : State} (s : State) (r : List Byte) (hK : Keeps s0 s) : Keeps s0 (memPostBoth s r) :=
    by
  unfold memPostBoth
  try dsimp only
  repeat' first
    | with_reducible first
        | assumption | apply traceMemory_keeps | apply bothEvent_keeps
    | (intro _; intros)

theorem ownerEvent_keeps {s0 : State} (s : State) (tag : Tag) (r : List Byte) (hK : Keeps s0 s) : Keeps s0 (ownerEvent
    s tag r) := by
  unfold ownerEvent
  try dsimp only
  repeat' first
    | with_reducible first
        | assumption | apply ite_keeps | apply iteP_keeps | apply postEvent_keeps | apply queueEvent_keeps
    | (intro _; intros) | split | refine fst_keeps (by with_reducible assumption) ?_

theorem memPost_keeps {s0 : State} (s : State) (tag : Tag) (r : List Byte) (hK : Keeps s0 s) : Keeps s0 (memPost s tag
    r) := by
  unfold memPost
  try dsimp only
  repeat' first
    | with_reducible first
        | assumption | apply traceMemory_keeps | apply ownerEvent_keeps
    | (intro _; intros)

theorem dmaWrite_keeps {s0 : State} (s : State) (p : Nat) (addr : Nat) (data : List Byte) (hK : Keeps s0 s) : Keeps s0
    (dmaWrite s p addr data) := by
  unfold dmaWrite
  try dsimp only
  repeat' first
    | with_reducible first
        | assumption | apply ite_keeps | apply iteP_keeps | apply emit_keeps
    | (intro _; intros) | split | refine fst_keeps (by with_reducible assumption) ?_

theorem missAgain_keeps {s0 : State} (s : State) (p : Nat) (q : Parked) (m : MissInfo) (hK : Keeps s0 s) : Keeps s0
    (missAgain s p q m) := by
  unfold missAgain
  try dsimp only
  repeat' first
    | with_reducible first
        | assumption | apply ite_keeps | apply iteP_keeps | apply writeFault_keeps | apply pendPage_keeps
    | (intro _; intros) | split | refine fst_keeps (by with_reducible assumption) ?_

theorem effectEnds_keeps {s0 : State} (s : State) (o : Origin) (hK : Keeps s0 s) : Keeps s0 (effectEnds s o) := by
  unfold effectEnds
  try dsimp only
  repeat' first
    | with_reducible first
        | assumption | apply ite_keeps | apply iteP_keeps | apply onHif_keeps
    | (intro _; intros) | split | refine fst_keeps (by with_reducible assumption) ?_

theorem writeCompletion_keeps {s0 : State} (s : State) (r : CmdRef) (rec : List Byte) (notify : Bool) (hK : Keeps s0
    s) : Keeps s0 (writeCompletion s r rec notify) := by
  unfold writeCompletion
  try dsimp only
  repeat' first
    | with_reducible first
        | assumption | apply ite_keeps | apply iteP_keeps | apply effectEnds_keeps | apply onHp_keeps
        | apply traceCommand_keeps | apply putRingLine_keeps | apply msix_keeps
    | (intro _; intros) | split | refine fst_keeps (by with_reducible assumption) ?_

theorem complete_keeps {s0 : State} (s : State) (o : Origin) (d : Desc) (st : Status) (data : List Byte) (hK : Keeps
    s0 s) : Keeps s0 (complete s o d st data) := by
  unfold complete
  try dsimp only
  repeat' first
    | with_reducible first
        | assumption | apply ite_keeps | apply iteP_keeps | apply writeCompletion_keeps | apply onHif_keeps
        | apply sendMgmt_keeps | apply effectEnds_keeps
    | (intro _; intros) | split | refine fst_keeps (by with_reducible assumption) ?_

theorem dmaPump_keeps {s0 : State} (x0 : Nat) (x1 : State) (x2 : Nat) (hK : Keeps s0 x1) : Keeps s0 (dmaPump x0 x1 x2)
    := by
  induction x0 generalizing x1 x2
  case zero =>
    unfold dmaPump
    try dsimp only
    repeat' first
      | with_reducible first
          | assumption | apply ite_keeps | apply iteP_keeps | apply onHp_keeps | apply emit_keeps
      | (intro _; intros) | split | refine fst_keeps (by with_reducible assumption) ?_
  case succ n ih =>
    unfold dmaPump
    try dsimp only
    repeat' first
      | with_reducible first
          | assumption | apply ih | apply ite_keeps | apply iteP_keeps | apply onHp_keeps | apply emit_keeps
      | (intro _; intros) | split | refine fst_keeps (by with_reducible assumption) ?_

theorem dmaRead_keeps {s0 : State} (s : State) (o : Origin) (d : Desc) (k : Pick) (stage : Nat) (addr : Nat) (len :
    Nat) (got : List Byte) (hK : Keeps s0 s) : Keeps s0 (dmaRead s o d k stage addr len got) := by
  unfold dmaRead
  try dsimp only
  repeat' first
    | with_reducible first
        | assumption | apply ite_keeps | apply iteP_keeps | apply onHif_keeps | apply onHp_keeps | apply dmaPump_keeps
    | (intro _; intros) | split | refine fst_keeps (by with_reducible assumption) ?_

theorem drainEvents_keeps {s0 : State} (x0 : Nat) (x1 : State) (x2 : Nat) (hK : Keeps s0 x1) : Keeps s0 (drainEvents
    x0 x1 x2) := by
  induction x0 generalizing x1 x2
  case zero =>
    unfold drainEvents
    try dsimp only
    repeat' first
      | with_reducible first
          | assumption | apply ite_keeps | apply iteP_keeps | apply setHp_keeps | apply writeEvent_keeps
      | (intro _; intros) | split | refine fst_keeps (by with_reducible assumption) ?_
  case succ n ih =>
    unfold drainEvents
    try dsimp only
    repeat' first
      | with_reducible first
          | assumption | apply ih | apply ite_keeps | apply iteP_keeps | apply setHp_keeps | apply writeEvent_keeps
      | (intro _; intros) | split | refine fst_keeps (by with_reducible assumption) ?_

theorem countDeny_keeps {s0 : State} (s : State) (st : Status) (hK : Keeps s0 s) : Keeps s0 (countDeny s st) := by
  unfold countDeny
  try dsimp only
  repeat' first
    | with_reducible first
        | assumption | apply ite_keeps | apply iteP_keeps | apply onRgn_keeps
    | (intro _; intros) | split | refine fst_keeps (by with_reducible assumption) ?_

theorem effectBegins_keeps {s0 : State} (s : State) (o : Origin) (hK : Keeps s0 s) : Keeps s0 (effectBegins s o) := by
  unfold effectBegins
  try dsimp only
  repeat' first
    | with_reducible first
        | assumption | apply ite_keeps | apply iteP_keeps | apply onHif_keeps
    | (intro _; intros) | split | refine fst_keeps (by with_reducible assumption) ?_

end Sys2Proof.Machine
end

