-- ==== Sys2Proof/Laws/KeepsPwrCore.lean ====
section
/-! SUPPORT. What the functions of PwrCore keep. -/

namespace Sys2Proof.Machine

theorem powerEvent_keeps {s0 : State} (s : State) (kind : Byte) (entry : Option Supply) (hK : Keeps s0 s) : Keeps s0
    (powerEvent s kind entry) := by
  unfold powerEvent
  try dsimp only
  repeat' first
    | with_reducible first
        | assumption | apply bothEvent_keeps
    | (intro _; intros) | split | refine fst_keeps (by with_reducible assumption) ?_

theorem capCheck_keeps {s0 : State} (s : State) (changed : Bool) (hK : Keeps s0 s) : Keeps s0 (capCheck s changed) :=
    by
  unfold capCheck
  try dsimp only
  repeat' first
    | with_reducible first
        | assumption | apply ite_keeps | apply iteP_keeps | apply powerEvent_keeps | apply onPwr_keeps
    | (intro _; intros) | split | refine fst_keeps (by with_reducible assumption) ?_

theorem setCap_keeps {s0 : State} (s : State) (f : Pwr → Pwr) (hK : Keeps s0 s) : Keeps s0 (setCap s f) := by
  unfold setCap
  try dsimp only
  repeat' first
    | with_reducible first
        | assumption | apply ite_keeps | apply iteP_keeps | apply onPwr_keeps | apply capCheck_keeps
    | (intro _; intros) | split | refine fst_keeps (by with_reducible assumption) ?_

theorem rowCapsGo_keeps {s0 : State} (x0 : Nat) (x1 : State) (hK : Keeps s0 x1) : Keeps s0 (rowCapsGo x0 x1) := by
  induction x0 generalizing x1
  case zero =>
    unfold rowCapsGo
    try dsimp only
    repeat' first
      | with_reducible first
          | assumption | apply onPwr_keeps | apply setCap_keeps
      | (intro _; intros) | split | refine fst_keeps (by with_reducible assumption) ?_
  case succ n ih =>
    unfold rowCapsGo
    try dsimp only
    repeat' first
      | with_reducible first
          | assumption | apply ih | apply onPwr_keeps | apply setCap_keeps
      | (intro _; intros) | split | refine fst_keeps (by with_reducible assumption) ?_

theorem stageRowCap_keeps {s0 : State} (s : State) (activate : Nat) (cap : Nat) (hK : Keeps s0 s) : Keeps s0
    (stageRowCap s activate cap) := by
  unfold stageRowCap
  try dsimp only
  repeat' first
    | with_reducible first
        | assumption | apply onPwr_keeps | apply rowCapsGo_keeps
    | (intro _; intros)

end Sys2Proof.Machine
end

