-- ==== Sys2Proof/Laws/KeepsLadder.lean ====
section
/-! SUPPORT. What the functions of Ladder keep. -/

namespace Sys2Proof.Machine

theorem declareStackLost_keeps {s0 : State} (s : State) (k : Nat) (hK : Keeps s0 s) : Keeps s0 (declareStackLost s k)
    := by
  unfold declareStackLost
  try dsimp only
  repeat' first
    | with_reducible first
        | assumption | apply ite_keeps | apply iteP_keeps | apply foldl_keeps | apply foldlP_keeps
        | apply onStack_keeps | apply memPostBoth_keeps | apply memPost_keeps
    | (intro _; intros) | split | refine fst_keeps (by with_reducible assumption) ?_

theorem noteRead_keeps {s0 : State} (s : State) (k : Nat) (good : Bool) (hK : Keeps s0 s) : Keeps s0 (noteRead s k
    good) := by
  unfold noteRead
  try dsimp only
  repeat' first
    | with_reducible first
        | assumption | apply ite_keeps | apply iteP_keeps | apply onStack_keeps | apply declareStackLost_keeps
    | (intro _; intros) | split | refine fst_keeps (by with_reducible assumption) ?_

theorem notePieces_keeps {s0 : State} (s : State) (fs : List ReadFault) (lines : List Nat) (tag : Tag) (hK : Keeps s0
    s) : Keeps s0 (notePieces s fs lines tag) := by
  unfold notePieces
  try dsimp only
  repeat' first
    | with_reducible first
        | assumption | apply ite_keeps | apply iteP_keeps | apply foldl_keeps | apply foldlP_keeps
        | apply noteRead_keeps
    | (intro _; intros) | split | refine fst_keeps (by with_reducible assumption) ?_

theorem poisonEvent_keeps {s0 : State} (s : State) (h : LineHome) (cause : Byte) (source : Byte) (count : Nat) (hK :
    Keeps s0 s) : Keeps s0 (poisonEvent s h cause source count) := by
  unfold poisonEvent
  try dsimp only
  repeat' first
    | with_reducible first
        | assumption | apply memPost_keeps
    | (intro _; intros)

theorem escalate_keeps {s0 : State} (s : State) (h : LineHome) (source : Byte) (hK : Keeps s0 s) : Keeps s0 (escalate
    s h source) := by
  unfold escalate
  try dsimp only
  repeat' first
    | with_reducible first
        | assumption | apply ite_keeps | apply iteP_keeps | apply onRegion_keeps | apply emit_keeps | apply onHp_keeps
        | apply memPostBoth_keeps
    | (intro _; intros) | split | refine fst_keeps (by with_reducible assumption) ?_

theorem lostAccess_keeps {s0 : State} (s : State) (h : LineHome) (source : Byte) (hK : Keeps s0 s) : Keeps s0
    (lostAccess s h source) := by
  unfold lostAccess
  try dsimp only
  repeat' first
    | with_reducible first
        | assumption | apply ite_keeps | apply iteP_keeps | apply poisonEvent_keeps | apply onPool_keeps
        | apply escalate_keeps
    | exact fun h => h | exact fun h => Mem.writeN_wf _ _ _ h | exact fun h => Mem.zero_wf _ _ _ h
    | exact fun h => Mem.foldWrite_wf _ (fun p _ hp => Mem.write_wf p.1 _ _ hp) _ _ h | (intro _; intros) | split
    | refine fst_keeps (by with_reducible assumption) ?_

theorem bumpCorrected_keeps {s0 : State} (s : State) (hK : Keeps s0 s) : Keeps s0 (bumpCorrected s) := by
  unfold bumpCorrected
  try dsimp only
  repeat' first
    | with_reducible first
        | assumption | apply onCol_keeps
    | (intro _; intros)

theorem lostCounts_keeps {s0 : State} (s : State) (h : LineHome) (fs : List ReadFault) (hK : Keeps s0 s) : Keeps s0
    (lostCounts s h fs) := by
  unfold lostCounts
  try dsimp only
  repeat' first
    | with_reducible first
        | assumption | apply ite_keeps | apply iteP_keeps | apply bumpCorrected_keeps | apply onStack_keeps
    | (intro _; intros) | split | refine fst_keeps (by with_reducible assumption) ?_

theorem poisonLine_keeps {s0 : State} (s : State) (h : LineHome) (data : List Byte) (hK : Keeps s0 s) : Keeps s0
    (poisonLine s h data) := by
  unfold poisonLine
  try dsimp only
  repeat' first
    | with_reducible first
        | assumption | apply storeLine_keeps | apply takeBack_keeps
    | (intro _; intros)

theorem lostPoison_keeps {s0 : State} (s : State) (h : LineHome) (tag : Bool) (source : Byte) (hK : Keeps s0 s) :
    Keeps s0 (lostPoison s h tag source) := by
  unfold lostPoison
  try dsimp only
  repeat' first
    | with_reducible first
        | assumption | apply ite_keeps | apply iteP_keeps | apply onStack_keeps | apply poisonEvent_keeps
        | apply poisonLine_keeps | apply escalate_keeps
    | (intro _; intros) | split | refine fst_keeps (by with_reducible assumption) ?_

theorem readLost_keeps {s0 : State} (s : State) (h : LineHome) (fs : List ReadFault) (got : List Nat) (source : Byte)
    (hK : Keeps s0 s) : Keeps s0 (readLost s h fs got source).1 := by
  unfold readLost
  try dsimp only
  repeat' first
    | with_reducible first
        | assumption | apply ite_keeps | apply iteP_keeps | apply notePieces_keeps | apply lostAccess_keeps
        | apply lostCounts_keeps | apply lostPoison_keeps
    | (intro _; intros) | split | refine fst_keeps (by with_reducible assumption) ?_

theorem writeBackDue_keeps {s0 : State} (s : State) (w : WriteBack) (hK : Keeps s0 s) : Keeps s0 (writeBackDue s w) :=
    by
  unfold writeBackDue
  try dsimp only
  repeat' first
    | with_reducible first
        | assumption | apply ite_keeps | apply iteP_keeps | apply onPool_keeps
    | exact fun h => h | exact fun h => Mem.writeN_wf _ _ _ h | exact fun h => Mem.zero_wf _ _ _ h
    | exact fun h => Mem.foldWrite_wf _ (fun p _ hp => Mem.write_wf p.1 _ _ hp) _ _ h | (intro _; intros) | split
    | refine fst_keeps (by with_reducible assumption) ?_

theorem rebuilt_keeps {s0 : State} (s : State) (h : LineHome) (data : List Byte) (epoch : Byte) (poison : Bool) (cause
    : Byte) (source : Byte) (hK : Keeps s0 s) : Keeps s0 (rebuilt s h data epoch poison cause source).1 := by
  induction data generalizing s h epoch poison cause source
  case nil =>
    unfold rebuilt
    try dsimp only
    repeat' first
      | with_reducible first
          | assumption | apply ite_keeps | apply iteP_keeps | apply setLine_keeps | apply writeBackDue_keeps
          | apply onRgn_keeps | apply onPool_keeps
      | exact fun h => h | exact fun h => Mem.writeN_wf _ _ _ h | exact fun h => Mem.zero_wf _ _ _ h
      | exact fun h => Mem.foldWrite_wf _ (fun p _ hp => Mem.write_wf p.1 _ _ hp) _ _ h | (intro _; intros) | split
      | refine fst_keeps (by with_reducible assumption) ?_
  case cons y l ih =>
    unfold rebuilt
    try dsimp only
    repeat' first
      | with_reducible first
          | assumption | apply ih | apply ite_keeps | apply iteP_keeps | apply setLine_keeps | apply writeBackDue_keeps
          | apply onRgn_keeps | apply onPool_keeps
      | exact fun h => h | exact fun h => Mem.writeN_wf _ _ _ h | exact fun h => Mem.zero_wf _ _ _ h
      | exact fun h => Mem.foldWrite_wf _ (fun p _ hp => Mem.write_wf p.1 _ _ hp) _ _ h | (intro _; intros) | split
      | refine fst_keeps (by with_reducible assumption) ?_

theorem ladderPoison_keeps {s0 : State} (s : State) (h : LineHome) (tag : Bool) (cause : Byte) (source : Byte) (hK :
    Keeps s0 s) : Keeps s0 (ladderPoison s h tag cause source).1 := by
  unfold ladderPoison
  try dsimp only
  repeat' first
    | with_reducible first
        | assumption | apply ite_keeps | apply iteP_keeps | apply onStack_keeps | apply poisonEvent_keeps
        | apply poisonLine_keeps
    | (intro _; intros) | split | refine fst_keeps (by with_reducible assumption) ?_

theorem rebuild_keeps {s0 : State} (s : State) (h : LineHome) (fs : List ReadFault) (tagFail : Bool) (source : Byte)
    (hK : Keeps s0 s) : Keeps s0 (rebuild s h fs tagFail source).1 := by
  unfold rebuild
  try dsimp only
  repeat' first
    | with_reducible first
        | assumption | apply ite_keeps | apply iteP_keeps | apply foldl_keeps | apply foldlP_keeps
        | apply notePieces_keeps | apply rebuilt_keeps | apply ladderPoison_keeps
    | (intro _; intros) | split | refine fst_keeps (by with_reducible assumption) ?_

theorem readLine_keeps {s0 : State} (s : State) (h : LineHome) (fs : List ReadFault) (got : List Nat) (source : Byte)
    (hK : Keeps s0 s) : Keeps s0 (readLine s h fs got source).1 := by
  unfold readLine
  try dsimp only
  repeat' first
    | with_reducible first
        | assumption | apply ite_keeps | apply iteP_keeps | apply readLost_keeps | apply noteRead_keeps
        | apply bumpCorrected_keeps | apply onStack_keeps | apply rebuild_keeps
    | (intro _; intros) | split | refine fst_keeps (by with_reducible assumption) ?_

theorem counterAdd_keeps {s0 : State} (s : State) (c : Nat) (n : Nat) (hK : Keeps s0 s) : Keeps s0 (counterAdd s c n)
    := by
  unfold counterAdd
  try dsimp only
  repeat' first
    | with_reducible first
        | assumption | apply onCoh_keeps
    | (intro _; intros)

end Sys2Proof.Machine
end

