-- ==== Sys2Proof/Laws/KeepsAccess.lean ====
section
/-! SUPPORT. What the functions of Access keep. -/

namespace Sys2Proof.Machine

theorem readPieces_keeps {s0 : State} (s : State) (ri : Nat) (ps : List Piece) (fs : List ReadFault) (got : List Nat)
    (source : Byte) (hK : Keeps s0 s) : Keeps s0 (readPieces s ri ps fs got source).1 := by
  unfold readPieces
  try dsimp only
  repeat' first
    | with_reducible first
        | assumption | apply foldl_keeps | apply foldlP_keeps | apply readLine_keeps
    | (intro _; intros) | split | refine fst_keeps (by with_reducible assumption) ?_

theorem dirRoom_keeps {s0 : State} (s : State) (line : Nat) (homeOfLine : Nat → Option LineHome) (hK : Keeps s0 s) :
    Keeps s0 (dirRoom s line homeOfLine).1 := by
  unfold dirRoom
  try dsimp only
  repeat' first
    | with_reducible first
        | assumption | apply ite_keeps | apply iteP_keeps | apply foldl_keeps | apply foldlP_keeps
        | apply dirDrop_keeps | apply snoop_keeps
    | (intro _; intros) | split | refine fst_keeps (by with_reducible assumption) ?_

theorem awaitPartner_keeps {s0 : State} (s : State) (w : Waiter) (reg : Nat) (off : Nat) (wants : List Nat) (got :
    List Nat) (hK : Keeps s0 s) : Keeps s0 (awaitPartner s w reg off wants got) := by
  unfold awaitPartner
  try dsimp only
  repeat' first
    | with_reducible first
        | assumption | apply onCoh_keeps
    | (intro _; intros)

theorem partnerWrites_keeps {s0 : State} (s : State) (wid : Nat) (reg : Nat) (node : Node) (imgs : List (Nat × Nat ×
    List Byte)) (hK : Keeps s0 s) : Keeps s0 (partnerWrites s wid reg node imgs).1 := by
  unfold partnerWrites
  try dsimp only
  repeat' first
    | with_reducible first
        | assumption | apply ite_keeps | apply iteP_keeps | apply foldl_keeps | apply foldlP_keeps
        | apply sendMgmt_keeps
    | (intro _; intros) | split | refine fst_keeps (by with_reducible assumption) ?_

theorem mirrorWrite_keeps {s0 : State} (s : State) (who : Waiter) (reg : Nat) (off : Nat) (r : Region) (ws : List
    LineWrite) (hK : Keeps s0 s) : Keeps s0 (mirrorWrite s who reg off r ws) := by
  unfold mirrorWrite
  try dsimp only
  repeat' first
    | with_reducible first
        | assumption | apply partnerWrites_keeps
    | (intro _; intros) | split | refine fst_keeps (by with_reducible assumption) ?_ | with_reducible apply mk_keeps

theorem partnerReadReq_keeps {s0 : State} (s : State) (h : LineHome) (hK : Keeps s0 s) : Keeps s0 (partnerReadReq s h)
    := by
  unfold partnerReadReq
  try dsimp only
  repeat' first
    | with_reducible first
        | assumption | apply ite_keeps | apply iteP_keeps | apply sendMgmt_keeps
    | (intro _; intros) | split | refine fst_keeps (by with_reducible assumption) ?_

theorem partnerKeep_keeps {s0 : State} (s : State) (who : Waiter) (ri : Nat) (r : Region) (hs : List LineHome) (hK :
    Keeps s0 s) : Keeps s0 (partnerKeep s who ri r hs) := by
  unfold partnerKeep
  try dsimp only
  repeat' first
    | with_reducible first
        | assumption | apply ite_keeps | apply iteP_keeps | apply partnerWrites_keeps
    | (intro _; intros) | split | refine fst_keeps (by with_reducible assumption) ?_ | with_reducible apply mk_keeps

theorem block_keeps {s0 : State} (s : State) (w : Waiter) (reg : Nat) (off : Nat) (lines : List Nat) (got : List Nat)
    (fs : List ReadFault) (hK : Keeps s0 s) : Keeps s0 (block s w reg off lines got fs) := by
  unfold block
  try dsimp only
  repeat' first
    | with_reducible first
        | assumption | apply onCoh_keeps
    | (intro _; intros)

theorem prepare_keeps {s0 : State} (s : State) (hs : List LineHome) (u : Use) (me : Option (Fin 34)) (entry : Bool)
    (hK : Keeps s0 s) : Keeps s0 (prepare s hs u me entry).1 := by
  unfold prepare
  try dsimp only
  repeat' first
    | with_reducible first
        | assumption | apply ite_keeps | apply iteP_keeps | apply foldl_keeps | apply foldlP_keeps | apply snoop_keeps
        | apply dirRoom_keeps
    | (intro _; intros) | split | refine fst_keeps (by with_reducible assumption) ?_

theorem landLine_keeps {s0 : State} (s : State) (w : LineWrite) (hK : Keeps s0 s) : Keeps s0 (landLine s w).1 := by
  unfold landLine
  try dsimp only
  repeat' first
    | with_reducible first
        | assumption | apply ite_keeps | apply iteP_keeps | apply lostAccess_keeps | apply storeLine_keeps
    | (intro _; intros) | split | refine fst_keeps (by with_reducible assumption) ?_

theorem landAll_keeps {s0 : State} (s : State) (ws : List LineWrite) (hK : Keeps s0 s) : Keeps s0 (landAll s ws).1 :=
    by
  unfold landAll
  try dsimp only
  repeat' first
    | with_reducible first
        | assumption | apply foldl_keeps | apply foldlP_keeps | apply landLine_keeps
    | (intro _; intros) | split | refine fst_keeps (by with_reducible assumption) ?_

theorem writeScratch_keeps {s0 : State} (s : State) (r : Region) (off : Nat) (bytes : List Byte) (hK : Keeps s0 s) :
    Keeps s0 (writeScratch s r off bytes) := by
  unfold writeScratch
  try dsimp only
  repeat' first
    | with_reducible first
        | assumption | apply onPool_keeps
    | exact fun h => h | exact fun h => Mem.writeN_wf _ _ _ h | exact fun h => Mem.zero_wf _ _ _ h
    | exact fun h => Mem.foldWrite_wf _ (fun p _ hp => Mem.write_wf p.1 _ _ hp) _ _ h | (intro _; intros)

theorem partnerLine_keeps {s0 : State} (s : State) (h : LineHome) (hK : Keeps s0 s) : Keeps s0 (partnerLine s h) := by
  unfold partnerLine
  try dsimp only
  repeat' first
    | with_reducible first
        | assumption | apply partnerKeep_keeps
    | (intro _; intros)

end Sys2Proof.Machine
end

