-- ==== Sys2Proof/Laws/KeepsServe.lean ====
section
/-! SUPPORT. What the functions of Serve keep. -/

namespace Sys2Proof.Machine

theorem hostRefused_keeps {s0 : State} (s : State) (p : Fin 2) (q : HostReq) (hK : Keeps s0 s) : Keeps s0 (hostRefused
    s p q) := by
  unfold hostRefused
  try dsimp only
  repeat' first
    | with_reducible first
        | assumption | apply emit_keeps
    | (intro _; intros) | split | refine fst_keeps (by with_reducible assumption) ?_

theorem deny_keeps {s0 : State} (s : State) (a : Arrival) (st : Status) (hK : Keeps s0 s) : Keeps s0 (deny s a st) :=
    by
  unfold deny
  try dsimp only
  repeat' first
    | with_reducible first
        | assumption | apply ite_keeps | apply iteP_keeps | apply refuse_keeps | apply countDeny_keeps
    | (intro _; intros) | split | refine fst_keeps (by with_reducible assumption) ?_

theorem afterWriteback_keeps {s0 : State} (s : State) (line : Nat) (x : Option (Fin 34)) (hK : Keeps s0 s) : Keeps s0
    (afterWriteback s line x) := by
  unfold afterWriteback
  try dsimp only
  repeat' first
    | with_reducible first
        | assumption | apply ite_keeps | apply iteP_keeps | apply dirPut_keeps
    | (intro _; intros) | split | refine fst_keeps (by with_reducible assumption) ?_

theorem refusedWriteback_keeps {s0 : State} (s : State) (a : Arrival) (hK : Keeps s0 s) : Keeps s0 (refusedWriteback s
    a) := by
  unfold refusedWriteback
  try dsimp only
  repeat' first
    | with_reducible first
        | assumption | apply ite_keeps | apply iteP_keeps | apply afterWriteback_keeps
    | (intro _; intros) | split | refine fst_keeps (by with_reducible assumption) ?_

theorem fabricPageMiss_keeps {s0 : State} (s : State) (a : Arrival) (k : AccKind) (off : Nat) (len : Nat) (fs : List
    ReadFault) (hK : Keeps s0 s) : Keeps s0 (fabricPageMiss s a k off len fs) := by
  unfold fabricPageMiss
  try dsimp only
  repeat' first
    | with_reducible first
        | assumption | apply pageMiss_keeps | apply refuse_keeps | apply park_keeps
    | (intro _; intros) | split | refine fst_keeps (by with_reducible assumption) ?_

theorem writeDone_keeps {s0 : State} (s : State) (a : Arrival) (ok : Bool) (n : Nat) (hK : Keeps s0 s) : Keeps s0
    (writeDone s a ok n) := by
  unfold writeDone
  try dsimp only
  repeat' first
    | with_reducible first
        | assumption | apply ite_keeps | apply iteP_keeps | apply counterAdd_keeps | apply finishReq_keeps
        | apply onXp_keeps
    | (intro _; intros) | split | refine fst_keeps (by with_reducible assumption) ?_

theorem writerDir_keeps {s0 : State} (s : State) (p : Packet) (me : Option (Fin 34)) (lines : List Nat) (hK : Keeps s0
    s) : Keeps s0 (writerDir s p me lines) := by
  unfold writerDir
  try dsimp only
  repeat' first
    | with_reducible first
        | assumption | apply ite_keeps | apply iteP_keeps | apply foldl_keeps | apply foldlP_keeps
        | apply afterWriteback_keeps | apply dirRemove_keeps
    | (intro _; intros) | split | refine fst_keeps (by with_reducible assumption) ?_

theorem writeAt_keeps {s0 : State} (s : State) (a : Arrival) (ri : Nat) (r : Region) (off : Nat) (acked : Bool) (hK :
    Keeps s0 s) : Keeps s0 (writeAt s a ri r off acked) := by
  unfold writeAt
  try dsimp only
  repeat' first
    | with_reducible first
        | assumption | apply ite_keeps | apply iteP_keeps | apply writeScratch_keeps | apply writeDone_keeps
        | apply prepare_keeps | apply block_keeps | apply mirrorWrite_keeps | apply landAll_keeps
        | apply writerDir_keeps
    | (intro _; intros) | split | refine fst_keeps (by with_reducible assumption) ?_

theorem serveWrite_keeps {s0 : State} (s : State) (a : Arrival) (hK : Keeps s0 s) : Keeps s0 (serveWrite s a) := by
  unfold serveWrite
  try dsimp only
  repeat' first
    | with_reducible first
        | assumption | apply ite_keeps | apply iteP_keeps | apply deny_keeps | apply refusedWriteback_keeps
        | apply fabricPageMiss_keeps | apply refuse_keeps | apply writeAt_keeps
    | (intro _; intros) | split | refine fst_keeps (by with_reducible assumption) ?_

theorem serveCounterRead_keeps {s0 : State} (s : State) (a : Arrival) (hK : Keeps s0 s) : Keeps s0 (serveCounterRead s
    a) := by
  unfold serveCounterRead
  try dsimp only
  repeat' first
    | with_reducible first
        | assumption | apply ite_keeps | apply iteP_keeps | apply deny_keeps | apply finishReq_keeps
        | apply refuse_keeps
    | (intro _; intros) | split | refine fst_keeps (by with_reducible assumption) ?_

theorem serveClosing_keeps {s0 : State} (s : State) (a : Arrival) (hK : Keeps s0 s) : Keeps s0 (serveClosing s a) :=
    by
  unfold serveClosing
  try dsimp only
  repeat' first
    | with_reducible first
        | assumption | apply ite_keeps | apply iteP_keeps | apply deny_keeps | apply refuse_keeps
        | apply pageMiss_keeps | apply onXp_keeps | apply respond_keeps
    | (intro _; intros) | split | refine fst_keeps (by with_reducible assumption) ?_

theorem atomicAt_keeps {s0 : State} (s : State) (a : Arrival) (ri : Nat) (r : Region) (off : Nat) (fs : List
    ReadFault) (got : List Nat) (acked : Bool) (hK : Keeps s0 s) : Keeps s0 (atomicAt s a ri r off fs got acked) := by
  unfold atomicAt
  try dsimp only
  repeat' first
    | with_reducible first
        | assumption | apply ite_keeps | apply iteP_keeps | apply finishReq_keeps | apply writeScratch_keeps
        | apply refuse_keeps | apply prepare_keeps | apply block_keeps | apply readLine_keeps
        | apply awaitPartner_keeps | apply partnerReadReq_keeps | apply mirrorWrite_keeps | apply landAll_keeps
        | apply writerDir_keeps
    | (intro _; intros) | split | refine fst_keeps (by with_reducible assumption) ?_

theorem serveAtomic_keeps {s0 : State} (s : State) (a : Arrival) (fs : List ReadFault) (hK : Keeps s0 s) : Keeps s0
    (serveAtomic s a fs) := by
  unfold serveAtomic
  try dsimp only
  repeat' first
    | with_reducible first
        | assumption | apply deny_keeps | apply fabricPageMiss_keeps | apply atomicAt_keeps
    | (intro _; intros) | split | refine fst_keeps (by with_reducible assumption) ?_

theorem readAt_keeps {s0 : State} (s : State) (a : Arrival) (ri : Nat) (r : Region) (off : Nat) (fs : List ReadFault)
    (got : List Nat) (hK : Keeps s0 s) : Keeps s0 (readAt s a ri r off fs got) := by
  unfold readAt
  try dsimp only
  repeat' first
    | with_reducible first
        | assumption | apply ite_keeps | apply iteP_keeps | apply foldl_keeps | apply foldlP_keeps
        | apply finishReq_keeps | apply prepare_keeps | apply block_keeps | apply readPieces_keeps
        | apply refuse_keeps | apply awaitPartner_keeps | apply partnerReadReq_keeps | apply dirPut_keeps
        | apply dirShare_keeps
    | (intro _; intros) | split | refine fst_keeps (by with_reducible assumption) ?_

theorem resumePacket_keeps {s0 : State} (s : State) (a : Arrival) (ri : Nat) (off : Nat) (got : List Nat) (fs : List
    ReadFault) (acked : Bool) (hK : Keeps s0 s) : Keeps s0 (resumePacket s a ri off got fs acked) := by
  unfold resumePacket
  try dsimp only
  repeat' first
    | with_reducible first
        | assumption | apply ite_keeps | apply iteP_keeps | apply refuse_keeps | apply readAt_keeps
        | apply atomicAt_keeps | apply writeAt_keeps
    | (intro _; intros) | split | refine fst_keeps (by with_reducible assumption) ?_

theorem hostLocate_keeps {s0 : State} (s : State) (p : Fin 2) (q : HostReq) (hK : Keeps s0 s) : Keeps s0 (hostLocate s
    p q).1 := by
  rw [hostLocate]
  repeat' first
    | with_reducible first
        | assumption | apply ite_keeps | apply iteP_keeps | apply onRgn_keeps | apply faultMarker_keeps
        | apply writeFault_keeps | apply faultLost_keeps | apply countDeny_keeps | apply pageMiss_keeps
        | apply at__keeps
    | (intro _; intros) | dsimp only | split | refine fst_keeps (by with_reducible assumption) ?_

theorem hostAt_keeps {s0 : State} (s : State) (p : Fin 2) (q : HostReq) (ri : Nat) (r : Region) (off : Nat) (fs : List
    ReadFault) (got : List Nat) (acked : Bool) (hK : Keeps s0 s) : Keeps s0 (hostAt s p q ri r off fs got acked) := by
  unfold hostAt
  try dsimp only
  repeat' first
    | with_reducible first
        | assumption | apply ite_keeps | apply iteP_keeps | apply prepare_keeps | apply block_keeps
        | apply readLine_keeps | apply emit_keeps | apply awaitPartner_keeps | apply partnerReadReq_keeps
        | apply dirPut_keeps | apply dirShare_keeps | apply mirrorWrite_keeps | apply dirRemove_keeps
        | apply landAll_keeps
    | (intro _; intros) | split | refine fst_keeps (by with_reducible assumption) ?_

theorem serveHost_keeps {s0 : State} (s : State) (p : Fin 2) (q : HostReq) (fs : List ReadFault) (hK : Keeps s0 s) :
    Keeps s0 (serveHost s p q fs) := by
  rw [serveHost]
  repeat' first
    | with_reducible first
        | assumption | apply ite_keeps | apply iteP_keeps | apply hostRefused_keeps | apply hostLocate_keeps
        | apply hostAt_keeps | apply at__keeps
    | (intro _; intros) | split | refine fst_keeps (by with_reducible assumption) ?_

theorem serveRead_keeps {s0 : State} (s : State) (a : Arrival) (fs : List ReadFault) (hK : Keeps s0 s) : Keeps s0
    (serveRead s a fs) := by
  unfold serveRead
  try dsimp only
  repeat' first
    | with_reducible first
        | assumption | apply deny_keeps | apply fabricPageMiss_keeps | apply readAt_keeps
    | (intro _; intros) | split | refine fst_keeps (by with_reducible assumption) ?_

theorem resumeHost_keeps {s0 : State} (s : State) (p : Fin 2) (q : HostReq) (ri : Nat) (off : Nat) (got : List Nat)
    (fs : List ReadFault) (acked : Bool) (hK : Keeps s0 s) : Keeps s0 (resumeHost s p q ri off got fs acked) := by
  unfold resumeHost
  try dsimp only
  repeat' first
    | with_reducible first
        | assumption | apply hostRefused_keeps | apply hostAt_keeps
    | (intro _; intros) | split | refine fst_keeps (by with_reducible assumption) ?_

theorem retryPacket_keeps {s0 : State} (s : State) (a : Arrival) (fs : List ReadFault) (hK : Keeps s0 s) : Keeps s0
    (retryPacket s a fs) := by
  unfold retryPacket
  try dsimp only
  repeat' first
    | with_reducible first
        | assumption | apply ite_keeps | apply iteP_keeps | apply serveRead_keeps | apply serveAtomic_keeps
        | apply serveWrite_keeps
    | (intro _; intros) | split | refine fst_keeps (by with_reducible assumption) ?_

end Sys2Proof.Machine
end

