-- ==== Sys2Proof/Laws/KeepsCmd.lean ====
section
/-! SUPPORT. What the functions of Cmd keep. -/

namespace Sys2Proof.Machine

theorem up_keeps {s0 : State} (s : State) (k : State → State) (h_k : ∀ y0, Keeps s0 y0 → Keeps s0 (k y0)) (hK : Keeps
    s0 s) : OutKeeps s0 (up s k) := by
  unfold up
  try dsimp only
  repeat' first
    | with_reducible first
        | assumption | apply h_k | apply ite_outKeeps | apply ite_keeps | apply iteP_keeps | apply OutKeeps.next
    | (intro _; intros) | split | refine fst_keeps (by with_reducible assumption) ?_

theorem queryOut_keeps {s0 : State} (s : State) (o : Origin) (d : Desc) (addr : Nat) (rec : List Byte) (hK : Keeps s0
    s) : Keeps s0 (queryOut s o d addr rec) := by
  unfold queryOut
  try dsimp only
  repeat' first
    | with_reducible first
        | assumption | apply ite_keeps | apply iteP_keeps | apply complete_keeps | apply dmaWrite_keeps
    | (intro _; intros) | split | refine fst_keeps (by with_reducible assumption) ?_

theorem carryOut_keeps {s0 : State} (s : State) (o : Origin) (d : Desc) (dst : Node) (hK : Keeps s0 s) : Keeps s0
    (carryOut s o d dst) := by
  unfold carryOut
  try dsimp only
  repeat' first
    | with_reducible first
        | assumption | apply ite_keeps | apply iteP_keeps | apply onHif_keeps | apply sendMgmt_keeps
    | (intro _; intros) | split | refine fst_keeps (by with_reducible assumption) ?_

theorem CmdSpec_eff_keeps {s0 : State} (self : CmdSpec) (x1 : Origin) (x2 : Desc) (x3 : Pick) (x4 : State) (h_self : ∀
    o d k s, Keeps s0 s → Keeps s0 (self.eff o d k s)) (hK : Keeps s0 x4) : Keeps s0 (CmdSpec.eff self x1 x2 x3 x4) :=
    by
  unfold CmdSpec.eff
  try dsimp only
  repeat' first
    | with_reducible first
        | assumption | apply h_self | apply ite_keeps | apply iteP_keeps | apply foldl_keeps | apply foldlP_keeps
    | (intro _; intros) | split | refine fst_keeps (by with_reducible assumption) ?_

theorem runCmd_keeps {s0 : State} (s : State) (o : Origin) (d : Desc) (k : Pick) (order : Nat) (c : CmdSpec) (h_c : ∀
    o d k s, Keeps s0 s → Keeps s0 (c.eff o d k s)) (hK : Keeps s0 s) : Keeps s0 (runCmd s o d k order c) := by
  unfold runCmd
  try dsimp only
  repeat' first
    | with_reducible first
        | assumption | apply h_c | apply ite_keeps | apply iteP_keeps | apply complete_keeps | apply carryOut_keeps
        | apply onRgn_keeps | apply CmdSpec_eff_keeps
    | (intro _; intros) | split | refine fst_keeps (by with_reducible assumption) ?_

theorem markBegun_keeps {s0 : State} (s : State) (r : CmdRef) (f : InFlight) (hK : Keeps s0 s) : Keeps s0 (markBegun s
    r f) := by
  unfold markBegun
  try dsimp only
  repeat' first
    | with_reducible first
        | assumption | apply ite_keeps | apply iteP_keeps | apply onHp_keeps | apply effectBegins_keeps
    | (intro _; intros) | split | refine fst_keeps (by with_reducible assumption) ?_

theorem runRow_keeps {s0 : State} (c : CmdSpec) (r : CmdRef) (d : Desc) (k : Pick) (s : State) (h_c : ∀ o d k s, Keeps
    s0 s → Keeps s0 (c.eff o d k s)) (hK : Keeps s0 s) : Keeps s0 (runRow c r d k s) := by
  unfold runRow
  try dsimp only
  repeat' first
    | with_reducible first
        | assumption | apply h_c | apply runCmd_keeps | apply markBegun_keeps
    | (intro _; intros) | split | refine fst_keeps (by with_reducible assumption) ?_

end Sys2Proof.Machine
end

