-- ==== Sys2Proof/Laws/KeepsRegions.lean ====
section
/-! SUPPORT. What the functions of Regions keep. -/

namespace Sys2Proof.Machine

theorem closeGrace_keeps {s0 : State} (s : State) (ri : Nat) (hK : Keeps s0 s) : Keeps s0 (closeGrace s ri) := by
  unfold closeGrace
  try dsimp only
  repeat' first
    | with_reducible first
        | assumption | apply onRegion_keeps
    | (intro _; intros)

theorem specKeyRevoke_keeps {s0 : State} (o : Origin) (d : Desc) (k : Pick) (s : State) (hK : Keeps s0 s) : Keeps s0
    ((specKeyRevoke).eff o d k s) := by
  unfold specKeyRevoke
  try dsimp only
  repeat' first
    | with_reducible first
        | assumption | apply complete_keeps | apply closeGrace_keeps
    | (intro _; intros)

theorem enterRegion_keeps {s0 : State} (s : State) (ri : Nat) (r : Region) (base : Nat) (prot : Nat) (hK : Keeps s0 s)
    : Keeps s0 (enterRegion s ri r base prot) := by
  unfold enterRegion
  try dsimp only
  repeat' first
    | with_reducible first
        | assumption | apply ite_keeps | apply iteP_keeps | apply scrubSpans_keeps | apply zeroScratch_keeps
        | apply onRgn_keeps
    | (intro _; intros) | split | refine fst_keeps (by with_reducible assumption) ?_

theorem createNow_keeps {s0 : State} (s : State) (o : Origin) (d : Desc) (k : Pick) (part : Option (Nat × BitVec 16))
    (hK : Keeps s0 s) : Keeps s0 (createNow s o d k part) := by
  unfold createNow
  try dsimp only
  repeat' first
    | with_reducible first
        | assumption | apply enterRegion_keeps | apply effectBegins_keeps | apply complete_keeps
    | (intro _; intros) | split | refine fst_keeps (by with_reducible assumption) ?_

theorem specRegionCreate_keeps {s0 : State} (o : Origin) (d : Desc) (k : Pick) (s : State) (hK : Keeps s0 s) : Keeps
    s0 ((specRegionCreate).eff o d k s) := by
  unfold specRegionCreate
  try dsimp only
  repeat' first
    | with_reducible first
        | assumption | apply ite_keeps | apply iteP_keeps | apply sendMgmt_keeps | apply createNow_keeps
    | (intro _; intros) | split | refine fst_keeps (by with_reducible assumption) ?_

theorem execRegionCreate_keeps {s0 : State} (r : CmdRef) (d : Desc) (k : Pick) (s : State) (hK : Keeps s0 s) :
    OutKeeps s0 (execRegionCreate r d k s) := by
  unfold execRegionCreate
  try dsimp only
  repeat' first
    | with_reducible first
        | assumption | apply OutKeeps.next | apply up_keeps | apply runRow_keeps | apply specRegionCreate_keeps
    | (intro _; intros)

theorem specRegionSetRights_keeps {s0 : State} (o : Origin) (d : Desc) (k : Pick) (s : State) (hK : Keeps s0 s) :
    Keeps s0 ((specRegionSetRights).eff o d k s) := by
  unfold specRegionSetRights
  try dsimp only
  repeat' first
    | with_reducible first
        | assumption | apply complete_keeps | apply onRegion_keeps
    | (intro _; intros)

theorem dropJob_keeps {s0 : State} (s : State) (j : PageJob) (hK : Keeps s0 s) : Keeps s0 (dropJob s j) := by
  unfold dropJob
  try dsimp only
  repeat' first
    | with_reducible first
        | assumption | apply onRgn_keeps
    | (intro _; intros)

theorem fillPage_keeps {s0 : State} (s : State) (r : Region) (ri : Nat) (page : Nat) (g : Nat) (data : List Byte) (hK
    : Keeps s0 s) : Keeps s0 (fillPage s r ri page g data) := by
  unfold fillPage
  try dsimp only
  repeat' first
    | with_reducible first
        | assumption | apply foldl_keeps | apply foldlP_keeps | apply storeLine_keeps
    | (intro _; intros)

theorem installPage_keeps {s0 : State} (s : State) (ri : Nat) (r : Region) (page : Nat) (g : Nat) (hK : Keeps s0 s) :
    Keeps s0 (installPage s ri r page g) := by
  unfold installPage
  try dsimp only
  repeat' first
    | with_reducible first
        | assumption | apply ite_keeps | apply iteP_keeps | apply onRgn_keeps
    | (intro _; intros) | split | refine fst_keeps (by with_reducible assumption) ?_

theorem pageInData_keeps {s0 : State} (s : State) (j : PageJob) (ok : Bool) (data : List Byte) (hK : Keeps s0 s) :
    Keeps s0 (pageInData s j ok data) := by
  unfold pageInData
  try dsimp only
  repeat' first
    | with_reducible first
        | assumption | apply ite_keeps | apply iteP_keeps | apply complete_keeps | apply scrubSpan_keeps
        | apply dropJob_keeps | apply fillPage_keeps | apply installPage_keeps | apply onRgn_keeps
    | (intro _; intros) | split | refine fst_keeps (by with_reducible assumption) ?_

theorem freePage_keeps {s0 : State} (s : State) (j : PageJob) (hK : Keeps s0 s) : Keeps s0 (freePage s j) := by
  unfold freePage
  try dsimp only
  repeat' first
    | with_reducible first
        | assumption | apply ite_keeps | apply iteP_keeps | apply onRgn_keeps | apply scrubSpan_keeps
    | (intro _; intros) | split | refine fst_keeps (by with_reducible assumption) ?_

theorem leavePage_keeps {s0 : State} (s : State) (r : Region) (j : PageJob) (hK : Keeps s0 s) : Keeps s0 (leavePage s
    r j) := by
  unfold leavePage
  try dsimp only
  repeat' first
    | with_reducible first
        | assumption | apply ite_keeps | apply iteP_keeps | apply foldl_keeps | apply foldlP_keeps
        | apply freePage_keeps | apply takeBack_keeps | apply onRgn_keeps
    | (intro _; intros) | split | refine fst_keeps (by with_reducible assumption) ?_

theorem pageBytes_keeps {s0 : State} (s : State) (r : Region) (ri : Nat) (page : Nat) (g : Nat) (fs : List ReadFault)
    (hK : Keeps s0 s) : Keeps s0 (pageBytes s r ri page g fs).1 := by
  unfold pageBytes
  try dsimp only
  repeat' first
    | with_reducible first
        | assumption | apply ite_keeps | apply iteP_keeps | apply foldl_keeps | apply foldlP_keeps
        | apply memPost_keeps | apply poisonEvent_keeps | apply readLine_keeps
    | (intro _; intros) | split | refine fst_keeps (by with_reducible assumption) ?_

theorem removePage_keeps {s0 : State} (s : State) (ri : Nat) (page : Nat) (hK : Keeps s0 s) : Keeps s0 (removePage s
    ri page) := by
  unfold removePage
  try dsimp only
  repeat' first
    | with_reducible first
        | assumption | apply ite_keeps | apply iteP_keeps | apply onRgn_keeps
    | (intro _; intros) | split | refine fst_keeps (by with_reducible assumption) ?_

theorem pageOutStep_keeps {s0 : State} (s : State) (j : PageJob) (hK : Keeps s0 s) : Keeps s0 (pageOutStep s j) := by
  unfold pageOutStep
  try dsimp only
  repeat' first
    | with_reducible first
        | assumption | apply ite_keeps | apply iteP_keeps | apply foldl_keeps | apply foldlP_keeps
        | apply freePage_keeps | apply dropJob_keeps | apply complete_keeps | apply leavePage_keeps
        | apply snoop_keeps | apply pageBytes_keeps | apply dmaWrite_keeps
    | (intro _; intros) | split | refine fst_keeps (by with_reducible assumption) ?_

theorem specPageOut_keeps {s0 : State} (o : Origin) (d : Desc) (k : Pick) (s : State) (hK : Keeps s0 s) : Keeps s0
    ((specPageOut).eff o d k s) := by
  unfold specPageOut
  try dsimp only
  repeat' first
    | with_reducible first
        | assumption | apply complete_keeps | apply onRgn_keeps | apply removePage_keeps | apply pageOutStep_keeps
    | (intro _; intros) | split | refine fst_keeps (by with_reducible assumption) ?_

theorem countScrub_keeps {s0 : State} (s : State) (r : Region) (spans : List Span) (recalled : Nat) (hK : Keeps s0 s)
    : Keeps s0 (countScrub s r spans recalled) := by
  unfold countScrub
  try dsimp only
  repeat' first
    | with_reducible first
        | assumption | apply ite_keeps | apply iteP_keeps | apply onSec_keeps
    | exact fun h => h | exact fun h => Mem.writeN_wf _ _ _ h | exact fun h => Mem.zero_wf _ _ _ h
    | exact fun h => Mem.foldWrite_wf _ (fun p _ hp => Mem.write_wf p.1 _ _ hp) _ _ h | (intro _; intros) | split
    | refine fst_keeps (by with_reducible assumption) ?_

theorem specPageIn_keeps {s0 : State} (o : Origin) (d : Desc) (k : Pick) (s : State) (hK : Keeps s0 s) : Keeps s0
    ((specPageIn).eff o d k s) := by
  unfold specPageIn
  try dsimp only
  repeat' first
    | with_reducible first
        | assumption | apply ite_keeps | apply iteP_keeps | apply complete_keeps | apply scrubSpan_keeps
        | apply onRgn_keeps | apply dmaRead_keeps
    | (intro _; intros) | split | refine fst_keeps (by with_reducible assumption) ?_

theorem execPageIn_keeps {s0 : State} (r : CmdRef) (d : Desc) (s : State) (hK : Keeps s0 s) : OutKeeps s0 (execPageIn
    r d s) := by
  unfold execPageIn
  try dsimp only
  repeat' first
    | with_reducible first
        | assumption | apply OutKeeps.next | apply up_keeps | apply runRow_keeps | apply specPageIn_keeps
    | (intro _; intros)

theorem dropMeasure_keeps {s0 : State} (s : State) (ri : Nat) (hK : Keeps s0 s) : Keeps s0 (dropMeasure s ri) := by
  unfold dropMeasure
  try dsimp only
  repeat' first
    | with_reducible first
        | assumption | apply onCoh_keeps | apply onSec_keeps | apply complete_keeps
    | exact fun h => h | exact fun h => Mem.writeN_wf _ _ _ h | exact fun h => Mem.zero_wf _ _ _ h
    | exact fun h => Mem.foldWrite_wf _ (fun p _ hp => Mem.write_wf p.1 _ _ hp) _ _ h | (intro _; intros) | split
    | refine fst_keeps (by with_reducible assumption) ?_

theorem destroyRegion_keeps {s0 : State} (s : State) (ri : Nat) (hK : Keeps s0 s) : Keeps s0 (destroyRegion s ri) :=
    by
  unfold destroyRegion
  try dsimp only
  repeat' first
    | with_reducible first
        | assumption | apply onRgn_keeps | apply onRegion_keeps | apply dropMeasure_keeps
    | (intro _; intros)

theorem specTenantSetQuota_keeps {s0 : State} (o : Origin) (d : Desc) (k : Pick) (s : State) (hK : Keeps s0 s) : Keeps
    s0 ((specTenantSetQuota).eff o d k s) := by
  unfold specTenantSetQuota
  try dsimp only
  repeat' first
    | with_reducible first
        | assumption | apply complete_keeps | apply onRgn_keeps
    | (intro _; intros)

theorem specKeyRotate_keeps {s0 : State} (o : Origin) (d : Desc) (k : Pick) (s : State) (hK : Keeps s0 s) : Keeps s0
    ((specKeyRotate).eff o d k s) := by
  unfold specKeyRotate
  try dsimp only
  repeat' first
    | with_reducible first
        | assumption | apply complete_keeps | apply onRegion_keeps
    | (intro _; intros) | split | refine fst_keeps (by with_reducible assumption) ?_

theorem execKeyRotate_keeps {s0 : State} (r : CmdRef) (d : Desc) (s : State) (hK : Keeps s0 s) : OutKeeps s0
    (execKeyRotate r d s) := by
  unfold execKeyRotate
  try dsimp only
  repeat' first
    | with_reducible first
        | assumption | apply OutKeeps.next | apply up_keeps | apply runRow_keeps | apply specKeyRotate_keeps
    | (intro _; intros)

theorem specRegionDestroy_keeps {s0 : State} (o : Origin) (d : Desc) (k : Pick) (s : State) (hK : Keeps s0 s) : Keeps
    s0 ((specRegionDestroy).eff o d k s) := by
  unfold specRegionDestroy
  try dsimp only
  repeat' first
    | with_reducible first
        | assumption | apply complete_keeps | apply destroyRegion_keeps
    | (intro _; intros)

theorem execRegionSetRights_keeps {s0 : State} (r : CmdRef) (d : Desc) (s : State) (hK : Keeps s0 s) : OutKeeps s0
    (execRegionSetRights r d s) := by
  unfold execRegionSetRights
  try dsimp only
  repeat' first
    | with_reducible first
        | assumption | apply OutKeeps.next | apply up_keeps | apply runRow_keeps | apply specRegionSetRights_keeps
    | (intro _; intros)

theorem execPageOut_keeps {s0 : State} (r : CmdRef) (d : Desc) (k : Pick) (s : State) (hK : Keeps s0 s) : OutKeeps s0
    (execPageOut r d k s) := by
  unfold execPageOut
  try dsimp only
  repeat' first
    | with_reducible first
        | assumption | apply OutKeeps.next | apply up_keeps | apply runRow_keeps | apply specPageOut_keeps
    | (intro _; intros)

theorem specPageFaultClear_keeps {s0 : State} (o : Origin) (d : Desc) (k : Pick) (s : State) (hK : Keeps s0 s) : Keeps
    s0 ((specPageFaultClear).eff o d k s) := by
  unfold specPageFaultClear
  try dsimp only
  repeat' first
    | with_reducible first
        | assumption | apply complete_keeps | apply onRgn_keeps
    | (intro _; intros)

theorem specRangeUnmap_keeps {s0 : State} (o : Origin) (d : Desc) (k : Pick) (s : State) (hK : Keeps s0 s) : Keeps s0
    ((specRangeUnmap).eff o d k s) := by
  unfold specRangeUnmap
  try dsimp only
  repeat' first
    | with_reducible first
        | assumption | apply complete_keeps | apply onRgn_keeps
    | (intro _; intros) | split | refine fst_keeps (by with_reducible assumption) ?_

theorem graceCloseZs_keeps {s0 : State} (s : State) (ri : Nat) (t : Time) (hK : Keeps s0 s) : Keeps s0 (graceCloseZs s
    ri t) := by
  unfold graceCloseZs
  try dsimp only
  repeat' first
    | with_reducible first
        | assumption | apply ite_keeps | apply iteP_keeps | apply at__keeps | apply closeGrace_keeps
    | (intro _; intros) | split | refine fst_keeps (by with_reducible assumption) ?_

theorem specTenantQuery_keeps {s0 : State} (o : Origin) (d : Desc) (k : Pick) (s : State) (hK : Keeps s0 s) : Keeps s0
    ((specTenantQuery).eff o d k s) := by
  unfold specTenantQuery
  try dsimp only
  repeat' first
    | with_reducible first
        | assumption | apply complete_keeps
    | (intro _; intros)

theorem execTenantQuery_keeps {s0 : State} (r : CmdRef) (d : Desc) (s : State) (hK : Keeps s0 s) : OutKeeps s0
    (execTenantQuery r d s) := by
  unfold execTenantQuery
  try dsimp only
  repeat' first
    | with_reducible first
        | assumption | apply OutKeeps.next | apply up_keeps | apply runRow_keeps | apply specTenantQuery_keeps
    | (intro _; intros)

theorem specRangeMap_keeps {s0 : State} (o : Origin) (d : Desc) (k : Pick) (s : State) (hK : Keeps s0 s) : Keeps s0
    ((specRangeMap).eff o d k s) := by
  unfold specRangeMap
  try dsimp only
  repeat' first
    | with_reducible first
        | assumption | apply complete_keeps | apply onRgn_keeps
    | (intro _; intros)

theorem execRangeMap_keeps {s0 : State} (r : CmdRef) (d : Desc) (s : State) (hK : Keeps s0 s) : OutKeeps s0
    (execRangeMap r d s) := by
  unfold execRangeMap
  try dsimp only
  repeat' first
    | with_reducible first
        | assumption | apply OutKeeps.next | apply up_keeps | apply runRow_keeps | apply specRangeMap_keeps
    | (intro _; intros)

theorem specRegionQuery_keeps {s0 : State} (o : Origin) (d : Desc) (k : Pick) (s : State) (hK : Keeps s0 s) : Keeps s0
    ((specRegionQuery).eff o d k s) := by
  unfold specRegionQuery
  try dsimp only
  repeat' first
    | with_reducible first
        | assumption | apply queryOut_keeps
    | (intro _; intros)

theorem execRegionQuery_keeps {s0 : State} (r : CmdRef) (d : Desc) (s : State) (hK : Keeps s0 s) : OutKeeps s0
    (execRegionQuery r d s) := by
  unfold execRegionQuery
  try dsimp only
  repeat' first
    | with_reducible first
        | assumption | apply OutKeeps.next | apply up_keeps | apply runRow_keeps | apply specRegionQuery_keeps
    | (intro _; intros)

theorem execRegionDestroy_keeps {s0 : State} (r : CmdRef) (d : Desc) (s : State) (hK : Keeps s0 s) : OutKeeps s0
    (execRegionDestroy r d s) := by
  unfold execRegionDestroy
  try dsimp only
  repeat' first
    | with_reducible first
        | assumption | apply OutKeeps.next | apply up_keeps | apply runRow_keeps | apply specRegionDestroy_keeps
    | (intro _; intros)

theorem execRangeUnmap_keeps {s0 : State} (r : CmdRef) (d : Desc) (s : State) (hK : Keeps s0 s) : OutKeeps s0
    (execRangeUnmap r d s) := by
  unfold execRangeUnmap
  try dsimp only
  repeat' first
    | with_reducible first
        | assumption | apply OutKeeps.next | apply up_keeps | apply runRow_keeps | apply specRangeUnmap_keeps
    | (intro _; intros)

theorem pageOutsGo_keeps {s0 : State} (s : State) (hK : Keeps s0 s) : Keeps s0 (pageOutsGo s) := by
  unfold pageOutsGo
  try dsimp only
  repeat' first
    | with_reducible first
        | assumption | apply foldl_keeps | apply foldlP_keeps | apply pageOutStep_keeps
    | (intro _; intros)

theorem specTenantCreate_keeps {s0 : State} (o : Origin) (d : Desc) (k : Pick) (s : State) (hK : Keeps s0 s) : Keeps
    s0 ((specTenantCreate).eff o d k s) := by
  unfold specTenantCreate
  try dsimp only
  repeat' first
    | with_reducible first
        | assumption | apply onFlt_keeps | apply complete_keeps | apply onRgn_keeps
    | (intro _; intros)

theorem execTenantCreate_keeps {s0 : State} (r : CmdRef) (d : Desc) (s : State) (hK : Keeps s0 s) : OutKeeps s0
    (execTenantCreate r d s) := by
  unfold execTenantCreate
  try dsimp only
  repeat' first
    | with_reducible first
        | assumption | apply OutKeeps.next | apply up_keeps | apply runRow_keeps | apply specTenantCreate_keeps
    | (intro _; intros)

theorem freeRegionNow_keeps {s0 : State} (s : State) (ri : Nat) (r : Region) (hK : Keeps s0 s) : Keeps s0
    (freeRegionNow s ri r) := by
  unfold freeRegionNow
  try dsimp only
  repeat' first
    | with_reducible first
        | assumption | apply ite_keeps | apply iteP_keeps | apply foldl_keeps | apply foldlP_keeps
        | apply countScrub_keeps | apply takeBack_keeps | apply dirDrop_keeps | apply scrubSpans_keeps
        | apply zeroScratch_keeps | apply sendMgmt_keeps | apply onRgn_keeps
    | (intro _; intros) | split | refine fst_keeps (by with_reducible assumption) ?_

theorem execRegionFree_keeps {s0 : State} (region : BitVec 16) (s : State) (hK : Keeps s0 s) : OutKeeps s0
    (execRegionFree region s) := by
  unfold execRegionFree
  try dsimp only
  repeat' first
    | with_reducible first
        | assumption | apply ite_outKeeps | apply ite_keeps | apply iteP_keeps | apply OutKeeps.next | apply up_keeps
        | apply freeRegionNow_keeps
    | split | (intro _; intros) | split | refine fst_keeps (by with_reducible assumption) ?_

theorem execPageFaultClear_keeps {s0 : State} (r : CmdRef) (d : Desc) (s : State) (hK : Keeps s0 s) : OutKeeps s0
    (execPageFaultClear r d s) := by
  unfold execPageFaultClear
  try dsimp only
  repeat' first
    | with_reducible first
        | assumption | apply OutKeeps.next | apply up_keeps | apply runRow_keeps | apply specPageFaultClear_keeps
    | (intro _; intros)

theorem execKeyRevoke_keeps {s0 : State} (r : CmdRef) (d : Desc) (s : State) (hK : Keeps s0 s) : OutKeeps s0
    (execKeyRevoke r d s) := by
  unfold execKeyRevoke
  try dsimp only
  repeat' first
    | with_reducible first
        | assumption | apply OutKeeps.next | apply up_keeps | apply runRow_keeps | apply specKeyRevoke_keeps
    | (intro _; intros)

theorem execTenantSetQuota_keeps {s0 : State} (r : CmdRef) (d : Desc) (s : State) (hK : Keeps s0 s) : OutKeeps s0
    (execTenantSetQuota r d s) := by
  unfold execTenantSetQuota
  try dsimp only
  repeat' first
    | with_reducible first
        | assumption | apply OutKeeps.next | apply up_keeps | apply runRow_keeps | apply specTenantSetQuota_keeps
    | (intro _; intros)

end Sys2Proof.Machine
end

