-- ==== Sys2Proof/Laws/KeepsCruCore.lean ====
section
/-! SUPPORT. What the functions of CruCore keep. -/

namespace Sys2Proof.Machine

theorem issueWaiting_keeps {s0 : State} (x0 : Nat) (x1 : State) (x2 : Nat) (hK : Keeps s0 x1) : Keeps s0 (issueWaiting
    x0 x1 x2) := by
  induction x0 generalizing x1 x2
  case zero =>
    unfold issueWaiting
    try dsimp only
    repeat' first
      | with_reducible first
          | assumption | apply ite_keeps | apply iteP_keeps | apply onCru_keeps
      | (intro _; intros) | split | refine fst_keeps (by with_reducible assumption) ?_
  case succ n ih =>
    unfold issueWaiting
    try dsimp only
    repeat' first
      | with_reducible first
          | assumption | apply ih | apply ite_keeps | apply iteP_keeps | apply onCru_keeps
      | (intro _; intros) | split | refine fst_keeps (by with_reducible assumption) ?_

theorem pumpLines_keeps {s0 : State} (s : State) (e : Nat) (hK : Keeps s0 s) : Keeps s0 (pumpLines s e) := by
  unfold pumpLines
  try dsimp only
  repeat' first
    | with_reducible first
        | assumption | apply issueWaiting_keeps
    | (intro _; intros)

theorem scratchWrite_keeps {s0 : State} (s : State) (p : Nat) (pr : Program) (a : Nat) (bs : List Byte) (hK : Keeps s0
    s) : Keeps s0 (scratchWrite s p pr a bs) := by
  unfold scratchWrite
  try dsimp only
  repeat' first
    | with_reducible first
        | assumption | apply foldl_keeps | apply foldlP_keeps | apply onPool_keeps
    | exact fun h => h | exact fun h => Mem.writeN_wf _ _ _ h | exact fun h => Mem.zero_wf _ _ _ h
    | exact fun h => Mem.foldWrite_wf _ (fun p _ hp => Mem.write_wf p.1 _ _ hp) _ _ h | (intro _; intros)

theorem onProg_keeps {s0 : State} (s : State) (p : Nat) (f : Program → Program) (hK : Keeps s0 s) : Keeps s0 (onProg s
    p f) := by
  unfold onProg
  try dsimp only
  repeat' first
    | with_reducible first
        | assumption | apply onCru_keeps
    | (intro _; intros)

theorem onGroup_keeps {s0 : State} (s : State) (p : Nat) (g : Nat) (f : Group → Group) (hK : Keeps s0 s) : Keeps s0
    (onGroup s p g f) := by
  unfold onGroup
  try dsimp only
  repeat' first
    | with_reducible first
        | assumption | apply onProg_keeps
    | (intro _; intros)

theorem onEngine_keeps {s0 : State} (s : State) (e : Nat) (f : Engine → Engine) (hK : Keeps s0 s) : Keeps s0 (onEngine
    s e f) := by
  unfold onEngine
  try dsimp only
  repeat' first
    | with_reducible first
        | assumption | apply onCru_keeps
    | (intro _; intros)

theorem endProg_keeps {s0 : State} (s : State) (p : Nat) (st : Status) (info : Option FaultInfo) (hK : Keeps s0 s) :
    Keeps s0 (endProg s p st info) := by
  unfold endProg
  try dsimp only
  repeat' first
    | with_reducible first
        | assumption | apply ite_keeps | apply iteP_keeps | apply onProg_keeps | apply onCru_keeps
    | (intro _; intros) | split | refine fst_keeps (by with_reducible assumption) ?_

theorem addReq_keeps {s0 : State} (s : State) (q : LineReq) (hK : Keeps s0 s) : Keeps s0 (addReq s q) := by
  unfold addReq
  try dsimp only
  repeat' first
    | with_reducible first
        | assumption | apply onCru_keeps
    | (intro _; intros)

theorem dropReq_keeps {s0 : State} (s : State) (id : Nat) (hK : Keeps s0 s) : Keeps s0 (dropReq s id) := by
  unfold dropReq
  try dsimp only
  repeat' first
    | with_reducible first
        | assumption | apply onCru_keeps
    | (intro _; intros)

theorem faultProg_keeps {s0 : State} (s : State) (p : Nat) (i : FaultInfo) (hK : Keeps s0 s) : Keeps s0 (faultProg s p
    i) := by
  unfold faultProg
  try dsimp only
  repeat' first
    | with_reducible first
        | assumption | apply endProg_keeps
    | (intro _; intros)

theorem poolAdd_keeps {s0 : State} (s : State) (p : Nat) (g : Nat) (sl : PoolSlot) (fmt : Nat) (w : BitVec 32) (row :
    Option (List Byte)) (hK : Keeps s0 s) : Keeps s0 (poolAdd s p g sl fmt w row) := by
  unfold poolAdd
  try dsimp only
  repeat' first
    | with_reducible first
        | assumption | apply ite_keeps | apply iteP_keeps | apply foldl_keeps | apply foldlP_keeps
        | apply onProg_keeps | apply onGroup_keeps
    | (intro _; intros) | split | refine fst_keeps (by with_reducible assumption) ?_

theorem drainSlot_keeps {s0 : State} (x0 : Nat) (x1 : State) (x2 : Nat) (x3 : Nat) (x4 : Nat) (hK : Keeps s0 x1) :
    Keeps s0 (drainSlot x0 x1 x2 x3 x4) := by
  induction x0 generalizing x1 x2 x3 x4
  case zero =>
    unfold drainSlot
    try dsimp only
    repeat' first
      | with_reducible first
          | assumption | apply ite_keeps | apply iteP_keeps | apply dropReq_keeps | apply poolAdd_keeps
      | (intro _; intros) | split | refine fst_keeps (by with_reducible assumption) ?_
  case succ n ih =>
    unfold drainSlot
    try dsimp only
    repeat' first
      | with_reducible first
          | assumption | apply ih | apply ite_keeps | apply iteP_keeps | apply dropReq_keeps | apply poolAdd_keeps
      | (intro _; intros) | split | refine fst_keeps (by with_reducible assumption) ?_

theorem onReq_keeps {s0 : State} (s : State) (id : Nat) (f : LineReq → LineReq) (hK : Keeps s0 s) : Keeps s0 (onReq s
    id f) := by
  unfold onReq
  try dsimp only
  repeat' first
    | with_reducible first
        | assumption | apply ite_keeps | apply iteP_keeps | apply onCru_keeps
    | (intro _; intros) | split | refine fst_keeps (by with_reducible assumption) ?_

theorem memFailed_keeps {s0 : State} (s : State) (q : LineReq) (st : Status) (hK : Keeps s0 s) : Keeps s0 (memFailed s
    q st) := by
  unfold memFailed
  try dsimp only
  repeat' first
    | with_reducible first
        | assumption | apply ite_keeps | apply iteP_keeps | apply onGroup_keeps | apply faultProg_keeps
    | (intro _; intros) | split | refine fst_keeps (by with_reducible assumption) ?_

end Sys2Proof.Machine
end

