-- ==== Sys2Proof/Laws/KeepsCruMem.lean ====
section
/-! SUPPORT. What the functions of CruMem keep. -/

namespace Sys2Proof.Machine

theorem storeResolved_keeps {s0 : State} (s : State) (id : Nat) (off : Nat) (st : Status) (hK : Keeps s0 s) : Keeps s0
    (storeResolved s id off st) := by
  unfold storeResolved
  try dsimp only
  repeat' first
    | with_reducible first
        | assumption | apply ite_keeps | apply iteP_keeps | apply onReq_keeps | apply dropReq_keeps
        | apply memFailed_keeps
    | (intro _; intros) | split | refine fst_keeps (by with_reducible assumption) ?_

theorem lineCounted_keeps {s0 : State} (s : State) (q : LineReq) (hK : Keeps s0 s) : Keeps s0 (lineCounted s q) := by
  unfold lineCounted
  try dsimp only
  repeat' first
    | with_reducible first
        | assumption | apply onEngine_keeps | apply onProg_keeps
    | (intro _; intros)

theorem lineDone_keeps {s0 : State} (s : State) (id : Nat) (st : Status) (hK : Keeps s0 s) : Keeps s0 (lineDone s id
    st) := by
  unfold lineDone
  try dsimp only
  repeat' first
    | with_reducible first
        | assumption | apply ite_keeps | apply iteP_keeps | apply lineCounted_keeps | apply onReq_keeps
        | apply drainSlot_keeps | apply dropReq_keeps | apply onGroup_keeps | apply pumpLines_keeps
        | apply memFailed_keeps
    | (intro _; intros) | split | refine fst_keeps (by with_reducible assumption) ?_

theorem lineGot_keeps {s0 : State} (s : State) (id : Nat) (data : List Byte) (hK : Keeps s0 s) : Keeps s0 (lineGot s
    id data) := by
  unfold lineGot
  try dsimp only
  repeat' first
    | with_reducible first
        | assumption | apply lineCounted_keeps | apply drainSlot_keeps | apply onReq_keeps | apply dropReq_keeps
        | apply onGroup_keeps | apply scratchWrite_keeps | apply pumpLines_keeps
    | (intro _; intros) | split | refine fst_keeps (by with_reducible assumption) ?_

theorem lineAtomic_keeps {s0 : State} (s : State) (q : LineReq) (subop : Nat) (n : Nat) (pay : List Byte) (ri : Nat)
    (r : Region) (off : Nat) (fs : List ReadFault) (got : List Nat) (acked : Bool) (hK : Keeps s0 s) : Keeps s0
    (lineAtomic s q subop n pay ri r off fs got acked) := by
  unfold lineAtomic
  try dsimp only
  repeat' first
    | with_reducible first
        | assumption | apply ite_keeps | apply iteP_keeps | apply lineGot_keeps | apply writeScratch_keeps
        | apply lineDone_keeps | apply prepare_keeps | apply block_keeps | apply readLine_keeps
        | apply awaitPartner_keeps | apply partnerReadReq_keeps | apply mirrorWrite_keeps | apply landAll_keeps
    | (intro _; intros) | split | refine fst_keeps (by with_reducible assumption) ?_

theorem lineRead_keeps {s0 : State} (s : State) (q : LineReq) (ri : Nat) (r : Region) (off : Nat) (fs : List
    ReadFault) (got : List Nat) (hK : Keeps s0 s) : Keeps s0 (lineRead s q ri r off fs got) := by
  unfold lineRead
  try dsimp only
  repeat' first
    | with_reducible first
        | assumption | apply ite_keeps | apply iteP_keeps | apply foldl_keeps | apply foldlP_keeps
        | apply lineGot_keeps | apply prepare_keeps | apply block_keeps | apply readPieces_keeps
        | apply lineDone_keeps | apply awaitPartner_keeps | apply partnerReadReq_keeps
    | (intro _; intros) | split | refine fst_keeps (by with_reducible assumption) ?_

theorem lineAt_keeps {s0 : State} (s : State) (q : LineReq) (ri : Nat) (r : Region) (off : Nat) (fs : List ReadFault)
    (got : List Nat) (acked : Bool) (hK : Keeps s0 s) : Keeps s0 (lineAt s q ri r off fs got acked) := by
  unfold lineAt
  try dsimp only
  repeat' first
    | with_reducible first
        | assumption | apply lineAtomic_keeps | apply lineRead_keeps
    | (intro _; intros) | split | refine fst_keeps (by with_reducible assumption) ?_

theorem serveLine_keeps {s0 : State} (s : State) (q : LineReq) (pr : Program) (fs : List ReadFault) (hK : Keeps s0 s)
    : Keeps s0 (serveLine s q pr fs) := by
  unfold serveLine
  try dsimp only
  repeat' first
    | with_reducible first
        | assumption | apply ite_keeps | apply iteP_keeps | apply lineDone_keeps | apply countDeny_keeps
        | apply pageMiss_keeps | apply park_keeps | apply lineAt_keeps
    | (intro _; intros) | split | refine fst_keeps (by with_reducible assumption) ?_

theorem resumeLine_keeps {s0 : State} (s : State) (id : Nat) (ri : Nat) (off : Nat) (got : List Nat) (fs : List
    ReadFault) (acked : Bool) (hK : Keeps s0 s) : Keeps s0 (resumeLine s id ri off got fs acked) := by
  unfold resumeLine
  try dsimp only
  repeat' first
    | with_reducible first
        | assumption | apply lineAt_keeps | apply lineDone_keeps
    | (intro _; intros) | split | refine fst_keeps (by with_reducible assumption) ?_

theorem execLineRequestReturn_keeps {s0 : State} (id : Nat) (faults : List ReadFault) (s : State) (hK : Keeps s0 s) :
    OutKeeps s0 (execLineRequestReturn id faults s) := by
  unfold execLineRequestReturn
  try dsimp only
  repeat' first
    | with_reducible first
        | assumption | apply ite_outKeeps | apply ite_keeps | apply iteP_keeps | apply OutKeeps.next | apply up_keeps
        | apply serveLine_keeps
    | split | (intro _; intros) | split | refine fst_keeps (by with_reducible assumption) ?_

theorem retryLine_keeps {s0 : State} (s : State) (p : Nat) (k : Parked) (hK : Keeps s0 s) : Keeps s0 (retryLine s p k)
    := by
  unfold retryLine
  try dsimp only
  repeat' first
    | with_reducible first
        | assumption | apply lineDone_keeps | apply missAgain_keeps | apply serveLine_keeps
    | (intro _; intros) | split | refine fst_keeps (by with_reducible assumption) ?_

end Sys2Proof.Machine
end

