-- ==== Sys2Proof/Laws/KeepsResume.lean ====
section
/-! SUPPORT. What the functions of Resume keep. -/

namespace Sys2Proof.Machine

theorem measureStart_keeps {s0 : State} (s : State) (ri : Nat) (v : Nat) (who : Option (Origin × Desc)) (hK : Keeps s0
    s) : Keeps s0 (measureStart s ri v who) := by
  unfold measureStart
  try dsimp only
  repeat' first
    | with_reducible first
        | assumption | apply onSec_keeps
    | exact fun h => h | exact fun h => Mem.writeN_wf _ _ _ h | exact fun h => Mem.zero_wf _ _ _ h
    | exact fun h => Mem.foldWrite_wf _ (fun p _ hp => Mem.write_wf p.1 _ _ hp) _ _ h | (intro _; intros)

theorem measurePublished_keeps {s0 : State} (s : State) (ri : Nat) (r : Region) (v : Nat) (hK : Keeps s0 s) : Keeps s0
    (measurePublished s ri r v) := by
  unfold measurePublished
  try dsimp only
  repeat' first
    | with_reducible first
        | assumption | apply ite_keeps | apply iteP_keeps | apply measureStart_keeps
    | (intro _; intros) | split | refine fst_keeps (by with_reducible assumption) ?_

theorem finishPublish_keeps {s0 : State} (s : State) (p : Publish) (r : Region) (hK : Keeps s0 s) : Keeps s0
    (finishPublish s p r) := by
  unfold finishPublish
  try dsimp only
  repeat' first
    | with_reducible first
        | assumption | apply onRegion_keeps | apply onCoh_keeps | apply complete_keeps | apply measurePublished_keeps
    | (intro _; intros)

theorem bankKept_keeps {s0 : State} (s : State) (ri : Nat) (hK : Keeps s0 s) : Keeps s0 (bankKept s ri) := by
  unfold bankKept
  try dsimp only
  repeat' first
    | with_reducible first
        | assumption | apply ite_keeps | apply iteP_keeps | apply finishPublish_keeps
    | (intro _; intros) | split | refine fst_keeps (by with_reducible assumption) ?_

theorem resumeOne_keeps {s0 : State} (s : State) (w : Waiter) (ri : Nat) (off : Nat) (got : List Nat) (fs : List
    ReadFault) (acked : Bool) (hK : Keeps s0 s) : Keeps s0 (resumeOne s w ri off got fs acked) := by
  unfold resumeOne
  try dsimp only
  repeat' first
    | with_reducible first
        | assumption | apply ite_keeps | apply iteP_keeps | apply resumePacket_keeps | apply resumeHost_keeps
        | apply resumeLine_keeps | apply complete_keeps
    | (intro _; intros) | split | refine fst_keeps (by with_reducible assumption) ?_

theorem resumeAll_keeps {s0 : State} (x0 : Nat) (x1 : State) (hK : Keeps s0 x1) : Keeps s0 (resumeAll x0 x1) := by
  induction x0 generalizing x1
  case zero =>
    unfold resumeAll
    try dsimp only
    repeat' first
      | with_reducible first
          | assumption | apply onCoh_keeps | apply resumeOne_keeps
      | (intro _; intros) | split | refine fst_keeps (by with_reducible assumption) ?_
  case succ n ih =>
    unfold resumeAll
    try dsimp only
    repeat' first
      | with_reducible first
          | assumption | apply ih | apply onCoh_keeps | apply resumeOne_keeps
      | (intro _; intros) | split | refine fst_keeps (by with_reducible assumption) ?_

theorem settle_keeps {s0 : State} (s : State) (hK : Keeps s0 s) : Keeps s0 (settle s) := by
  unfold settle
  try dsimp only
  repeat' first
    | with_reducible first
        | assumption | apply pageOutsGo_keeps | apply resumeAll_keeps
    | (intro _; intros)

theorem landMirror_keeps {s0 : State} (s : State) (m : Mirror) (hK : Keeps s0 s) : Keeps s0 (landMirror s m) := by
  unfold landMirror
  try dsimp only
  repeat' first
    | with_reducible first
        | assumption | apply settle_keeps | apply bankKept_keeps | apply resumeOne_keeps
    | (intro _; intros) | split | refine fst_keeps (by with_reducible assumption) ?_ | with_reducible apply mk_keeps

theorem mirrorAcked_keeps {s0 : State} (s : State) (wid : Nat) (hK : Keeps s0 s) : Keeps s0 (mirrorAcked s wid) := by
  unfold mirrorAcked
  try dsimp only
  repeat' first
    | with_reducible first
        | assumption | apply ite_keeps | apply iteP_keeps | apply landMirror_keeps
    | (intro _; intros) | split | refine fst_keeps (by with_reducible assumption) ?_ | with_reducible apply mk_keeps

theorem partnerLineGot_keeps {s0 : State} (s : State) (line : Nat) (hK : Keeps s0 s) : Keeps s0 (partnerLineGot s
    line) := by
  unfold partnerLineGot
  try dsimp only
  repeat' first
    | with_reducible first
        | assumption | apply settle_keeps | apply onCoh_keeps
    | (intro _; intros)

theorem wantedPoison_keeps {s0 : State} (s : State) (line : Nat) (tag : Bool) (cause : Byte) (hK : Keeps s0 s) : Keeps
    s0 (wantedPoison s line tag cause) := by
  unfold wantedPoison
  try dsimp only
  repeat' first
    | with_reducible first
        | assumption | apply ite_keeps | apply iteP_keeps | apply partnerLine_keeps | apply ladderPoison_keeps
        | apply lostAccess_keeps | apply onStack_keeps
    | (intro _; intros) | split | refine fst_keeps (by with_reducible assumption) ?_

theorem partnerCopyLost_keeps {s0 : State} (s : State) (ri : Nat) (hK : Keeps s0 s) : Keeps s0 (partnerCopyLost s ri)
    := by
  unfold partnerCopyLost
  try dsimp only
  repeat' first
    | with_reducible first
        | assumption | apply ite_keeps | apply iteP_keeps | apply foldl_keeps | apply foldlP_keeps
        | apply onRegion_keeps | apply memPost_keeps | apply landMirror_keeps | apply partnerLineGot_keeps
        | apply wantedPoison_keeps
    | (intro _; intros) | split | refine fst_keeps (by with_reducible assumption) ?_

end Sys2Proof.Machine
end

