-- ==== Sys2Proof/Laws/KeepsMemCmds.lean ====
section
/-! SUPPORT. What the functions of MemCmds keep. -/

namespace Sys2Proof.Machine

theorem specCounterAlloc_keeps {s0 : State} (o : Origin) (d : Desc) (k : Pick) (s : State) (hK : Keeps s0 s) : Keeps
    s0 ((specCounterAlloc).eff o d k s) := by
  unfold specCounterAlloc
  try dsimp only
  repeat' first
    | with_reducible first
        | assumption | apply foldl_keeps | apply foldlP_keeps | apply complete_keeps | apply onCoh_keeps
    | (intro _; intros) | split | refine fst_keeps (by with_reducible assumption) ?_

theorem specCounterFree_keeps {s0 : State} (o : Origin) (d : Desc) (k : Pick) (s : State) (hK : Keeps s0 s) : Keeps s0
    ((specCounterFree).eff o d k s) := by
  unfold specCounterFree
  try dsimp only
  repeat' first
    | with_reducible first
        | assumption | apply foldl_keeps | apply foldlP_keeps | apply complete_keeps | apply onCoh_keeps
    | (intro _; intros)

theorem execCounterFree_keeps {s0 : State} (r : CmdRef) (d : Desc) (s : State) (hK : Keeps s0 s) : OutKeeps s0
    (execCounterFree r d s) := by
  unfold execCounterFree
  try dsimp only
  repeat' first
    | with_reducible first
        | assumption | apply OutKeeps.next | apply up_keeps | apply runRow_keeps | apply specCounterFree_keeps
    | (intro _; intros)

theorem specCounterSet_keeps {s0 : State} (o : Origin) (d : Desc) (k : Pick) (s : State) (hK : Keeps s0 s) : Keeps s0
    ((specCounterSet).eff o d k s) := by
  unfold specCounterSet
  try dsimp only
  repeat' first
    | with_reducible first
        | assumption | apply complete_keeps | apply onCoh_keeps
    | (intro _; intros)

theorem execCounterSet_keeps {s0 : State} (r : CmdRef) (d : Desc) (s : State) (hK : Keeps s0 s) : OutKeeps s0
    (execCounterSet r d s) := by
  unfold execCounterSet
  try dsimp only
  repeat' first
    | with_reducible first
        | assumption | apply OutKeeps.next | apply up_keeps | apply runRow_keeps | apply specCounterSet_keeps
    | (intro _; intros)

theorem specCounterQuery_keeps {s0 : State} (o : Origin) (d : Desc) (k : Pick) (s : State) (hK : Keeps s0 s) : Keeps
    s0 ((specCounterQuery).eff o d k s) := by
  unfold specCounterQuery
  try dsimp only
  repeat' first
    | with_reducible first
        | assumption | apply queryOut_keeps
    | (intro _; intros)

theorem execCounterQuery_keeps {s0 : State} (r : CmdRef) (d : Desc) (s : State) (hK : Keeps s0 s) : OutKeeps s0
    (execCounterQuery r d s) := by
  unfold execCounterQuery
  try dsimp only
  repeat' first
    | with_reducible first
        | assumption | apply OutKeeps.next | apply up_keeps | apply runRow_keeps | apply specCounterQuery_keeps
    | (intro _; intros)

theorem copyLine_keeps {s0 : State} (s : State) (dst : Nat) (doff : Nat) (res : LineRes) (hK : Keeps s0 s) : Keeps s0
    (copyLine s dst doff res) := by
  unfold copyLine
  try dsimp only
  repeat' first
    | with_reducible first
        | assumption | apply ite_keeps | apply iteP_keeps | apply lostAccess_keeps | apply storeLine_keeps
        | apply takeBack_keeps
    | (intro _; intros) | split | refine fst_keeps (by with_reducible assumption) ?_

theorem startPublish_keeps {s0 : State} (s : State) (o : Origin) (d : Desc) (hK : Keeps s0 s) : Keeps s0 (startPublish
    s o d) := by
  unfold startPublish
  try dsimp only
  repeat' first
    | with_reducible first
        | assumption | apply onCoh_keeps | apply onRegion_keeps
    | (intro _; intros)

theorem specCastPublish_keeps {s0 : State} (o : Origin) (d : Desc) (k : Pick) (s : State) (hK : Keeps s0 s) : Keeps s0
    ((specCastPublish).eff o d k s) := by
  unfold specCastPublish
  try dsimp only
  repeat' first
    | with_reducible first
        | assumption | apply startPublish_keeps
    | (intro _; intros)

theorem publishWaits_keeps {s0 : State} (s : State) (ri : Nat) (hK : Keeps s0 s) : Keeps s0 (publishWaits s ri) := by
  unfold publishWaits
  try dsimp only
  repeat' first
    | with_reducible first
        | assumption | apply onCoh_keeps
    | (intro _; intros)

theorem execCounterAlloc_keeps {s0 : State} (r : CmdRef) (d : Desc) (s : State) (hK : Keeps s0 s) : OutKeeps s0
    (execCounterAlloc r d s) := by
  unfold execCounterAlloc
  try dsimp only
  repeat' first
    | with_reducible first
        | assumption | apply OutKeeps.next | apply up_keeps | apply runRow_keeps | apply specCounterAlloc_keeps
    | (intro _; intros)

theorem endPublish_keeps {s0 : State} (s : State) (p : Publish) (r : Region) (res : List (Nat × LineRes)) (hK : Keeps
    s0 s) : Keeps s0 (endPublish s p r res) := by
  unfold endPublish
  try dsimp only
  repeat' first
    | with_reducible first
        | assumption | apply ite_keeps | apply iteP_keeps | apply foldl_keeps | apply foldlP_keeps
        | apply copyLine_keeps | apply partnerKeep_keeps | apply finishPublish_keeps
    | (intro _; intros) | split | refine fst_keeps (by with_reducible assumption) ?_

theorem execCastPublish_keeps {s0 : State} (r : CmdRef) (d : Desc) (s : State) (hK : Keeps s0 s) : OutKeeps s0
    (execCastPublish r d s) := by
  unfold execCastPublish
  try dsimp only
  repeat' first
    | with_reducible first
        | assumption | apply OutKeeps.next | apply up_keeps | apply runRow_keeps | apply specCastPublish_keeps
    | (intro _; intros)

theorem sourceRead_keeps {s0 : State} (s : State) (ri : Nat) (q : Region) (fs : List ReadFault) (got : List Nat) (hK :
    Keeps s0 s) : Keeps s0 (sourceRead s ri q fs got).1 := by
  unfold sourceRead
  try dsimp only
  repeat' first
    | with_reducible first
        | assumption | apply ite_keeps | apply iteP_keeps | apply foldl_keeps | apply foldlP_keeps
        | apply readLine_keeps
    | (intro _; intros) | split | refine fst_keeps (by with_reducible assumption) ?_

theorem execCastCopyDone_keeps {s0 : State} (region : BitVec 16) (t : Time) (faults : List ReadFault) (s : State) (hK
    : Keeps s0 s) : OutKeeps s0 (execCastCopyDone region t faults s) := by
  unfold execCastCopyDone
  try dsimp only
  repeat' first
    | with_reducible first
        | assumption | apply ite_outKeeps | apply ite_keeps | apply iteP_keeps | apply OutKeeps.next
        | apply foldl_keeps | apply foldlP_keeps | apply up_keeps | apply at__keeps | apply complete_keeps
        | apply onCoh_keeps | apply publishWaits_keeps | apply snoop_keeps | apply sourceRead_keeps
        | apply awaitPartner_keeps | apply partnerReadReq_keeps | apply endPublish_keeps
    | split | (intro _; intros) | split | refine fst_keeps (by with_reducible assumption) ?_

end Sys2Proof.Machine
end

