-- ==== Sys2Proof/Laws/KeepsHostIf.lean ====
section
/-! SUPPORT. What the functions of HostIf keep. -/

namespace Sys2Proof.Machine

theorem resetRings_keeps {s0 : State} (s : State) (p : Nat) (hK : Keeps s0 s) : Keeps s0 (resetRings s p) := by
  unfold resetRings
  try dsimp only
  repeat' first
    | with_reducible first
        | assumption | apply foldl_keeps | apply foldlP_keeps | apply onHp_keeps | apply putRingLine_keeps
    | (intro _; intros)

theorem postFault_keeps {s0 : State} (s : State) (p : Nat) (r : List Byte) (hK : Keeps s0 s) : Keeps s0 (postFault s p
    r) := by
  unfold postFault
  try dsimp only
  repeat' first
    | with_reducible first
        | assumption | apply ite_keeps | apply iteP_keeps | apply faultMarker_keeps | apply writeFault_keeps
        | apply loseFault_keeps
    | (intro _; intros) | split | refine fst_keeps (by with_reducible assumption) ?_

theorem setRing_keeps {s0 : State} (s : State) (p : Nat) (n : Nat) (r : Ring) (hK : Keeps s0 s) : Keeps s0 (setRing s
    p n r) := by
  unfold setRing
  try dsimp only
  repeat' first
    | with_reducible first
        | assumption | apply onHp_keeps
    | (intro _; intros)

theorem takeCommand_keeps {s0 : State} (s : State) (p : Fin 2) (defined : Nat → Bool) (hK : Keeps s0 s) : Keeps s0
    (takeCommand s p defined) := by
  unfold takeCommand
  try dsimp only
  repeat' first
    | with_reducible first
        | assumption | apply ite_keeps | apply iteP_keeps | apply prepare_keeps | apply onRgn_keeps
        | apply setRing_keeps | apply onHp_keeps | apply putRingLine_keeps | apply traceCommand_keeps
        | apply complete_keeps
    | (intro _; intros) | split | refine fst_keeps (by with_reducible assumption) ?_

theorem orphanAll_keeps {s0 : State} (s : State) (p : Nat) (hK : Keeps s0 s) : Keeps s0 (orphanAll s p) := by
  unfold orphanAll
  try dsimp only
  repeat' first
    | with_reducible first
        | assumption | apply onHp_keeps
    | (intro _; intros)

theorem stopLive_keeps {s0 : State} (s : State) (p : Nat) (st : HostSt) (t0 : Time) (cause : Byte) (hK : Keeps s0 s) :
    Keeps s0 (stopLive s p st t0 cause) := by
  unfold stopLive
  try dsimp only
  repeat' first
    | with_reducible first
        | assumption | apply ite_keeps | apply iteP_keeps | apply onSec_keeps | apply onHp_keeps
    | exact fun h => h | exact fun h => Mem.writeN_wf _ _ _ h | exact fun h => Mem.zero_wf _ _ _ h
    | exact fun h => Mem.foldWrite_wf _ (fun p _ hp => Mem.write_wf p.1 _ _ hp) _ _ h | (intro _; intros) | split
    | refine fst_keeps (by with_reducible assumption) ?_

theorem detachHost_keeps {s0 : State} (s : State) (p : Nat) (hK : Keeps s0 s) : Keeps s0 (detachHost s p) := by
  unfold detachHost
  try dsimp only
  repeat' first
    | with_reducible first
        | assumption | apply ite_keeps | apply iteP_keeps | apply orphanAll_keeps | apply stopLive_keeps
    | (intro _; intros) | split | refine fst_keeps (by with_reducible assumption) ?_

theorem execMemrd_keeps {s0 : State} (port : Fin 2) (addr : BitVec 64) (mv : HostMeta) (faults : List ReadFault) (s :
    State) (hK : Keeps s0 s) : OutKeeps s0 (execMemrd port addr mv faults s) := by
  unfold execMemrd
  try dsimp only
  repeat' first
    | with_reducible first
        | assumption | apply OutKeeps.next | apply up_keeps | apply serveHost_keeps
    | (intro _; intros)

theorem throughPort_keeps {s0 : State} (s : State) (p : Fin 2) (k : State → State) (h_k : ∀ y0, Keeps s0 y0 → Keeps s0
    (k y0)) (hK : Keeps s0 s) : Keeps s0 (throughPort s p k) := by
  unfold throughPort
  try dsimp only
  repeat' first
    | with_reducible first
        | assumption | apply h_k | apply ite_keeps | apply iteP_keeps | apply emit_keeps
    | (intro _; intros) | split | refine fst_keeps (by with_reducible assumption) ?_

theorem mailbox_keeps {s0 : State} (s : State) (p : Fin 2) (op : BitVec 16) (ok : Bool) (data : List Byte) (hK : Keeps
    s0 s) : Keeps s0 (mailbox s p op ok data) := by
  unfold mailbox
  try dsimp only
  repeat' first
    | with_reducible first
        | assumption | apply throughPort_keeps | apply emit_keeps
    | (intro _; intros)

theorem execIdentifyMemoryDevice_keeps {s0 : State} (port : Fin 2) (s : State) (hK : Keeps s0 s) : OutKeeps s0
    (execIdentifyMemoryDevice port s) := by
  unfold execIdentifyMemoryDevice
  try dsimp only
  repeat' first
    | with_reducible first
        | assumption | apply OutKeeps.next | apply up_keeps | apply mailbox_keeps
    | (intro _; intros)

theorem becomeLive_keeps {s0 : State} (s : State) (p : Nat) (hK : Keeps s0 s) : Keeps s0 (becomeLive s p) := by
  unfold becomeLive
  try dsimp only
  repeat' first
    | with_reducible first
        | assumption | apply onHp_keeps | apply eventMarker_keeps | apply faultMarker_keeps | apply drainEvents_keeps
    | (intro _; intros)

theorem beatHost_keeps {s0 : State} (s : State) (p : Nat) (hK : Keeps s0 s) : Keeps s0 (beatHost s p) := by
  unfold beatHost
  try dsimp only
  repeat' first
    | with_reducible first
        | assumption | apply ite_keeps | apply iteP_keeps | apply becomeLive_keeps
    | (intro _; intros) | split | refine fst_keeps (by with_reducible assumption) ?_

theorem execClearEventRecords_keeps {s0 : State} (port : Fin 2) (s : State) (hK : Keeps s0 s) : OutKeeps s0
    (execClearEventRecords port s) := by
  unfold execClearEventRecords
  try dsimp only
  repeat' first
    | with_reducible first
        | assumption | apply OutKeeps.next | apply up_keeps | apply mailbox_keeps | apply throughPort_keeps
        | apply onHp_keeps
    | (intro _; intros)

theorem faultConsWrite_keeps {s0 : State} (s : State) (p : Nat) (v : BitVec 32) (hK : Keeps s0 s) : Keeps s0
    (faultConsWrite s p v) := by
  unfold faultConsWrite
  try dsimp only
  repeat' first
    | with_reducible first
        | assumption | apply ite_keeps | apply iteP_keeps | apply onHp_keeps | apply becomeLive_keeps
        | apply faultMarker_keeps
    | (intro _; intros) | split | refine fst_keeps (by with_reducible assumption) ?_

theorem execHifFaultCons_keeps {s0 : State} (port : Fin 2) (index : BitVec 32) (s : State) (hK : Keeps s0 s) :
    OutKeeps s0 (execHifFaultCons port index s) := by
  unfold execHifFaultCons
  try dsimp only
  repeat' first
    | with_reducible first
        | assumption | apply OutKeeps.next | apply up_keeps | apply throughPort_keeps | apply faultConsWrite_keeps
    | (intro _; intros)

theorem execGetHealthInfo_keeps {s0 : State} (port : Fin 2) (s : State) (hK : Keeps s0 s) : OutKeeps s0
    (execGetHealthInfo port s) := by
  unfold execGetHealthInfo
  try dsimp only
  repeat' first
    | with_reducible first
        | assumption | apply OutKeeps.next | apply up_keeps | apply mailbox_keeps
    | (intro _; intros)

theorem execNoHostLive_keeps {s0 : State} (port : Fin 2) (t : Time) (s : State) (hK : Keeps s0 s) : OutKeeps s0
    (execNoHostLive port t s) := by
  unfold execNoHostLive
  try dsimp only
  repeat' first
    | with_reducible first
        | assumption | apply ite_outKeeps | apply ite_keeps | apply iteP_keeps | apply OutKeeps.next
        | apply foldl_keeps | apply foldlP_keeps | apply up_keeps | apply at__keeps | apply onHp_keeps
        | apply faultMarker_keeps | apply loseFault_keeps | apply onRgn_keeps | apply lineDone_keeps
        | apply refuse_keeps
    | (intro _; intros) | split | refine fst_keeps (by with_reducible assumption) ?_

theorem retryParked_keeps {s0 : State} (s : State) (p : Nat) (q : Parked) (hK : Keeps s0 s) : Keeps s0 (retryParked s
    p q) := by
  unfold retryParked
  try dsimp only
  repeat' first
    | with_reducible first
        | assumption | apply ite_keeps | apply iteP_keeps | apply onRgn_keeps | apply retryLine_keeps
        | apply refuse_keeps | apply missAgain_keeps | apply retryPacket_keeps
    | (intro _; intros) | split | refine fst_keeps (by with_reducible assumption) ?_

theorem retryAll_keeps {s0 : State} (s : State) (p : Nat) (l : List Parked) (hK : Keeps s0 s) : Keeps s0 (retryAll s p
    l) := by
  unfold retryAll
  try dsimp only
  repeat' first
    | with_reducible first
        | assumption | apply ite_keeps | apply iteP_keeps | apply foldl_keeps | apply foldlP_keeps
        | apply retryParked_keeps
    | (intro _; intros) | split | refine fst_keeps (by with_reducible assumption) ?_

theorem moveTenants_keeps {s0 : State} (s : State) (src : Nat) (dst : Nat) (ts : List Nat) (tag : Tag) (cause : Byte)
    (stop : Nat) (hK : Keeps s0 s) : Keeps s0 (moveTenants s src dst ts tag cause stop) := by
  unfold moveTenants
  try dsimp only
  repeat' first
    | with_reducible first
        | assumption | apply ite_keeps | apply iteP_keeps | apply foldl_keeps | apply foldlP_keeps | apply onRgn_keeps
        | apply postFault_keeps | apply postEvent_keeps | apply onHp_keeps | apply retryAll_keeps
    | (intro _; intros) | split | refine fst_keeps (by with_reducible assumption) ?_

theorem execOwnershipMove_keeps {s0 : State} (src : Fin 2) (t : Time) (s : State) (hK : Keeps s0 s) : OutKeeps s0
    (execOwnershipMove src t s) := by
  unfold execOwnershipMove
  try dsimp only
  repeat' first
    | with_reducible first
        | assumption | apply ite_outKeeps | apply ite_keeps | apply iteP_keeps | apply OutKeeps.next | apply up_keeps
        | apply at__keeps | apply moveTenants_keeps
    | (intro _; intros) | split | refine fst_keeps (by with_reducible assumption) ?_

theorem cplCons_keeps {s0 : State} (s : State) (p : Nat) (n : Nat) (v : BitVec 32) (hK : Keeps s0 s) : Keeps s0
    (cplCons s p n v) := by
  unfold cplCons
  try dsimp only
  repeat' first
    | with_reducible first
        | assumption | apply ite_keeps | apply iteP_keeps | apply setRing_keeps
    | (intro _; intros) | split | refine fst_keeps (by with_reducible assumption) ?_

theorem execMailboxUnsupported_keeps {s0 : State} (port : Fin 2) (opcode : BitVec 16) (s : State) (hK : Keeps s0 s) :
    OutKeeps s0 (execMailboxUnsupported port opcode s) := by
  unfold execMailboxUnsupported
  try dsimp only
  repeat' first
    | with_reducible first
        | assumption | apply OutKeeps.next | apply up_keeps | apply mailbox_keeps
    | (intro _; intros)

theorem execHeartbeat_keeps {s0 : State} (port : Fin 2) (s : State) (hK : Keeps s0 s) : OutKeeps s0 (execHeartbeat
    port s) := by
  unfold execHeartbeat
  try dsimp only
  repeat' first
    | with_reducible first
        | assumption | apply OutKeeps.next | apply up_keeps | apply throughPort_keeps | apply beatHost_keeps
    | (intro _; intros)

theorem memberLost_keeps {s0 : State} (s : State) (x : Fin 34) (cause : Byte) (hK : Keeps s0 s) : Keeps s0 (memberLost
    s x cause) := by
  unfold memberLost
  try dsimp only
  repeat' first
    | with_reducible first
        | assumption | apply ite_keeps | apply iteP_keeps | apply foldl_keeps | apply foldlP_keeps
        | apply partnerLine_keeps | apply storeLine_keeps | apply poisonEvent_keeps | apply onCoh_keeps
        | apply settle_keeps | apply dirRemove_keeps
    | (intro _; intros) | split | refine fst_keeps (by with_reducible assumption) ?_

theorem hostGone_keeps {s0 : State} (s : State) (p : Fin 2) (hK : Keeps s0 s) : Keeps s0 (hostGone s p) := by
  unfold hostGone
  try dsimp only
  repeat' first
    | with_reducible first
        | assumption | apply ite_keeps | apply iteP_keeps | apply onCoh_keeps | apply memberLost_keeps
        | apply orphanAll_keeps | apply stopLive_keeps
    | (intro _; intros) | split | refine fst_keeps (by with_reducible assumption) ?_

theorem execHostLost_keeps {s0 : State} (port : Fin 2) (s : State) (hK : Keeps s0 s) : OutKeeps s0 (execHostLost port
    s) := by
  unfold execHostLost
  try dsimp only
  repeat' first
    | with_reducible first
        | assumption | apply OutKeeps.next | apply up_keeps | apply hostGone_keeps | apply onHp_keeps
    | (intro _; intros)

theorem cmdProd_keeps {s0 : State} (s : State) (p : Nat) (n : Nat) (v : BitVec 32) (hK : Keeps s0 s) : Keeps s0
    (cmdProd s p n v) := by
  unfold cmdProd
  try dsimp only
  repeat' first
    | with_reducible first
        | assumption | apply ite_keeps | apply iteP_keeps | apply setRing_keeps
    | (intro _; intros) | split | refine fst_keeps (by with_reducible assumption) ?_

theorem execHifCmdProd_keeps {s0 : State} (port : Fin 2) (ring : Fin 62) (index : BitVec 32) (s : State) (hK : Keeps
    s0 s) : OutKeeps s0 (execHifCmdProd port ring index s) := by
  unfold execHifCmdProd
  try dsimp only
  repeat' first
    | with_reducible first
        | assumption | apply OutKeeps.next | apply up_keeps | apply throughPort_keeps | apply cmdProd_keeps
    | (intro _; intros)

theorem specNop_keeps {s0 : State} (o : Origin) (d : Desc) (k : Pick) (s : State) (hK : Keeps s0 s) : Keeps s0
    ((specNop).eff o d k s) := by
  unfold specNop
  try dsimp only
  repeat' first
    | with_reducible first
        | assumption | apply complete_keeps
    | (intro _; intros)

theorem execNop_keeps {s0 : State} (r : CmdRef) (d : Desc) (s : State) (hK : Keeps s0 s) : OutKeeps s0 (execNop r d s)
    := by
  unfold execNop
  try dsimp only
  repeat' first
    | with_reducible first
        | assumption | apply OutKeeps.next | apply up_keeps | apply runRow_keeps | apply specNop_keeps
    | (intro _; intros)

theorem eventConsWrite_keeps {s0 : State} (s : State) (p : Nat) (v : BitVec 32) (hK : Keeps s0 s) : Keeps s0
    (eventConsWrite s p v) := by
  unfold eventConsWrite
  try dsimp only
  repeat' first
    | with_reducible first
        | assumption | apply ite_keeps | apply iteP_keeps | apply eventMarker_keeps | apply onHp_keeps
        | apply drainEvents_keeps
    | (intro _; intros) | split | refine fst_keeps (by with_reducible assumption) ?_

theorem execHifEventCons_keeps {s0 : State} (port : Fin 2) (index : BitVec 32) (s : State) (hK : Keeps s0 s) :
    OutKeeps s0 (execHifEventCons port index s) := by
  unfold execHifEventCons
  try dsimp only
  repeat' first
    | with_reducible first
        | assumption | apply OutKeeps.next | apply up_keeps | apply throughPort_keeps | apply eventConsWrite_keeps
    | (intro _; intros)

theorem onIde_keeps {s0 : State} (s : State) (p : Nat) (x : IdeStream) (f : IdeSt → IdeSt) (hK : Keeps s0 s) : Keeps
    s0 (onIde s p x f) := by
  unfold onIde
  try dsimp only
  repeat' first
    | with_reducible first
        | assumption | apply onHp_keeps
    | (intro _; intros)

theorem specTenantSetOwner_keeps {s0 : State} (o : Origin) (d : Desc) (k : Pick) (s : State) (hK : Keeps s0 s) : Keeps
    s0 ((specTenantSetOwner).eff o d k s) := by
  unfold specTenantSetOwner
  try dsimp only
  repeat' first
    | with_reducible first
        | assumption | apply complete_keeps | apply moveTenants_keeps
    | (intro _; intros)

theorem execTenantSetOwner_keeps {s0 : State} (r : CmdRef) (d : Desc) (s : State) (hK : Keeps s0 s) : OutKeeps s0
    (execTenantSetOwner r d s) := by
  unfold execTenantSetOwner
  try dsimp only
  repeat' first
    | with_reducible first
        | assumption | apply OutKeeps.next | apply up_keeps | apply runRow_keeps | apply specTenantSetOwner_keeps
    | (intro _; intros)

theorem execHostLinkUp_keeps {s0 : State} (port : Fin 2) (gts : Nat) (width : Nat) (flit256 : Bool) (bme : Bool) (bi :
    Bool) (s : State) (hK : Keeps s0 s) : OutKeeps s0 (execHostLinkUp port gts width flit256 bme bi s) := by
  unfold execHostLinkUp
  try dsimp only
  repeat' first
    | with_reducible first
        | assumption | apply ite_outKeeps | apply ite_keeps | apply iteP_keeps | apply OutKeeps.next | apply up_keeps
        | apply onHp_keeps | apply emit_keeps
    | (intro _; intros) | split | refine fst_keeps (by with_reducible assumption) ?_

theorem mergeBack_keeps {s0 : State} (s : State) (h : LineHome) (mask : Nat) (data : List Byte) (hK : Keeps s0 s) :
    Keeps s0 (mergeBack s h mask data) := by
  unfold mergeBack
  try dsimp only
  repeat' first
    | with_reducible first
        | assumption | apply ite_keeps | apply iteP_keeps | apply partnerLine_keeps | apply landLine_keeps
    | (intro _; intros) | split | refine fst_keeps (by with_reducible assumption) ?_

theorem snoopDone_keeps {s0 : State} (s : State) (line : Nat) (x : Fin 34) (mask : Nat) (data : List Byte) (hK : Keeps
    s0 s) : Keeps s0 (snoopDone s line x mask data) := by
  unfold snoopDone
  try dsimp only
  repeat' first
    | with_reducible first
        | assumption | apply ite_keeps | apply iteP_keeps | apply onCoh_keeps | apply mergeBack_keeps
        | apply settle_keeps | apply dirRemove_keeps
    | (intro _; intros) | split | refine fst_keeps (by with_reducible assumption) ?_

theorem execGetSupportedLogs_keeps {s0 : State} (port : Fin 2) (s : State) (hK : Keeps s0 s) : OutKeeps s0
    (execGetSupportedLogs port s) := by
  unfold execGetSupportedLogs
  try dsimp only
  repeat' first
    | with_reducible first
        | assumption | apply OutKeeps.next | apply up_keeps | apply mailbox_keeps
    | (intro _; intros)

theorem execMsiXHoldoff_keeps {s0 : State} (port : Fin 2) (vector : Fin 64) (t : Time) (s : State) (hK : Keeps s0 s) :
    OutKeeps s0 (execMsiXHoldoff port vector t s) := by
  unfold execMsiXHoldoff
  try dsimp only
  repeat' first
    | with_reducible first
        | assumption | apply ite_outKeeps | apply ite_keeps | apply iteP_keeps | apply OutKeeps.next | apply up_keeps
        | apply at__keeps | apply msix_keeps
    | (intro _; intros) | split | refine fst_keeps (by with_reducible assumption) ?_

theorem execBisnpResponse_keeps {s0 : State} (port : Fin 2) (line : Nat) (data : Option (List Byte)) (s : State) (hK :
    Keeps s0 s) : OutKeeps s0 (execBisnpResponse port line data s) := by
  unfold execBisnpResponse
  try dsimp only
  repeat' first
    | with_reducible first
        | assumption | apply ite_outKeeps | apply ite_keeps | apply iteP_keeps | apply OutKeeps.next | apply up_keeps
        | apply snoopDone_keeps
    | split | (intro _; intros) | split | refine fst_keeps (by with_reducible assumption) ?_

theorem execIdeCheckFailed_keeps {s0 : State} (port : Fin 2) (stream : IdeStream) (s : State) (hK : Keeps s0 s) :
    OutKeeps s0 (execIdeCheckFailed port stream s) := by
  unfold execIdeCheckFailed
  try dsimp only
  repeat' first
    | with_reducible first
        | assumption | apply OutKeeps.next | apply up_keeps | apply onHp_keeps | apply onIde_keeps
    | (intro _; intros)

theorem specRingBind_keeps {s0 : State} (o : Origin) (d : Desc) (k : Pick) (s : State) (hK : Keeps s0 s) : Keeps s0
    ((specRingBind).eff o d k s) := by
  unfold specRingBind
  try dsimp only
  repeat' first
    | with_reducible first
        | assumption | apply ite_keeps | apply iteP_keeps | apply setRing_keeps | apply complete_keeps
        | apply putRingLine_keeps
    | (intro _; intros) | split | refine fst_keeps (by with_reducible assumption) ?_

theorem execRingBind_keeps {s0 : State} (r : CmdRef) (d : Desc) (s : State) (hK : Keeps s0 s) : OutKeeps s0
    (execRingBind r d s) := by
  unfold execRingBind
  try dsimp only
  repeat' first
    | with_reducible first
        | assumption | apply OutKeeps.next | apply up_keeps | apply runRow_keeps | apply specRingBind_keeps
    | (intro _; intros)

theorem execHifCplCons_keeps {s0 : State} (port : Fin 2) (ring : Fin 62) (index : BitVec 32) (s : State) (hK : Keeps
    s0 s) : OutKeeps s0 (execHifCplCons port ring index s) := by
  unfold execHifCplCons
  try dsimp only
  repeat' first
    | with_reducible first
        | assumption | apply OutKeeps.next | apply up_keeps | apply throughPort_keeps | apply cplCons_keeps
    | (intro _; intros)

theorem execGetEventRecords_keeps {s0 : State} (port : Fin 2) (s : State) (hK : Keeps s0 s) : OutKeeps s0
    (execGetEventRecords port s) := by
  unfold execGetEventRecords
  try dsimp only
  repeat' first
    | with_reducible first
        | assumption | apply OutKeeps.next | apply up_keeps | apply mailbox_keeps
    | (intro _; intros)

theorem openSpdm_keeps {s0 : State} (s : State) (p : Nat) (hK : Keeps s0 s) : Keeps s0 (openSpdm s p) := by
  unfold openSpdm
  try dsimp only
  repeat' first
    | with_reducible first
        | assumption | apply ite_keeps | apply iteP_keeps | apply onHp_keeps | apply onSec_keeps
    | exact fun h => h | exact fun h => Mem.writeN_wf _ _ _ h | exact fun h => Mem.zero_wf _ _ _ h
    | exact fun h => Mem.foldWrite_wf _ (fun p _ hp => Mem.write_wf p.1 _ _ hp) _ _ h | (intro _; intros) | split
    | refine fst_keeps (by with_reducible assumption) ?_

theorem execIdeKmKeyProg_keeps {s0 : State} (port : Fin 2) (stream : IdeStream) (set : Fin 2) (key : BitVec 256) (s :
    State) (hK : Keeps s0 s) : OutKeeps s0 (execIdeKmKeyProg port stream set key s) := by
  unfold execIdeKmKeyProg
  try dsimp only
  repeat' first
    | with_reducible first
        | assumption | apply ite_outKeeps | apply ite_keeps | apply iteP_keeps | apply OutKeeps.next | apply up_keeps
        | apply openSpdm_keeps | apply onIde_keeps
    | (intro _; intros) | split | refine fst_keeps (by with_reducible assumption) ?_

theorem attachHost_keeps {s0 : State} (s : State) (p : Nat) (hK : Keeps s0 s) : Keeps s0 (attachHost s p) := by
  unfold attachHost
  try dsimp only
  repeat' first
    | with_reducible first
        | assumption | apply ite_keeps | apply iteP_keeps | apply becomeLive_keeps | apply onHp_keeps
        | apply resetRings_keeps
    | (intro _; intros) | split | refine fst_keeps (by with_reducible assumption) ?_

theorem execAttach_keeps {s0 : State} (port : Fin 2) (s : State) (hK : Keeps s0 s) : OutKeeps s0 (execAttach port s)
    := by
  unfold execAttach
  try dsimp only
  repeat' first
    | with_reducible first
        | assumption | apply OutKeeps.next | apply up_keeps | apply throughPort_keeps | apply attachHost_keeps
    | (intro _; intros)

theorem execBisnpTimeout_keeps {s0 : State} (port : Fin 2) (line : Nat) (t : Time) (s : State) (hK : Keeps s0 s) :
    OutKeeps s0 (execBisnpTimeout port line t s) := by
  unfold execBisnpTimeout
  try dsimp only
  repeat' first
    | with_reducible first
        | assumption | apply ite_outKeeps | apply ite_keeps | apply iteP_keeps | apply OutKeeps.next | apply up_keeps
        | apply at__keeps | apply hostGone_keeps
    | split | (intro _; intros) | split | refine fst_keeps (by with_reducible assumption) ?_

theorem execHostSilent_keeps {s0 : State} (port : Fin 2) (t : Time) (s : State) (hK : Keeps s0 s) : OutKeeps s0
    (execHostSilent port t s) := by
  unfold execHostSilent
  try dsimp only
  repeat' first
    | with_reducible first
        | assumption | apply ite_outKeeps | apply ite_keeps | apply iteP_keeps | apply OutKeeps.next | apply up_keeps
        | apply at__keeps | apply stopLive_keeps
    | (intro _; intros) | split | refine fst_keeps (by with_reducible assumption) ?_

theorem execDetach_keeps {s0 : State} (port : Fin 2) (s : State) (hK : Keeps s0 s) : OutKeeps s0 (execDetach port s)
    := by
  unfold execDetach
  try dsimp only
  repeat' first
    | with_reducible first
        | assumption | apply OutKeeps.next | apply up_keeps | apply throughPort_keeps | apply detachHost_keeps
    | (intro _; intros)

theorem execMemwrptl_keeps {s0 : State} (port : Fin 2) (addr : BitVec 64) (mask : BitVec 64) (data : List Byte) (s :
    State) (hK : Keeps s0 s) : OutKeeps s0 (execMemwrptl port addr mask data s) := by
  unfold execMemwrptl
  try dsimp only
  repeat' first
    | with_reducible first
        | assumption | apply OutKeeps.next | apply up_keeps | apply settle_keeps | apply serveHost_keeps
    | (intro _; intros)

theorem execHdmDecoderCommit_keeps {s0 : State} (port : Fin 2) (decoder : Fin 8) (base : BitVec 64) (size : Nat) (ways
    : Nat) (s : State) (hK : Keeps s0 s) : OutKeeps s0 (execHdmDecoderCommit port decoder base size ways s) := by
  unfold execHdmDecoderCommit
  try dsimp only
  repeat' first
    | with_reducible first
        | assumption | apply ite_outKeeps | apply ite_keeps | apply iteP_keeps | apply OutKeeps.next | apply up_keeps
        | apply throughPort_keeps | apply onHp_keeps
    | (intro _; intros) | split | refine fst_keeps (by with_reducible assumption) ?_

theorem execMemwr_keeps {s0 : State} (port : Fin 2) (addr : BitVec 64) (data : List Byte) (s : State) (hK : Keeps s0
    s) : OutKeeps s0 (execMemwr port addr data s) := by
  unfold execMemwr
  try dsimp only
  repeat' first
    | with_reducible first
        | assumption | apply OutKeeps.next | apply up_keeps | apply settle_keeps | apply serveHost_keeps
    | (intro _; intros)

theorem execKSetGo_keeps {s0 : State} (port : Fin 2) (stream : IdeStream) (s : State) (hK : Keeps s0 s) : OutKeeps s0
    (execKSetGo port stream s) := by
  unfold execKSetGo
  try dsimp only
  repeat' first
    | with_reducible first
        | assumption | apply ite_outKeeps | apply ite_keeps | apply iteP_keeps | apply OutKeeps.next | apply up_keeps
        | apply onIde_keeps
    | (intro _; intros) | split | refine fst_keeps (by with_reducible assumption) ?_

theorem execParkedRetry_keeps {s0 : State} (port : Fin 2) (s : State) (hK : Keeps s0 s) : OutKeeps s0 (execParkedRetry
    port s) := by
  unfold execParkedRetry
  try dsimp only
  repeat' first
    | with_reducible first
        | assumption | apply ite_outKeeps | apply ite_keeps | apply iteP_keeps | apply OutKeeps.next | apply up_keeps
        | apply retryAll_keeps | apply faultMarker_keeps
    | (intro _; intros) | split | refine fst_keeps (by with_reducible assumption) ?_

theorem execGetLog_keeps {s0 : State} (port : Fin 2) (s : State) (hK : Keeps s0 s) : OutKeeps s0 (execGetLog port s)
    := by
  unfold execGetLog
  try dsimp only
  repeat' first
    | with_reducible first
        | assumption | apply OutKeeps.next | apply up_keeps | apply mailbox_keeps
    | (intro _; intros)

theorem execHostLinkDown_keeps {s0 : State} (port : Fin 2) (s : State) (hK : Keeps s0 s) : OutKeeps s0
    (execHostLinkDown port s) := by
  unfold execHostLinkDown
  try dsimp only
  repeat' first
    | with_reducible first
        | assumption | apply OutKeeps.next | apply up_keeps | apply hostGone_keeps | apply onHp_keeps
    | (intro _; intros)

end Sys2Proof.Machine
end

