-- ==== Sys2Proof/Laws/KeepsIntegrity.lean ====
section
/-! SUPPORT. What the functions of Integrity keep. -/

namespace Sys2Proof.Machine

theorem partnerDataGot_keeps {s0 : State} (s : State) (line : Nat) (payload : List Byte) (hK : Keeps s0 s) : Keeps s0
    (partnerDataGot s line payload) := by
  unfold partnerDataGot
  try dsimp only
  repeat' first
    | with_reducible first
        | assumption | apply ite_keeps | apply iteP_keeps | apply partnerLineGot_keeps | apply wantedPoison_keeps
        | apply setLine_keeps | apply writeBackDue_keeps
    | (intro _; intros) | split | refine fst_keeps (by with_reducible assumption) ?_

theorem answerMgmt_keeps {s0 : State} (s : State) (a : Arrival) (payload : List Byte) (hK : Keeps s0 s) : Keeps s0
    (answerMgmt s a payload) := by
  unfold answerMgmt
  try dsimp only
  repeat' first
    | with_reducible first
        | assumption | apply finishReq_keeps
    | (intro _; intros)

theorem partnerReadZs_keeps {s0 : State} (s : State) (a : Arrival) (fs : List ReadFault) (hK : Keeps s0 s) : Keeps s0
    (partnerReadZs s a fs) := by
  unfold partnerReadZs
  try dsimp only
  repeat' first
    | with_reducible first
        | assumption | apply ite_keeps | apply iteP_keeps | apply refuse_keeps | apply notePieces_keeps
        | apply answerMgmt_keeps
    | (intro _; intros) | split | refine fst_keeps (by with_reducible assumption) ?_

theorem execStackLost_keeps {s0 : State} (stack : Fin 16) (s : State) (hK : Keeps s0 s) : OutKeeps s0 (execStackLost
    stack s) := by
  unfold execStackLost
  try dsimp only
  repeat' first
    | with_reducible first
        | assumption | apply ite_outKeeps | apply ite_keeps | apply iteP_keeps | apply OutKeeps.next | apply up_keeps
        | apply declareStackLost_keeps
    | (intro _; intros) | split | refine fst_keeps (by with_reducible assumption) ?_

theorem rewriteProt_keeps {s0 : State} (s : State) (h : LineHome) (hK : Keeps s0 s) : Keeps s0 (rewriteProt s h) := by
  unfold rewriteProt
  try dsimp only
  repeat' first
    | with_reducible first
        | assumption | apply ite_keeps | apply iteP_keeps | apply foldl_keeps | apply foldlP_keeps
        | apply setLine_keeps
    | (intro _; intros) | split | refine fst_keeps (by with_reducible assumption) ?_

theorem specPartnerRelease_keeps {s0 : State} (o : Origin) (d : Desc) (k : Pick) (s : State) (hK : Keeps s0 s) : Keeps
    s0 ((specPartnerRelease).eff o d k s) := by
  unfold specPartnerRelease
  try dsimp only
  repeat' first
    | with_reducible first
        | assumption | apply complete_keeps | apply onPool_keeps | apply scrubSpans_keeps
    | exact fun h => h | exact fun h => Mem.writeN_wf _ _ _ h | exact fun h => Mem.zero_wf _ _ _ h
    | exact fun h => Mem.foldWrite_wf _ (fun p _ hp => Mem.write_wf p.1 _ _ hp) _ _ h | (intro _; intros) | split
    | refine fst_keeps (by with_reducible assumption) ?_

theorem execPartnerRelease_keeps {s0 : State} (r : CmdRef) (d : Desc) (s : State) (hK : Keeps s0 s) : OutKeeps s0
    (execPartnerRelease r d s) := by
  unfold execPartnerRelease
  try dsimp only
  repeat' first
    | with_reducible first
        | assumption | apply OutKeeps.next | apply up_keeps | apply runRow_keeps | apply specPartnerRelease_keeps
    | (intro _; intros)

theorem setBook_keeps {s0 : State} (s : State) (ri : Nat) (b : RebuildBook) (hK : Keeps s0 s) : Keeps s0 (setBook s ri
    b) := by
  unfold setBook
  try dsimp only
  repeat' first
    | with_reducible first
        | assumption | apply ite_keeps | apply iteP_keeps | apply onRegion_keeps | apply onPool_keeps
    | exact fun h => h | exact fun h => Mem.writeN_wf _ _ _ h | exact fun h => Mem.zero_wf _ _ _ h
    | exact fun h => Mem.foldWrite_wf _ (fun p _ hp => Mem.write_wf p.1 _ _ hp) _ _ h | (intro _; intros) | split
    | refine fst_keeps (by with_reducible assumption) ?_

theorem poisonProt_keeps {s0 : State} (s : State) (line : Nat) (tag : Tag) (region : Nat) (off : Nat) (tagBad : Bool)
    (cause : Byte) (hK : Keeps s0 s) : Keeps s0 (poisonProt s line tag region off tagBad cause) := by
  unfold poisonProt
  try dsimp only
  repeat' first
    | with_reducible first
        | assumption | apply ite_keeps | apply iteP_keeps | apply setLine_keeps | apply onStack_keeps
        | apply memPost_keeps
    | (intro _; intros) | split | refine fst_keeps (by with_reducible assumption) ?_

theorem scrubProt_keeps {s0 : State} (s : State) (line : Nat) (f : ReadFault) (fs : List ReadFault) (hK : Keeps s0 s)
    : Keeps s0 (scrubProt s line f fs) := by
  unfold scrubProt
  try dsimp only
  repeat' first
    | with_reducible first
        | assumption | apply ite_keeps | apply iteP_keeps | apply noteRead_keeps | apply bumpCorrected_keeps
        | apply onStack_keeps | apply notePieces_keeps | apply writeBackDue_keeps | apply rewriteProt_keeps
        | apply poisonProt_keeps
    | (intro _; intros) | split | refine fst_keeps (by with_reducible assumption) ?_

theorem scrubLine_keeps {s0 : State} (s : State) (line : Nat) (fs : List ReadFault) (hK : Keeps s0 s) : Keeps s0
    (scrubLine s line fs) := by
  unfold scrubLine
  try dsimp only
  repeat' first
    | with_reducible first
        | assumption | apply ite_keeps | apply iteP_keeps | apply readLine_keeps | apply onStack_keeps
        | apply rewriteProt_keeps | apply scrubProt_keeps
    | (intro _; intros) | split | refine fst_keeps (by with_reducible assumption) ?_

theorem execPatrolScrubRead_keeps {s0 : State} (stack : Fin 16) (faults : List ReadFault) (s : State) (hK : Keeps s0
    s) : OutKeeps s0 (execPatrolScrubRead stack faults s) := by
  unfold execPatrolScrubRead
  try dsimp only
  repeat' first
    | with_reducible first
        | assumption | apply ite_outKeeps | apply ite_keeps | apply iteP_keeps | apply OutKeeps.next | apply up_keeps
        | apply onStack_keeps | apply scrubLine_keeps
    | split | (intro _; intros) | split | refine fst_keeps (by with_reducible assumption) ?_

theorem ackReq_keeps {s0 : State} (s : State) (a : Arrival) (hK : Keeps s0 s) : Keeps s0 (ackReq s a) := by
  unfold ackReq
  try dsimp only
  repeat' first
    | with_reducible first
        | assumption | apply finishReq_keeps
    | (intro _; intros)

theorem partnerFreeZs_keeps {s0 : State} (s : State) (a : Arrival) (hK : Keeps s0 s) : Keeps s0 (partnerFreeZs s a) :=
    by
  unfold partnerFreeZs
  try dsimp only
  repeat' first
    | with_reducible first
        | assumption | apply ackReq_keeps | apply onPool_keeps | apply scrubSpans_keeps
    | exact fun h => h | exact fun h => Mem.writeN_wf _ _ _ h | exact fun h => Mem.zero_wf _ _ _ h
    | exact fun h => Mem.foldWrite_wf _ (fun p _ hp => Mem.write_wf p.1 _ _ hp) _ _ h | (intro _; intros) | split
    | refine fst_keeps (by with_reducible assumption) ?_

theorem partnerDataFailed_keeps {s0 : State} (s : State) (line : Nat) (hK : Keeps s0 s) : Keeps s0 (partnerDataFailed
    s line) := by
  unfold partnerDataFailed
  try dsimp only
  repeat' first
    | with_reducible first
        | assumption | apply ite_keeps | apply iteP_keeps | apply partnerLineGot_keeps | apply wantedPoison_keeps
    | (intro _; intros) | split | refine fst_keeps (by with_reducible assumption) ?_

theorem specPartnerAdopt_keeps {s0 : State} (o : Origin) (d : Desc) (k : Pick) (s : State) (hK : Keeps s0 s) : Keeps
    s0 ((specPartnerAdopt).eff o d k s) := by
  unfold specPartnerAdopt
  try dsimp only
  repeat' first
    | with_reducible first
        | assumption | apply ite_keeps | apply iteP_keeps | apply onPool_keeps | apply complete_keeps
        | apply onRgn_keeps
    | exact fun h => h | exact fun h => Mem.writeN_wf _ _ _ h | exact fun h => Mem.zero_wf _ _ _ h
    | exact fun h => Mem.foldWrite_wf _ (fun p _ hp => Mem.write_wf p.1 _ _ hp) _ _ h | (intro _; intros) | split
    | refine fst_keeps (by with_reducible assumption) ?_

theorem execPartnerAdopt_keeps {s0 : State} (r : CmdRef) (d : Desc) (k : Pick) (s : State) (hK : Keeps s0 s) :
    OutKeeps s0 (execPartnerAdopt r d k s) := by
  unfold execPartnerAdopt
  try dsimp only
  repeat' first
    | with_reducible first
        | assumption | apply OutKeeps.next | apply up_keeps | apply runRow_keeps | apply specPartnerAdopt_keeps
    | (intro _; intros)

theorem execRefreshRateChange_keeps {s0 : State} (stack : Fin 16) (temp : Nat) (s : State) (hK : Keeps s0 s) :
    OutKeeps s0 (execRefreshRateChange stack temp s) := by
  unfold execRefreshRateChange
  try dsimp only
  repeat' first
    | with_reducible first
        | assumption | apply ite_outKeeps | apply ite_keeps | apply iteP_keeps | apply OutKeeps.next | apply up_keeps
        | apply onStack_keeps
    | (intro _; intros) | split | refine fst_keeps (by with_reducible assumption) ?_

theorem grantReqZs_keeps {s0 : State} (s : State) (a : Arrival) (k : Pick) (hK : Keeps s0 s) : Keeps s0 (grantReqZs s
    a k) := by
  unfold grantReqZs
  try dsimp only
  repeat' first
    | with_reducible first
        | assumption | apply answerMgmt_keeps | apply scrubSpans_keeps | apply onPool_keeps
    | exact fun h => h | exact fun h => Mem.writeN_wf _ _ _ h | exact fun h => Mem.zero_wf _ _ _ h
    | exact fun h => Mem.foldWrite_wf _ (fun p _ hp => Mem.write_wf p.1 _ _ hp) _ _ h | (intro _; intros) | split
    | refine fst_keeps (by with_reducible assumption) ?_

theorem partnerWriteZs_keeps {s0 : State} (s : State) (a : Arrival) (hK : Keeps s0 s) : Keeps s0 (partnerWriteZs s a)
    := by
  unfold partnerWriteZs
  try dsimp only
  repeat' first
    | with_reducible first
        | assumption | apply ite_keeps | apply iteP_keeps | apply foldl_keeps | apply foldlP_keeps
        | apply refuse_keeps | apply setLine_keeps | apply ackReq_keeps
    | (intro _; intros) | split | refine fst_keeps (by with_reducible assumption) ?_

theorem rebuildReport_keeps {s0 : State} (s : State) (ri : Nat) (hK : Keeps s0 s) : Keeps s0 (rebuildReport s ri) :=
    by
  unfold rebuildReport
  try dsimp only
  repeat' first
    | with_reducible first
        | assumption | apply ite_keeps | apply iteP_keeps | apply setBook_keeps | apply memPost_keeps
    | (intro _; intros) | split | refine fst_keeps (by with_reducible assumption) ?_

theorem execRebuildWriteback_keeps {s0 : State} (line : Nat) (s : State) (hK : Keeps s0 s) : OutKeeps s0
    (execRebuildWriteback line s) := by
  unfold execRebuildWriteback
  try dsimp only
  repeat' first
    | with_reducible first
        | assumption | apply OutKeeps.next | apply up_keeps | apply onPool_keeps | apply bumpCorrected_keeps
        | apply onStack_keeps | apply rebuildReport_keeps | apply setBook_keeps | apply rebuilt_keeps
    | exact fun h => h | exact fun h => Mem.writeN_wf _ _ _ h | exact fun h => Mem.zero_wf _ _ _ h
    | exact fun h => Mem.foldWrite_wf _ (fun p _ hp => Mem.write_wf p.1 _ _ hp) _ _ h | split | (intro _; intros)
    | split | refine fst_keeps (by with_reducible assumption) ?_

theorem rebuildsGo_keeps {s0 : State} (s : State) (hK : Keeps s0 s) : Keeps s0 (rebuildsGo s) := by
  unfold rebuildsGo
  try dsimp only
  repeat' first
    | with_reducible first
        | assumption | apply foldl_keeps | apply foldlP_keeps | apply rebuildReport_keeps
    | (intro _; intros)

theorem grantGot_keeps {s0 : State} (s : State) (o : Origin) (d : Desc) (k : Pick) (payload : List Byte) (hK : Keeps
    s0 s) : Keeps s0 (grantGot s o d k payload) := by
  unfold grantGot
  try dsimp only
  repeat' first
    | with_reducible first
        | assumption | apply ite_keeps | apply iteP_keeps | apply complete_keeps | apply createNow_keeps
        | apply sendMgmt_keeps
    | (intro _; intros) | split | refine fst_keeps (by with_reducible assumption) ?_

end Sys2Proof.Machine
end

