-- ==== Sys2Proof/Laws/KeepsEpCore.lean ====
section
/-! SUPPORT. What the functions of EpCore keep. -/

namespace Sys2Proof.Machine

theorem epSubmit_keeps {s0 : State} (s : State) (cause : Cause) (p : Packet) (hK : Keeps s0 s) : Keeps s0 (epSubmit s
    cause p) := by
  unfold epSubmit
  try dsimp only
  repeat' first
    | with_reducible first
        | assumption | apply onEp_keeps
    | (intro _; intros)

theorem onOp_keeps {s0 : State} (s : State) (i : Nat) (k : BitVec 32) (f : EpOp → EpOp) (hK : Keeps s0 s) : Keeps s0
    (onOp s i k f) := by
  unfold onOp
  try dsimp only
  repeat' first
    | with_reducible first
        | assumption | apply ite_keeps | apply iteP_keeps | apply onEp_keeps
    | (intro _; intros) | split | refine fst_keeps (by with_reducible assumption) ?_

theorem sendDirect_keeps {s0 : State} (s : State) (o : EpOp) (hK : Keeps s0 s) : Keeps s0 (sendDirect s o) := by
  unfold sendDirect
  try dsimp only
  repeat' first
    | with_reducible first
        | assumption | apply foldl_keeps | apply foldlP_keeps | apply epSubmit_keeps | apply onOp_keeps
    | (intro _; intros)

theorem epMwr_keeps {s0 : State} (s : State) (addr : Nat) (data : List Byte) (use : D2dUse) (hK : Keeps s0 s) : Keeps
    s0 (epMwr s addr data use) := by
  unfold epMwr
  try dsimp only
  repeat' first
    | with_reducible first
        | assumption | apply ite_keeps | apply iteP_keeps | apply onEp_keeps | apply emit_keeps
    | (intro _; intros) | split | refine fst_keeps (by with_reducible assumption) ?_

theorem epDecide_keeps {s0 : State} (s : State) (i : Nat) (k : BitVec 32) (st : Status) (row : Nat) (hK : Keeps s0 s)
    : Keeps s0 (epDecide s i k st row) := by
  unfold epDecide
  try dsimp only
  repeat' first
    | with_reducible first
        | assumption | apply ite_keeps | apply iteP_keeps | apply onOp_keeps
    | (intro _; intros) | split | refine fst_keeps (by with_reducible assumption) ?_

theorem epMrd_keeps {s0 : State} (s : State) (addr : Nat) (len : Nat) (use : D2dUse) (hK : Keeps s0 s) : Keeps s0
    (epMrd s addr len use) := by
  unfold epMrd
  try dsimp only
  repeat' first
    | with_reducible first
        | assumption | apply emit_keeps | apply onEp_keeps
    | (intro _; intros)

theorem epStep_keeps {s0 : State} (s : State) (i : Nat) (k : BitVec 32) (hK : Keeps s0 s) : Keeps s0 (epStep s i k) :=
    by
  unfold epStep
  try dsimp only
  repeat' first
    | with_reducible first
        | assumption | apply ite_keeps | apply iteP_keeps | apply epMwr_keeps | apply onOp_keeps
        | apply epDecide_keeps | apply sendDirect_keeps | apply epMrd_keeps
    | (intro _; intros) | split | refine fst_keeps (by with_reducible assumption) ?_

theorem epWriteback_keeps {s0 : State} (s : State) (c : CacheLine) (cause : Cause) (stream : Nat) (hK : Keeps s0 s) :
    Keeps s0 (epWriteback s c cause stream) := by
  unfold epWriteback
  try dsimp only
  repeat' first
    | with_reducible first
        | assumption | apply epSubmit_keeps
    | (intro _; intros)

theorem epTakeOut_keeps {s0 : State} (s : State) (i : Nat) (k : BitVec 32) (home : Node) (region : Nat) (spans : List
    (Nat × Nat)) (stream : Nat) (keep : Bool) (zero : Bool) (hK : Keeps s0 s) : Keeps s0 (epTakeOut s i k home region
    spans stream keep zero) := by
  unfold epTakeOut
  try dsimp only
  repeat' first
    | with_reducible first
        | assumption | apply ite_keeps | apply iteP_keeps | apply foldl_keeps | apply foldlP_keeps | apply onEp_keeps
        | apply epWriteback_keeps | apply onOp_keeps
    | (intro _; intros) | split | refine fst_keeps (by with_reducible assumption) ?_

theorem epInsert_keeps {s0 : State} (s : State) (c : CacheLine) (hK : Keeps s0 s) : Keeps s0 (epInsert s c) := by
  unfold epInsert
  try dsimp only
  repeat' first
    | with_reducible first
        | assumption | apply ite_keeps | apply iteP_keeps | apply onEp_keeps | apply epWriteback_keeps
    | (intro _; intros) | split | refine fst_keeps (by with_reducible assumption) ?_

theorem epMwrGo_keeps {s0 : State} (x0 : Nat) (x1 : State) (hK : Keeps s0 x1) : Keeps s0 (epMwrGo x0 x1) := by
  induction x0 generalizing x1
  case zero =>
    unfold epMwrGo
    try dsimp only
    repeat' first
      | with_reducible first
          | assumption | apply ite_keeps | apply iteP_keeps | apply onEp_keeps | apply emit_keeps
      | (intro _; intros) | split | refine fst_keeps (by with_reducible assumption) ?_
  case succ n ih =>
    unfold epMwrGo
    try dsimp only
    repeat' first
      | with_reducible first
          | assumption | apply ih | apply ite_keeps | apply iteP_keeps | apply onEp_keeps | apply emit_keeps
      | (intro _; intros) | split | refine fst_keeps (by with_reducible assumption) ?_

theorem epAbsorb_keeps {s0 : State} (s : State) (c : CacheLine) (off : Nat) (data : List Byte) (hK : Keeps s0 s) :
    Keeps s0 (epAbsorb s c off data) := by
  unfold epAbsorb
  try dsimp only
  repeat' first
    | with_reducible first
        | assumption | apply ite_keeps | apply iteP_keeps | apply onEp_keeps | apply at__keeps
    | (intro _; intros) | split | refine fst_keeps (by with_reducible assumption) ?_

theorem epOutOn_keeps {s0 : State} (s : State) (port : Nat) (vc : Fin 8) (p : Packet) (hK : Keeps s0 s) : Keeps s0
    (epOutOn s port vc p) := by
  unfold epOutOn
  try dsimp only
  repeat' first
    | with_reducible first
        | assumption | apply ite_keeps | apply iteP_keeps | apply onEp_keeps | apply epLeave_keeps
    | (intro _; intros) | split | refine fst_keeps (by with_reducible assumption) ?_

theorem badDoorbell_keeps {s0 : State} (s : State) (hK : Keeps s0 s) : Keeps s0 (badDoorbell s) := by
  unfold badDoorbell
  try dsimp only
  repeat' first
    | with_reducible first
        | assumption | apply onEp_keeps
    | (intro _; intros)

theorem epOut_keeps {s0 : State} (s : State) (port : Nat) (p : Packet) (hK : Keeps s0 s) : Keeps s0 (epOut s port p)
    := by
  unfold epOut
  try dsimp only
  repeat' first
    | with_reducible first
        | assumption | apply epOutOn_keeps
    | (intro _; intros)

theorem onEpQ_keeps {s0 : State} (s : State) (i : Nat) (f : EpQueue → EpQueue) (hK : Keeps s0 s) : Keeps s0 (onEpQ s i
    f) := by
  unfold onEpQ
  try dsimp only
  repeat' first
    | with_reducible first
        | assumption | apply onEp_keeps
    | (intro _; intros)

theorem dropOp_keeps {s0 : State} (s : State) (i : Nat) (k : BitVec 32) (hK : Keeps s0 s) : Keeps s0 (dropOp s i k) :=
    by
  unfold dropOp
  try dsimp only
  repeat' first
    | with_reducible first
        | assumption | apply onEp_keeps
    | (intro _; intros)

theorem epAbortRecord_keeps {s0 : State} (s : State) (i : Nat) (k : BitVec 32) (tag : BitVec 32) (st : Status) (hK :
    Keeps s0 s) : Keeps s0 (epAbortRecord s i k tag st) := by
  unfold epAbortRecord
  try dsimp only
  repeat' first
    | with_reducible first
        | assumption | apply epMwr_keeps
    | (intro _; intros)

theorem epStepAll_keeps {s0 : State} (s : State) (hK : Keeps s0 s) : Keeps s0 (epStepAll s) := by
  unfold epStepAll
  try dsimp only
  repeat' first
    | with_reducible first
        | assumption | apply foldl_keeps | apply foldlP_keeps | apply epStep_keeps
    | (intro _; intros)

end Sys2Proof.Machine
end

