-- ==== Sys2Proof/Laws/KeepsEpOps.lean ====
section
/-! SUPPORT. What the functions of EpOps keep. -/

namespace Sys2Proof.Machine

theorem contribGo_keeps {s0 : State} (s : State) (j : Nat) (hK : Keeps s0 s) : Keeps s0 (contribGo s j) := by
  unfold contribGo
  try dsimp only
  repeat' first
    | with_reducible first
        | assumption | apply ite_keeps | apply iteP_keeps | apply epMrd_keeps | apply onOp_keeps
    | (intro _; intros) | split | refine fst_keeps (by with_reducible assumption) ?_

theorem resultLanded_keeps {s0 : State} (s : State) (j : Nat) (p : Packet) (hK : Keeps s0 s) : Keeps s0 (resultLanded
    s j p) := by
  unfold resultLanded
  try dsimp only
  repeat' first
    | with_reducible first
        | assumption | apply ite_keeps | apply iteP_keeps | apply onEp_keeps | apply epDecide_keeps
        | apply contribGo_keeps
    | (intro _; intros) | split | refine fst_keeps (by with_reducible assumption) ?_

theorem epStart_keeps {s0 : State} (s : State) (i : Nat) (k : BitVec 32) (d : Desc) (hK : Keeps s0 s) : Keeps s0
    (epStart s i k d) := by
  unfold epStart
  try dsimp only
  repeat' first
    | with_reducible first
        | assumption | apply ite_keeps | apply iteP_keeps | apply onOp_keeps | apply epMwr_keeps
        | apply epTakeOut_keeps | apply onEp_keeps
    | (intro _; intros) | split | refine fst_keeps (by with_reducible assumption) ?_

theorem dropWaiting_keeps {s0 : State} (s : State) (i : Nat) (k : BitVec 32) (hK : Keeps s0 s) : Keeps s0 (dropWaiting
    s i k) := by
  unfold dropWaiting
  try dsimp only
  repeat' first
    | with_reducible first
        | assumption | apply foldl_keeps | apply foldlP_keeps | apply onOp_keeps | apply onEp_keeps
        | apply epInsert_keeps
    | (intro _; intros)

theorem opDataGot_keeps {s0 : State} (s : State) (i : Nat) (k : BitVec 32) (row : Nat) (off : Nat) (last : Bool) (ok :
    Bool) (data : List Byte) (hK : Keeps s0 s) : Keeps s0 (opDataGot s i k row off last ok data) := by
  unfold opDataGot
  try dsimp only
  repeat' first
    | with_reducible first
        | assumption | apply ite_keeps | apply iteP_keeps | apply onOp_keeps | apply dropWaiting_keeps
        | apply epAbsorb_keeps | apply epTakeOut_keeps | apply epSubmit_keeps
    | (intro _; intros) | split | refine fst_keeps (by with_reducible assumption) ?_

theorem contribResolved_keeps {s0 : State} (s : State) (i : Nat) (k : BitVec 32) (st : Status) (hK : Keeps s0 s) :
    Keeps s0 (contribResolved s i k st) := by
  unfold contribResolved
  try dsimp only
  repeat' first
    | with_reducible first
        | assumption | apply ite_keeps | apply iteP_keeps | apply onOp_keeps | apply epDecide_keeps
        | apply dropWaiting_keeps
    | (intro _; intros) | split | refine fst_keeps (by with_reducible assumption) ?_

theorem epTake_keeps {s0 : State} (s : State) (i : Nat) (op : Nat) (hK : Keeps s0 s) : Keeps s0 (epTake s i op) := by
  unfold epTake
  try dsimp only
  repeat' first
    | with_reducible first
        | assumption | apply ite_keeps | apply iteP_keeps | apply dropOp_keeps | apply epStepAll_keeps
        | apply onEpQ_keeps | apply onEp_keeps | apply epDecide_keeps | apply epStart_keeps | apply contribGo_keeps
    | (intro _; intros) | split | refine fst_keeps (by with_reducible assumption) ?_

theorem closeOne_keeps {s0 : State} (s : State) (i : Nat) (k : BitVec 32) (fail : Option (Nat × Status)) (hK : Keeps
    s0 s) : Keeps s0 (closeOne s i k fail) := by
  unfold closeOne
  try dsimp only
  repeat' first
    | with_reducible first
        | assumption | apply ite_keeps | apply iteP_keeps | apply onOp_keeps
    | (intro _; intros) | split | refine fst_keeps (by with_reducible assumption) ?_

theorem abortDoorbell_keeps {s0 : State} (s : State) (i : Nat) (target : BitVec 32) (tag : BitVec 32) (hK : Keeps s0
    s) : Keeps s0 (abortDoorbell s i target tag) := by
  unfold abortDoorbell
  try dsimp only
  repeat' first
    | with_reducible first
        | assumption | apply ite_keeps | apply iteP_keeps | apply badDoorbell_keeps | apply epAbortRecord_keeps
        | apply onEp_keeps | apply epStepAll_keeps | apply epDecide_keeps | apply onOp_keeps | apply dropWaiting_keeps
    | (intro _; intros) | split | refine fst_keeps (by with_reducible assumption) ?_

theorem opLanded_keeps {s0 : State} (s : State) (i : Nat) (k : BitVec 32) (row : Nat) (bytes : Nat) (ok : Bool) (hK :
    Keeps s0 s) : Keeps s0 (opLanded s i k row bytes ok) := by
  unfold opLanded
  try dsimp only
  repeat' first
    | with_reducible first
        | assumption | apply ite_keeps | apply iteP_keeps | apply closeOne_keeps | apply onEp_keeps
    | (intro _; intros) | split | refine fst_keeps (by with_reducible assumption) ?_

theorem cacheReply_keeps {s0 : State} (s : State) (d : Desc) (q : EpQueue) (p : Packet) (hK : Keeps s0 s) : Keeps s0
    (cacheReply s d q p) := by
  unfold cacheReply
  try dsimp only
  repeat' first
    | with_reducible first
        | assumption | apply ite_keeps | apply iteP_keeps | apply epInsert_keeps
    | (intro _; intros) | split | refine fst_keeps (by with_reducible assumption) ?_

theorem prodDoorbell_keeps {s0 : State} (s : State) (i : Nat) (prod : BitVec 32) (ds : List Desc) (hK : Keeps s0 s) :
    Keeps s0 (prodDoorbell s i prod ds) := by
  unfold prodDoorbell
  try dsimp only
  repeat' first
    | with_reducible first
        | assumption | apply ite_keeps | apply iteP_keeps | apply onEpQ_keeps | apply badDoorbell_keeps
    | (intro _; intros) | split | refine fst_keeps (by with_reducible assumption) ?_

theorem writebackResolved_keeps {s0 : State} (s : State) (i : Nat) (k : BitVec 32) (st : Status) (hK : Keeps s0 s) :
    Keeps s0 (writebackResolved s i k st) := by
  unfold writebackResolved
  try dsimp only
  repeat' first
    | with_reducible first
        | assumption | apply ite_keeps | apply iteP_keeps | apply onOp_keeps
    | (intro _; intros) | split | refine fst_keeps (by with_reducible assumption) ?_

theorem contribData_keeps {s0 : State} (s : State) (j : Nat) (i : Nat) (k : BitVec 32) (g : Nat) (probe : Bool) (ok :
    Bool) (data : List Byte) (hK : Keeps s0 s) : Keeps s0 (contribData s j i k g probe ok data) := by
  unfold contribData
  try dsimp only
  repeat' first
    | with_reducible first
        | assumption | apply ite_keeps | apply iteP_keeps | apply onOp_keeps | apply epDecide_keeps
        | apply epSubmit_keeps | apply contribGo_keeps | apply onEp_keeps
    | (intro _; intros) | split | refine fst_keeps (by with_reducible assumption) ?_

theorem recordDone_keeps {s0 : State} (s : State) (i : Nat) (k : BitVec 32) (notify : Bool) (hK : Keeps s0 s) : Keeps
    s0 (recordDone s i k notify) := by
  unfold recordDone
  try dsimp only
  repeat' first
    | with_reducible first
        | assumption | apply ite_keeps | apply iteP_keeps | apply dropOp_keeps | apply emit_keeps
        | apply epAbortRecord_keeps
    | (intro _; intros) | split | refine fst_keeps (by with_reducible assumption) ?_

theorem queueResolved_keeps {s0 : State} (s : State) (i : Nat) (k : BitVec 32) (row : Nat) (laddr : Nat) (st : Status)
    (p : Packet) (hK : Keeps s0 s) : Keeps s0 (queueResolved s i k row laddr st p) := by
  unfold queueResolved
  try dsimp only
  repeat' first
    | with_reducible first
        | assumption | apply ite_keeps | apply iteP_keeps | apply closeOne_keeps | apply cacheReply_keeps
        | apply onOp_keeps | apply epMwr_keeps
    | (intro _; intros) | split | refine fst_keeps (by with_reducible assumption) ?_

end Sys2Proof.Machine
end

