-- ==== Sys2Proof/Laws/KeepsEpServe.lean ====
section
/-! SUPPORT. What the functions of EpServe keep. -/

namespace Sys2Proof.Machine

theorem onEpXp_keeps {s0 : State} (s : State) (f : Xport → Xport) (hK : Keeps s0 s) : Keeps s0 (onEpXp s f) := by
  unfold onEpXp
  try dsimp only
  repeat' first
    | with_reducible first
        | assumption | apply onEp_keeps
    | (intro _; intros)

theorem setRwin_keeps {s0 : State} (s : State) (p : Packet) (d : DstSrc) (hK : Keeps s0 s) : Keeps s0 (setRwin s p d)
    := by
  unfold setRwin
  try dsimp only
  repeat' first
    | with_reducible first
        | assumption | apply onEp_keeps
    | (intro _; intros)

theorem epRespond_keeps {s0 : State} (s : State) (a : Arrival) (p : Packet) (hK : Keeps s0 s) : Keeps s0 (epRespond s
    a p) := by
  unfold epRespond
  try dsimp only
  repeat' first
    | with_reducible first
        | assumption | apply epOutOn_keeps
    | (intro _; intros)

theorem resultEnd_keeps {s0 : State} (s : State) (a : Arrival) (st : Status) (hK : Keeps s0 s) : Keeps s0 (resultEnd s
    a st) := by
  unfold resultEnd
  try dsimp only
  repeat' first
    | with_reducible first
        | assumption | apply ite_keeps | apply iteP_keeps | apply onEpXp_keeps | apply setRwin_keeps
        | apply epRespond_keeps
    | (intro _; intros) | split | refine fst_keeps (by with_reducible assumption) ?_

theorem epFinish_keeps {s0 : State} (s : State) (a : Arrival) (st : Status) (ans : Packet) (keep : Bool) (hK : Keeps
    s0 s) : Keeps s0 (epFinish s a st ans keep) := by
  unfold epFinish
  try dsimp only
  repeat' first
    | with_reducible first
        | assumption | apply ite_keeps | apply iteP_keeps | apply onEpXp_keeps | apply epRespond_keeps
    | (intro _; intros) | split | refine fst_keeps (by with_reducible assumption) ?_

theorem epRefuse_keeps {s0 : State} (s : State) (a : Arrival) (st : Status) (hK : Keeps s0 s) : Keeps s0 (epRefuse s a
    st) := by
  unfold epRefuse
  try dsimp only
  repeat' first
    | with_reducible first
        | assumption | apply epFinish_keeps
    | (intro _; intros)

theorem epCounterRead_keeps {s0 : State} (s : State) (a : Arrival) (hK : Keeps s0 s) : Keeps s0 (epCounterRead s a) :=
    by
  unfold epCounterRead
  try dsimp only
  repeat' first
    | with_reducible first
        | assumption | apply ite_keeps | apply iteP_keeps | apply epRefuse_keeps | apply epFinish_keeps
    | (intro _; intros) | split | refine fst_keeps (by with_reducible assumption) ?_

theorem epWriteDone_keeps {s0 : State} (s : State) (a : Arrival) (ok : Bool) (bytes : Nat) (hK : Keeps s0 s) : Keeps
    s0 (epWriteDone s a ok bytes) := by
  unfold epWriteDone
  try dsimp only
  repeat' first
    | with_reducible first
        | assumption | apply ite_keeps | apply iteP_keeps | apply epRefuse_keeps | apply onEp_keeps
        | apply epFinish_keeps
    | (intro _; intros) | split | refine fst_keeps (by with_reducible assumption) ?_

theorem epRun_keeps {s0 : State} (s : State) (a : Arrival) (addr : Nat) (hK : Keeps s0 s) : Keeps s0 (epRun s a addr)
    := by
  unfold epRun
  try dsimp only
  repeat' first
    | with_reducible first
        | assumption | apply ite_keeps | apply iteP_keeps | apply foldl_keeps | apply foldlP_keeps | apply onEp_keeps
        | apply epMrd_keeps | apply epWriteDone_keeps | apply epMwr_keeps | apply serveRead_keeps
        | apply serveWrite_keeps
    | (intro _; intros) | split | refine fst_keeps (by with_reducible assumption) ?_

theorem epReceive_keeps {s0 : State} (s : State) (a : Arrival) (go : State → State) (h_go : ∀ y0, Keeps s0 y0 → Keeps
    s0 (go y0)) (hK : Keeps s0 s) : Keeps s0 (epReceive s a go) := by
  unfold epReceive
  try dsimp only
  repeat' first
    | with_reducible first
        | assumption | apply h_go | apply ite_keeps | apply iteP_keeps | apply epRespond_keeps | apply onEpXp_keeps
        | apply epRefuse_keeps
    | (intro _; intros) | split | refine fst_keeps (by with_reducible assumption) ?_

theorem epClosing_keeps {s0 : State} (s : State) (a : Arrival) (hK : Keeps s0 s) : Keeps s0 (epClosing s a) := by
  unfold epClosing
  try dsimp only
  repeat' first
    | with_reducible first
        | assumption | apply ite_keeps | apply iteP_keeps | apply epRefuse_keeps | apply onEpXp_keeps
        | apply epRespond_keeps
    | (intro _; intros) | split | refine fst_keeps (by with_reducible assumption) ?_

theorem epRerun_keeps {s0 : State} (s : State) (a : Arrival) (hK : Keeps s0 s) : Keeps s0 (epRerun s a) := by
  unfold epRerun
  try dsimp only
  repeat' first
    | with_reducible first
        | assumption | apply epRefuse_keeps | apply epRun_keeps
    | (intro _; intros) | split | refine fst_keeps (by with_reducible assumption) ?_

theorem epWaitGo_keeps {s0 : State} (s : State) (hK : Keeps s0 s) : Keeps s0 (epWaitGo s) := by
  unfold epWaitGo
  try dsimp only
  repeat' first
    | with_reducible first
        | assumption | apply foldl_keeps | apply foldlP_keeps | apply epRerun_keeps | apply onEp_keeps
    | (intro _; intros)

theorem serveAtomDone_keeps {s0 : State} (s : State) (a : Arrival) (old : List Byte) (line : Nat) (ok : Bool) (hK :
    Keeps s0 s) : Keeps s0 (serveAtomDone s a old line ok) := by
  unfold serveAtomDone
  try dsimp only
  repeat' first
    | with_reducible first
        | assumption | apply ite_keeps | apply iteP_keeps | apply onEp_keeps | apply epWaitGo_keeps
        | apply epFinish_keeps | apply epRefuse_keeps
    | (intro _; intros) | split | refine fst_keeps (by with_reducible assumption) ?_

theorem epResult_keeps {s0 : State} (s : State) (a : Arrival) (hK : Keeps s0 s) : Keeps s0 (epResult s a) := by
  unfold epResult
  try dsimp only
  repeat' first
    | with_reducible first
        | assumption | apply ite_keeps | apply iteP_keeps | apply epRespond_keeps | apply onEpXp_keeps
        | apply setRwin_keeps | apply resultEnd_keeps | apply epMwr_keeps
    | (intro _; intros) | split | refine fst_keeps (by with_reducible assumption) ?_

theorem serveMwr_keeps {s0 : State} (s : State) (a : Arrival) (ok : Bool) (hK : Keeps s0 s) : Keeps s0 (serveMwr s a
    ok) := by
  unfold serveMwr
  try dsimp only
  repeat' first
    | with_reducible first
        | assumption | apply ite_keeps | apply iteP_keeps | apply epWaitGo_keeps | apply epWriteDone_keeps
        | apply onEp_keeps | apply serveWrite_keeps
    | (intro _; intros) | split | refine fst_keeps (by with_reducible assumption) ?_

theorem resultWritten_keeps {s0 : State} (s : State) (j : Nat) (a : Arrival) (ok : Bool) (hK : Keeps s0 s) : Keeps s0
    (resultWritten s j a ok) := by
  unfold resultWritten
  try dsimp only
  repeat' first
    | with_reducible first
        | assumption | apply ite_keeps | apply iteP_keeps | apply resultLanded_keeps | apply resultEnd_keeps
    | (intro _; intros) | split | refine fst_keeps (by with_reducible assumption) ?_

theorem mwrEnd_keeps {s0 : State} (s : State) (d : D2d) (ok : Bool) (hK : Keeps s0 s) : Keeps s0 (mwrEnd s d ok) := by
  unfold mwrEnd
  try dsimp only
  repeat' first
    | with_reducible first
        | assumption | apply ite_keeps | apply iteP_keeps | apply onEp_keeps | apply opLanded_keeps
        | apply recordDone_keeps | apply emit_keeps | apply serveMwr_keeps | apply serveAtomDone_keeps
        | apply resultWritten_keeps | apply epMwrGo_keeps | apply epWaitGo_keeps | apply serveWrite_keeps
    | (intro _; intros) | split | refine fst_keeps (by with_reducible assumption) ?_

theorem epServe_keeps {s0 : State} (s : State) (a : Arrival) (hK : Keeps s0 s) : Keeps s0 (epServe s a) := by
  unfold epServe
  try dsimp only
  repeat' first
    | with_reducible first
        | assumption | apply epRefuse_keeps | apply epRun_keeps
    | (intro _; intros) | split | refine fst_keeps (by with_reducible assumption) ?_

theorem epSnoop_keeps {s0 : State} (s : State) (a : Arrival) (hK : Keeps s0 s) : Keeps s0 (epSnoop s a) := by
  unfold epSnoop
  try dsimp only
  repeat' first
    | with_reducible first
        | assumption | apply ite_keeps | apply iteP_keeps | apply onEp_keeps | apply epOut_keeps | apply at__keeps
    | (intro _; intros) | split | refine fst_keeps (by with_reducible assumption) ?_

theorem serveMrd_keeps {s0 : State} (s : State) (a : Arrival) (atom : Bool) (ok : Bool) (data : List Byte) (hK : Keeps
    s0 s) : Keeps s0 (serveMrd s a atom ok data) := by
  unfold serveMrd
  try dsimp only
  repeat' first
    | with_reducible first
        | assumption | apply ite_keeps | apply iteP_keeps | apply epFinish_keeps | apply epRefuse_keeps
        | apply epWaitGo_keeps | apply onEp_keeps | apply epMwr_keeps
    | (intro _; intros) | split | refine fst_keeps (by with_reducible assumption) ?_

theorem mrdEnd_keeps {s0 : State} (s : State) (d : D2d) (ok : Bool) (data : List Byte) (hK : Keeps s0 s) : Keeps s0
    (mrdEnd s d ok data) := by
  unfold mrdEnd
  try dsimp only
  repeat' first
    | with_reducible first
        | assumption | apply ite_keeps | apply iteP_keeps | apply onEp_keeps | apply opDataGot_keeps
        | apply contribData_keeps | apply serveMrd_keeps | apply serveRead_keeps
    | (intro _; intros) | split | refine fst_keeps (by with_reducible assumption) ?_

end Sys2Proof.Machine
end

