-- ==== Sys2Proof/Laws/KeepsEpNet.lean ====
section
/-! SUPPORT. What the functions of EpNet keep. -/

namespace Sys2Proof.Machine

theorem epResolved_keeps {s0 : State} (s : State) (c : Cause) (st : Status) (p : Packet) (hK : Keeps s0 s) : Keeps s0
    (epResolved s c st p) := by
  unfold epResolved
  try dsimp only
  repeat' first
    | with_reducible first
        | assumption | apply ite_keeps | apply iteP_keeps | apply queueResolved_keeps | apply writebackResolved_keeps
        | apply contribResolved_keeps
    | (intro _; intros) | split | refine fst_keeps (by with_reducible assumption) ?_

theorem epInject_keeps {s0 : State} (s : State) (w : Submit) (port : Nat) (hK : Keeps s0 s) : Keeps s0 (epInject s w
    port) := by
  unfold epInject
  try dsimp only
  repeat' first
    | with_reducible first
        | assumption | apply ite_keeps | apply iteP_keeps | apply onEp_keeps | apply onEpXp_keeps | apply epOut_keeps
    | (intro _; intros) | split | refine fst_keeps (by with_reducible assumption) ?_

theorem epRetransmit_keeps {s0 : State} (s : State) (o : Op) (hK : Keeps s0 s) : Keeps s0 (epRetransmit s o) := by
  unfold epRetransmit
  try dsimp only
  repeat' first
    | with_reducible first
        | assumption | apply ite_keeps | apply iteP_keeps | apply epOut_keeps | apply onEpXp_keeps
    | (intro _; intros) | split | refine fst_keeps (by with_reducible assumption) ?_

theorem epEndAll_keeps {s0 : State} (s : State) (sel : Packet → Bool) (hK : Keeps s0 s) : Keeps s0 (epEndAll s sel) :=
    by
  unfold epEndAll
  try dsimp only
  repeat' first
    | with_reducible first
        | assumption | apply foldl_keeps | apply foldlP_keeps | apply onEpXp_keeps | apply epResolved_keeps
    | (intro _; intros)

theorem epUnconfigure_keeps {s0 : State} (s : State) (hK : Keeps s0 s) : Keeps s0 (epUnconfigure s) := by
  unfold epUnconfigure
  try dsimp only
  repeat' first
    | with_reducible first
        | assumption | apply ite_keeps | apply iteP_keeps | apply foldl_keeps | apply foldlP_keeps
        | apply reportEpDown_keeps | apply epEndAll_keeps | apply epDecide_keeps | apply onEp_keeps
        | apply epStepAll_keeps | apply emit_keeps
    | (intro _; intros) | split | refine fst_keeps (by with_reducible assumption) ?_

theorem epcReadZe_keeps {s0 : State} (s : State) (a : Arrival) (hK : Keeps s0 s) : Keeps s0 (epcReadZe s a) := by
  unfold epcReadZe
  try dsimp only
  repeat' first
    | with_reducible first
        | assumption | apply epFinish_keeps
    | (intro _; intros)

theorem epYield_keeps {s0 : State} (s : State) (hK : Keeps s0 s) : Keeps s0 (epYield s) := by
  unfold epYield
  try dsimp only
  repeat' first
    | with_reducible first
        | assumption | apply ite_keeps | apply iteP_keeps | apply foldl_keeps | apply foldlP_keeps
        | apply epTakeOut_keeps
    | (intro _; intros) | split | refine fst_keeps (by with_reducible assumption) ?_

theorem epPump_keeps {s0 : State} (x0 : Nat) (x1 : State) (hK : Keeps s0 x1) : Keeps s0 (epPump x0 x1) := by
  induction x0 generalizing x1
  case zero =>
    unfold epPump
    try dsimp only
    repeat' first
      | with_reducible first
          | assumption | apply epInject_keeps | apply epResolved_keeps | apply onEpXp_keeps
      | (intro _; intros) | split | refine fst_keeps (by with_reducible assumption) ?_
  case succ n ih =>
    unfold epPump
    try dsimp only
    repeat' first
      | with_reducible first
          | assumption | apply ih | apply epInject_keeps | apply epResolved_keeps | apply onEpXp_keeps
      | (intro _; intros) | split | refine fst_keeps (by with_reducible assumption) ?_

theorem epFree_keeps {s0 : State} (s : State) (hK : Keeps s0 s) : Keeps s0 (epFree s) := by
  unfold epFree
  try dsimp only
  repeat' first
    | with_reducible first
        | assumption | apply onEp_keeps
    | (intro _; intros)

theorem epSettle_keeps {s0 : State} (s : State) (hK : Keeps s0 s) : Keeps s0 (epSettle s) := by
  unfold epSettle
  try dsimp only
  repeat' first
    | with_reducible first
        | assumption | apply epYield_keeps | apply epStepAll_keeps | apply epPump_keeps | apply epFree_keeps
    | (intro _; intros)

theorem epResponse_keeps {s0 : State} (s : State) (a : Arrival) (hK : Keeps s0 s) : Keeps s0 (epResponse s a) := by
  unfold epResponse
  try dsimp only
  repeat' first
    | with_reducible first
        | assumption | apply ite_keeps | apply iteP_keeps | apply onEpXp_keeps | apply epResolved_keeps
    | (intro _; intros) | split | refine fst_keeps (by with_reducible assumption) ?_

theorem epSelf_keeps {s0 : State} (s : State) (p : Packet) (hK : Keeps s0 s) : Keeps s0 (epSelf s p) := by
  unfold epSelf
  try dsimp only
  repeat' first
    | with_reducible first
        | assumption | apply ite_keeps | apply iteP_keeps | apply epResponse_keeps | apply epReceive_keeps
        | apply epCounterRead_keeps | apply epClosing_keeps | apply epServe_keeps
    | (intro _; intros) | split | refine fst_keeps (by with_reducible assumption) ?_

theorem epLoop_keeps {s0 : State} (x0 : Nat) (x1 : State) (hK : Keeps s0 x1) : Keeps s0 (epLoop x0 x1) := by
  induction x0 generalizing x1
  case zero =>
    unfold epLoop
    try dsimp only
    repeat' first
      | with_reducible first
          | assumption | apply epSettle_keeps | apply onEp_keeps | apply epSelf_keeps
      | (intro _; intros) | split | refine fst_keeps (by with_reducible assumption) ?_
  case succ n ih =>
    unfold epLoop
    try dsimp only
    repeat' first
      | with_reducible first
          | assumption | apply ih | apply epSettle_keeps | apply onEp_keeps | apply epSelf_keeps
      | (intro _; intros) | split | refine fst_keeps (by with_reducible assumption) ?_

theorem atEp_keeps {s0 : State} (s : State) (k : State → State) (h_k : ∀ y0, Keeps s0 y0 → Keeps s0 (k y0)) (hK :
    Keeps s0 s) : Keeps s0 (atEp s k) := by
  unfold atEp
  try dsimp only
  repeat' first
    | with_reducible first
        | assumption | apply h_k | apply epLoop_keeps | apply epSettle_keeps
    | (intro _; intros)

theorem epcWriteZe_keeps {s0 : State} (s : State) (a : Arrival) (hK : Keeps s0 s) : Keeps s0 (epcWriteZe s a) := by
  unfold epcWriteZe
  try dsimp only
  repeat' first
    | with_reducible first
        | assumption | apply ite_keeps | apply iteP_keeps | apply epRefuse_keeps | apply onEp_keeps
        | apply epFinish_keeps
    | (intro _; intros) | split | refine fst_keeps (by with_reducible assumption) ?_

theorem epDropCell_keeps {s0 : State} (s : State) (hK : Keeps s0 s) : Keeps s0 (epDropCell s) := by
  unfold epDropCell
  try dsimp only
  repeat' first
    | with_reducible first
        | assumption | apply onEp_keeps
    | (intro _; intros)

theorem epGiveUp_keeps {s0 : State} (s : State) (o : Op) (hK : Keeps s0 s) : Keeps s0 (epGiveUp s o) := by
  unfold epGiveUp
  try dsimp only
  repeat' first
    | with_reducible first
        | assumption | apply reportGiveUp_keeps | apply epResolved_keeps | apply onEpXp_keeps
    | (intro _; intros)

theorem epStagedGo_keeps {s0 : State} (s : State) (hK : Keeps s0 s) : Keeps s0 (epStagedGo s) := by
  unfold epStagedGo
  try dsimp only
  repeat' first
    | with_reducible first
        | assumption | apply foldl_keeps | apply foldlP_keeps | apply onEp_keeps
    | (intro _; intros)

end Sys2Proof.Machine
end

