-- ==== Sys2Proof/Laws/KeepsEpRows.lean ====
section
/-! SUPPORT. What the functions of EpRows keep. -/

namespace Sys2Proof.Machine

theorem relayTell_keeps {s0 : State} (s : State) (hK : Keeps s0 s) : Keeps s0 (relayTell s) := by
  unfold relayTell
  try dsimp only
  repeat' first
    | with_reducible first
        | assumption | apply ite_keeps | apply iteP_keeps | apply foldl_keeps | apply foldlP_keeps | apply emit_keeps
        | apply onEp_keeps
    | (intro _; intros) | split | refine fst_keeps (by with_reducible assumption) ?_

theorem execOpInval_keeps {s0 : State} (q : Fin 32) (s : State) (hK : Keeps s0 s) : OutKeeps s0 (execOpInval q s) :=
    by
  unfold execOpInval
  try dsimp only
  repeat' first
    | with_reducible first
        | assumption | apply OutKeeps.next | apply atEp_keeps | apply epTake_keeps
    | (intro _; intros)

theorem execProdDoorbell_keeps {s0 : State} (i : Fin 96) (prod : BitVec 32) (slots : List Desc) (s : State) (hK :
    Keeps s0 s) : OutKeeps s0 (execProdDoorbell i prod slots s) := by
  unfold execProdDoorbell
  try dsimp only
  repeat' first
    | with_reducible first
        | assumption | apply OutKeeps.next | apply prodDoorbell_keeps
    | (intro _; intros)

theorem execWinRd_keeps {s0 : State} (offset : BitVec 24) (tag : BitVec 16) (s : State) (hK : Keeps s0 s) : OutKeeps
    s0 (execWinRd offset tag s) := by
  unfold execWinRd
  try dsimp only
  repeat' first
    | with_reducible first
        | assumption | apply OutKeeps.next | apply emit_keeps
    | (intro _; intros)

theorem execRelay_keeps {s0 : State} (port : Fin 64) (pkt : Packet) (s : State) (hK : Keeps s0 s) : OutKeeps s0
    (execRelay port pkt s) := by
  unfold execRelay
  try dsimp only
  repeat' first
    | with_reducible first
        | assumption | apply ite_outKeeps | apply ite_keeps | apply iteP_keeps | apply OutKeeps.next
        | apply relayTell_keeps | apply onEp_keeps | apply emit_keeps
    | (intro _; intros) | split | refine fst_keeps (by with_reducible assumption) ?_

theorem epPortsGone_keeps {s0 : State} (s : State) (hK : Keeps s0 s) : Keeps s0 (epPortsGone s) := by
  unfold epPortsGone
  try dsimp only
  repeat' first
    | with_reducible first
        | assumption | apply ite_keeps | apply iteP_keeps | apply epUnconfigure_keeps
    | (intro _; intros) | split | refine fst_keeps (by with_reducible assumption) ?_

theorem epLosePort_keeps {s0 : State} (s : State) (p : Nat) (hK : Keeps s0 s) : Keeps s0 (epLosePort s p) := by
  unfold epLosePort
  try dsimp only
  repeat' first
    | with_reducible first
        | assumption | apply ite_keeps | apply iteP_keeps | apply onEp_keeps | apply onTn_keeps
        | apply epDropCell_keeps | apply epPortsGone_keeps
    | (intro _; intros) | split | refine fst_keeps (by with_reducible assumption) ?_

theorem execEp0LinkLoss_keeps {s0 : State} (s : State) (hK : Keeps s0 s) : OutKeeps s0 (execEp0LinkLoss s) := by
  unfold execEp0LinkLoss
  try dsimp only
  repeat' first
    | with_reducible first
        | assumption | apply OutKeeps.next | apply atEp_keeps | apply epLosePort_keeps
    | (intro _; intros)

theorem epFlitIn_keeps {s0 : State} (s : State) (port : Nat) (f : Flit) (hK : Keeps s0 s) : Keeps s0 (epFlitIn s port
    f) := by
  unfold epFlitIn
  try dsimp only
  repeat' first
    | with_reducible first
        | assumption | apply ite_keeps | apply iteP_keeps | apply foldl_keeps | apply foldlP_keeps | apply onEp_keeps
        | apply relayTell_keeps | apply emit_keeps
    | (intro _; intros) | split | refine fst_keeps (by with_reducible assumption) ?_

theorem execMrdCpl_keeps {s0 : State} (tag : Nat) (ok : Bool) (data : List Byte) (s : State) (hK : Keeps s0 s) :
    OutKeeps s0 (execMrdCpl tag ok data s) := by
  unfold execMrdCpl
  try dsimp only
  repeat' first
    | with_reducible first
        | assumption | apply OutKeeps.next | apply atEp_keeps | apply mrdEnd_keeps
    | split | (intro _; intros) | split | refine fst_keeps (by with_reducible assumption) ?_

theorem execOpRead_keeps {s0 : State} (q : Fin 32) (s : State) (hK : Keeps s0 s) : OutKeeps s0 (execOpRead q s) := by
  unfold execOpRead
  try dsimp only
  repeat' first
    | with_reducible first
        | assumption | apply OutKeeps.next | apply atEp_keeps | apply epTake_keeps
    | (intro _; intros)

theorem execCopyIn_keeps {s0 : State} (c : Fin 64) (s : State) (hK : Keeps s0 s) : OutKeeps s0 (execCopyIn c s) := by
  unfold execCopyIn
  try dsimp only
  repeat' first
    | with_reducible first
        | assumption | apply OutKeeps.next | apply atEp_keeps | apply epTake_keeps
    | (intro _; intros)

theorem execOpWrite_keeps {s0 : State} (q : Fin 32) (s : State) (hK : Keeps s0 s) : OutKeeps s0 (execOpWrite q s) :=
    by
  unfold execOpWrite
  try dsimp only
  repeat' first
    | with_reducible first
        | assumption | apply OutKeeps.next | apply atEp_keeps | apply epTake_keeps
    | (intro _; intros)

theorem execOpCounterRead_keeps {s0 : State} (q : Fin 32) (s : State) (hK : Keeps s0 s) : OutKeeps s0
    (execOpCounterRead q s) := by
  unfold execOpCounterRead
  try dsimp only
  repeat' first
    | with_reducible first
        | assumption | apply OutKeeps.next | apply atEp_keeps | apply epTake_keeps
    | (intro _; intros)

theorem epTrain_keeps {s0 : State} (s : State) (p : Nat) (hK : Keeps s0 s) : Keeps s0 (epTrain s p) := by
  unfold epTrain
  try dsimp only
  repeat' first
    | with_reducible first
        | assumption | apply emit_keeps
    | (intro _; intros)

theorem execEpConfigLoss_keeps {s0 : State} (s : State) (hK : Keeps s0 s) : OutKeeps s0 (execEpConfigLoss s) := by
  unfold execEpConfigLoss
  try dsimp only
  repeat' first
    | with_reducible first
        | assumption | apply OutKeeps.next | apply atEp_keeps | apply epLosePort_keeps
    | (intro _; intros)

theorem execOpFence_keeps {s0 : State} (q : Fin 32) (s : State) (hK : Keeps s0 s) : OutKeeps s0 (execOpFence q s) :=
    by
  unfold execOpFence
  try dsimp only
  repeat' first
    | with_reducible first
        | assumption | apply OutKeeps.next | apply atEp_keeps | apply epTake_keeps
    | (intro _; intros)

theorem execTileFence_keeps {s0 : State} (c : Fin 64) (s : State) (hK : Keeps s0 s) : OutKeeps s0 (execTileFence c s)
    := by
  unfold execTileFence
  try dsimp only
  repeat' first
    | with_reducible first
        | assumption | apply OutKeeps.next | apply atEp_keeps | apply epTake_keeps
    | (intro _; intros)

theorem epTemp_keeps {s0 : State} (s : State) (temp : Nat) (hK : Keeps s0 s) : Keeps s0 (epTemp s temp) := by
  unfold epTemp
  try dsimp only
  repeat' first
    | with_reducible first
        | assumption | apply ite_keeps | apply iteP_keeps | apply onEp_keeps | apply emit_keeps
    | (intro _; intros) | split | refine fst_keeps (by with_reducible assumption) ?_

theorem execPortEnable_keeps {s0 : State} (on : EpOn) (override_ : BitVec 2) (regs : List (Nat × BitVec 64)) (s :
    State) (hK : Keeps s0 s) : OutKeeps s0 (execPortEnable on override_ regs s) := by
  unfold execPortEnable
  try dsimp only
  repeat' first
    | with_reducible first
        | assumption | apply ite_outKeeps | apply ite_keeps | apply iteP_keeps | apply OutKeeps.next
        | apply foldl_keeps | apply foldlP_keeps | apply onEp_keeps | apply epLosePort_keeps | apply epTrain_keeps
    | (intro _; intros) | split | refine fst_keeps (by with_reducible assumption) ?_

theorem execAvoidanceExpire_keeps {s0 : State} (dst : Node) (t : Time) (s : State) (hK : Keeps s0 s) : OutKeeps s0
    (execAvoidanceExpire dst t s) := by
  unfold execAvoidanceExpire
  try dsimp only
  repeat' first
    | with_reducible first
        | assumption | apply OutKeeps.next | apply atEp_keeps | apply epAt_keeps | apply onEpXp_keeps
    | (intro _; intros)

theorem execEpConfigure_keeps {s0 : State} (node : Node) (inc : Byte) (locked : Bool) (s : State) (hK : Keeps s0 s) :
    OutKeeps s0 (execEpConfigure node inc locked s) := by
  unfold execEpConfigure
  try dsimp only
  repeat' first
    | with_reducible first
        | assumption | apply ite_outKeeps | apply ite_keeps | apply iteP_keeps | apply OutKeeps.next
        | apply onEp_keeps
    | (intro _; intros) | split | refine fst_keeps (by with_reducible assumption) ?_

theorem execContrib_keeps {s0 : State} (c : Fin 64) (s : State) (hK : Keeps s0 s) : OutKeeps s0 (execContrib c s) :=
    by
  unfold execContrib
  try dsimp only
  repeat' first
    | with_reducible first
        | assumption | apply OutKeeps.next | apply atEp_keeps | apply epTake_keeps
    | (intro _; intros)

theorem execMwrCpl_keeps {s0 : State} (tag : Nat) (ok : Bool) (s : State) (hK : Keeps s0 s) : OutKeeps s0 (execMwrCpl
    tag ok s) := by
  unfold execMwrCpl
  try dsimp only
  repeat' first
    | with_reducible first
        | assumption | apply OutKeeps.next | apply atEp_keeps | apply mwrEnd_keeps
    | split | (intro _; intros) | split | refine fst_keeps (by with_reducible assumption) ?_

theorem execOpAtomic_keeps {s0 : State} (q : Fin 32) (s : State) (hK : Keeps s0 s) : OutKeeps s0 (execOpAtomic q s) :=
    by
  unfold execOpAtomic
  try dsimp only
  repeat' first
    | with_reducible first
        | assumption | apply OutKeeps.next | apply atEp_keeps | apply epTake_keeps
    | (intro _; intros)

theorem execContribProbe_keeps {s0 : State} (binding : Fin 64) (t : Time) (s : State) (hK : Keeps s0 s) : OutKeeps s0
    (execContribProbe binding t s) := by
  unfold execContribProbe
  try dsimp only
  repeat' first
    | with_reducible first
        | assumption | apply ite_outKeeps | apply ite_keeps | apply iteP_keeps | apply OutKeeps.next
        | apply epAt_keeps | apply onEp_keeps | apply epMrd_keeps
    | split | (intro _; intros) | split | refine fst_keeps (by with_reducible assumption) ?_

theorem execD2dTimeout_keeps {s0 : State} (tag : Nat) (t : Time) (s : State) (hK : Keeps s0 s) : OutKeeps s0
    (execD2dTimeout tag t s) := by
  unfold execD2dTimeout
  try dsimp only
  repeat' first
    | with_reducible first
        | assumption | apply ite_outKeeps | apply ite_keeps | apply iteP_keeps | apply OutKeeps.next
        | apply epAt_keeps | apply atEp_keeps | apply mrdEnd_keeps | apply mwrEnd_keeps
    | split | (intro _; intros) | split | refine fst_keeps (by with_reducible assumption) ?_

theorem execEpThermalTrip_keeps {s0 : State} (temp : Nat) (s : State) (hK : Keeps s0 s) : OutKeeps s0
    (execEpThermalTrip temp s) := by
  unfold execEpThermalTrip
  try dsimp only
  repeat' first
    | with_reducible first
        | assumption | apply ite_outKeeps | apply ite_keeps | apply iteP_keeps | apply OutKeeps.next
        | apply epTemp_keeps | apply atEp_keeps | apply emit_keeps | apply reportEpDown_keeps | apply epLosePort_keeps
        | apply onEp_keeps
    | (intro _; intros) | split | refine fst_keeps (by with_reducible assumption) ?_

theorem execCopyOut_keeps {s0 : State} (c : Fin 64) (s : State) (hK : Keeps s0 s) : OutKeeps s0 (execCopyOut c s) :=
    by
  unfold execCopyOut
  try dsimp only
  repeat' first
    | with_reducible first
        | assumption | apply OutKeeps.next | apply atEp_keeps | apply epTake_keeps
    | (intro _; intros)

theorem execWinCounterWrite_keeps {s0 : State} (k : Fin 4096) (value : BitVec 64) (s : State) (hK : Keeps s0 s) :
    OutKeeps s0 (execWinCounterWrite k value s) := by
  unfold execWinCounterWrite
  try dsimp only
  repeat' first
    | with_reducible first
        | assumption | apply OutKeeps.next | apply onEp_keeps
    | (intro _; intros)

theorem execAbortDoorbell_keeps {s0 : State} (i : Fin 96) (target : BitVec 32) (tag : BitVec 32) (s : State) (hK :
    Keeps s0 s) : OutKeeps s0 (execAbortDoorbell i target tag s) := by
  unfold execAbortDoorbell
  try dsimp only
  repeat' first
    | with_reducible first
        | assumption | apply OutKeeps.next | apply atEp_keeps | apply abortDoorbell_keeps
    | (intro _; intros)

theorem execOpFlush_keeps {s0 : State} (q : Fin 32) (s : State) (hK : Keeps s0 s) : OutKeeps s0 (execOpFlush q s) :=
    by
  unfold execOpFlush
  try dsimp only
  repeat' first
    | with_reducible first
        | assumption | apply OutKeeps.next | apply atEp_keeps | apply epTake_keeps
    | (intro _; intros)

end Sys2Proof.Machine
end

