-- ==== Sys2Proof/Laws/KeepsSwCmds.lean ====
section
/-! SUPPORT. What the functions of SwCmds keep. -/

namespace Sys2Proof.Machine

theorem epcReadReq_keeps {s0 : State} (s : State) (c : Cause) (dst : Node) (off : Nat) (n : Nat) (hK : Keeps s0 s) :
    Keeps s0 (epcReadReq s c dst off n) := by
  unfold epcReadReq
  try dsimp only
  repeat' first
    | with_reducible first
        | assumption | apply sendMgmt_keeps
    | (intro _; intros)

theorem specEpQuery_keeps {s0 : State} (o : Origin) (d : Desc) (k : Pick) (s : State) (hK : Keeps s0 s) : Keeps s0
    ((specEpQuery).eff o d k s) := by
  unfold specEpQuery
  try dsimp only
  repeat' first
    | with_reducible first
        | assumption | apply epcReadReq_keeps
    | (intro _; intros)

theorem execEpQuery_keeps {s0 : State} (r : CmdRef) (d : Desc) (s : State) (hK : Keeps s0 s) : OutKeeps s0
    (execEpQuery r d s) := by
  unfold execEpQuery
  try dsimp only
  repeat' first
    | with_reducible first
        | assumption | apply OutKeeps.next | apply up_keeps | apply runRow_keeps | apply specEpQuery_keeps
    | (intro _; intros)

theorem specMcastClear_keeps {s0 : State} (o : Origin) (d : Desc) (k : Pick) (s : State) (hK : Keeps s0 s) : Keeps s0
    ((specMcastClear).eff o d k s) := by
  unfold specMcastClear
  try dsimp only
  repeat' first
    | with_reducible first
        | assumption | apply complete_keeps | apply onSwc_keeps
    | (intro _; intros)

theorem epcWriteReq_keeps {s0 : State} (s : State) (c : Cause) (dst : Node) (off : Nat) (data : List Byte) (staged :
    Option Time) (hK : Keeps s0 s) : Keeps s0 (epcWriteReq s c dst off data staged) := by
  unfold epcWriteReq
  try dsimp only
  repeat' first
    | with_reducible first
        | assumption | apply sendMgmt_keeps
    | (intro _; intros)

theorem clearEpRunner_keeps {s0 : State} (s : State) (c : Cause) (x : Fin 64 × Nat) (t : Option Time) (hK : Keeps s0
    s) : Keeps s0 (clearEpRunner s c x t) := by
  unfold clearEpRunner
  try dsimp only
  repeat' first
    | with_reducible first
        | assumption | apply epcWriteReq_keeps
    | (intro _; intros)

theorem runnerNow_keeps {s0 : State} (s : State) (o : Origin) (d : Desc) (e : Option Runner) (hK : Keeps s0 s) : Keeps
    s0 (runnerNow s o d e) := by
  unfold runnerNow
  try dsimp only
  repeat' first
    | with_reducible first
        | assumption | apply effectBegins_keeps | apply complete_keeps | apply onSwc_keeps
    | (intro _; intros) | split | refine fst_keeps (by with_reducible assumption) ?_

theorem runnerLater_keeps {s0 : State} (s : State) (o : Origin) (d : Desc) (e : Option Runner) (hK : Keeps s0 s) :
    Keeps s0 (runnerLater s o d e) := by
  unfold runnerLater
  try dsimp only
  repeat' first
    | with_reducible first
        | assumption | apply ite_keeps | apply iteP_keeps | apply onSwc_keeps | apply runnerNow_keeps
    | (intro _; intros) | split | refine fst_keeps (by with_reducible assumption) ?_

theorem specRunnerClear_keeps {s0 : State} (o : Origin) (d : Desc) (k : Pick) (s : State) (hK : Keeps s0 s) : Keeps s0
    ((specRunnerClear).eff o d k s) := by
  unfold specRunnerClear
  try dsimp only
  repeat' first
    | with_reducible first
        | assumption | apply clearEpRunner_keeps | apply runnerLater_keeps
    | (intro _; intros) | split | refine fst_keeps (by with_reducible assumption) ?_

theorem runnerSetGot_keeps {s0 : State} (s : State) (o : Origin) (d : Desc) (data : List Byte) (hK : Keeps s0 s) :
    Keeps s0 (runnerSetGot s o d data) := by
  unfold runnerSetGot
  try dsimp only
  repeat' first
    | with_reducible first
        | assumption | apply complete_keeps | apply epcWriteReq_keeps
    | (intro _; intros) | split | refine fst_keeps (by with_reducible assumption) ?_

theorem execRunnerClear_keeps {s0 : State} (r : CmdRef) (d : Desc) (s : State) (hK : Keeps s0 s) : OutKeeps s0
    (execRunnerClear r d s) := by
  unfold execRunnerClear
  try dsimp only
  repeat' first
    | with_reducible first
        | assumption | apply OutKeeps.next | apply up_keeps | apply runRow_keeps | apply specRunnerClear_keeps
    | (intro _; intros)

theorem specEpReduceBind_keeps {s0 : State} (o : Origin) (d : Desc) (k : Pick) (s : State) (hK : Keeps s0 s) : Keeps
    s0 ((specEpReduceBind).eff o d k s) := by
  unfold specEpReduceBind
  try dsimp only
  repeat' first
    | with_reducible first
        | assumption | apply epcWriteReq_keeps
    | (intro _; intros) | split | refine fst_keeps (by with_reducible assumption) ?_

theorem entrySpec_keeps {s0 : State} (op : Nat) (fields : List (Nat × Nat)) (o : Origin) (d : Desc) (k : Pick) (s :
    State) (hK : Keeps s0 s) : Keeps s0 ((entrySpec op fields).eff o d k s) := by
  unfold entrySpec
  try dsimp only
  repeat' first
    | with_reducible first
        | assumption | apply epcReadReq_keeps
    | (intro _; intros)

theorem specEpKeyRotate_keeps {s0 : State} (o : Origin) (d : Desc) (k : Pick) (s : State) (hK : Keeps s0 s) : Keeps s0
    ((specEpKeyRotate).eff o d k s) := by
  unfold specEpKeyRotate
  try dsimp only
  repeat' first
    | with_reducible first
        | assumption | apply entrySpec_keeps
    | (intro _; intros)

theorem specRouteSet_keeps {s0 : State} (o : Origin) (d : Desc) (k : Pick) (s : State) (hK : Keeps s0 s) : Keeps s0
    ((specRouteSet).eff o d k s) := by
  unfold specRouteSet
  try dsimp only
  repeat' first
    | with_reducible first
        | assumption | apply complete_keeps | apply onSwc_keeps
    | (intro _; intros) | split | refine fst_keeps (by with_reducible assumption) ?_

theorem specScheduleMode_keeps {s0 : State} (o : Origin) (d : Desc) (k : Pick) (s : State) (hK : Keeps s0 s) : Keeps
    s0 ((specScheduleMode).eff o d k s) := by
  unfold specScheduleMode
  try dsimp only
  repeat' first
    | with_reducible first
        | assumption | apply complete_keeps | apply onSwc_keeps
    | (intro _; intros)

theorem execScheduleMode_keeps {s0 : State} (r : CmdRef) (d : Desc) (s : State) (hK : Keeps s0 s) : OutKeeps s0
    (execScheduleMode r d s) := by
  unfold execScheduleMode
  try dsimp only
  repeat' first
    | with_reducible first
        | assumption | apply OutKeeps.next | apply up_keeps | apply runRow_keeps | apply specScheduleMode_keeps
    | (intro _; intros)

theorem specSwcQuery_keeps {s0 : State} (o : Origin) (d : Desc) (k : Pick) (s : State) (hK : Keeps s0 s) : Keeps s0
    ((specSwcQuery).eff o d k s) := by
  unfold specSwcQuery
  try dsimp only
  repeat' first
    | with_reducible first
        | assumption | apply queryOut_keeps
    | (intro _; intros)

theorem execSwcQuery_keeps {s0 : State} (r : CmdRef) (d : Desc) (s : State) (hK : Keeps s0 s) : OutKeeps s0
    (execSwcQuery r d s) := by
  unfold execSwcQuery
  try dsimp only
  repeat' first
    | with_reducible first
        | assumption | apply OutKeeps.next | apply up_keeps | apply runRow_keeps | apply specSwcQuery_keeps
    | (intro _; intros)

theorem execMcastClear_keeps {s0 : State} (r : CmdRef) (d : Desc) (s : State) (hK : Keeps s0 s) : OutKeeps s0
    (execMcastClear r d s) := by
  unfold execMcastClear
  try dsimp only
  repeat' first
    | with_reducible first
        | assumption | apply OutKeeps.next | apply up_keeps | apply runRow_keeps | apply specMcastClear_keeps
    | (intro _; intros)

theorem scanFrom_keeps {s0 : State} (s : State) (o : Origin) (d : Desc) (i : Nat) (hK : Keeps s0 s) : Keeps s0
    (scanFrom s o d i) := by
  unfold scanFrom
  try dsimp only
  repeat' first
    | with_reducible first
        | assumption | apply epcReadReq_keeps
    | (intro _; intros)

theorem specEpRangeCreate_keeps {s0 : State} (o : Origin) (d : Desc) (k : Pick) (s : State) (hK : Keeps s0 s) : Keeps
    s0 ((specEpRangeCreate).eff o d k s) := by
  unfold specEpRangeCreate
  try dsimp only
  repeat' first
    | with_reducible first
        | assumption | apply scanFrom_keeps
    | (intro _; intros)

theorem execEpRangeCreate_keeps {s0 : State} (r : CmdRef) (d : Desc) (s : State) (hK : Keeps s0 s) : OutKeeps s0
    (execEpRangeCreate r d s) := by
  unfold execEpRangeCreate
  try dsimp only
  repeat' first
    | with_reducible first
        | assumption | apply OutKeeps.next | apply up_keeps | apply runRow_keeps | apply specEpRangeCreate_keeps
    | (intro _; intros)

theorem specEpBind_keeps {s0 : State} (o : Origin) (d : Desc) (k : Pick) (s : State) (hK : Keeps s0 s) : Keeps s0
    ((specEpBind).eff o d k s) := by
  unfold specEpBind
  try dsimp only
  repeat' first
    | with_reducible first
        | assumption | apply epcWriteReq_keeps
    | (intro _; intros) | split | refine fst_keeps (by with_reducible assumption) ?_

theorem specEpRangeDestroy_keeps {s0 : State} (o : Origin) (d : Desc) (k : Pick) (s : State) (hK : Keeps s0 s) : Keeps
    s0 ((specEpRangeDestroy).eff o d k s) := by
  unfold specEpRangeDestroy
  try dsimp only
  repeat' first
    | with_reducible first
        | assumption | apply entrySpec_keeps
    | (intro _; intros)

theorem specEpKeyRevoke_keeps {s0 : State} (o : Origin) (d : Desc) (k : Pick) (s : State) (hK : Keeps s0 s) : Keeps s0
    ((specEpKeyRevoke).eff o d k s) := by
  unfold specEpKeyRevoke
  try dsimp only
  repeat' first
    | with_reducible first
        | assumption | apply entrySpec_keeps
    | (intro _; intros)

theorem execEpKeyRevoke_keeps {s0 : State} (r : CmdRef) (d : Desc) (s : State) (hK : Keeps s0 s) : OutKeeps s0
    (execEpKeyRevoke r d s) := by
  unfold execEpKeyRevoke
  try dsimp only
  repeat' first
    | with_reducible first
        | assumption | apply OutKeeps.next | apply up_keeps | apply runRow_keeps | apply specEpKeyRevoke_keeps
    | (intro _; intros)

theorem restartLow_keeps {s0 : State} (s : State) (quad : Fin 4) (hK : Keeps s0 s) : Keeps s0 (restartLow s quad) :=
    by
  unfold restartLow
  try dsimp only
  repeat' first
    | with_reducible first
        | assumption | apply ite_keeps | apply iteP_keeps | apply onSwc_keeps
    | (intro _; intros) | split | refine fst_keeps (by with_reducible assumption) ?_

theorem execEpBind_keeps {s0 : State} (r : CmdRef) (d : Desc) (s : State) (hK : Keeps s0 s) : OutKeeps s0 (execEpBind
    r d s) := by
  unfold execEpBind
  try dsimp only
  repeat' first
    | with_reducible first
        | assumption | apply OutKeeps.next | apply up_keeps | apply runRow_keeps | apply specEpBind_keeps
    | (intro _; intros)

theorem specRunnerSet_keeps {s0 : State} (o : Origin) (d : Desc) (k : Pick) (s : State) (hK : Keeps s0 s) : Keeps s0
    ((specRunnerSet).eff o d k s) := by
  unfold specRunnerSet
  try dsimp only
  repeat' first
    | with_reducible first
        | assumption | apply epcReadReq_keeps | apply runnerLater_keeps
    | (intro _; intros) | split | refine fst_keeps (by with_reducible assumption) ?_

theorem execRunnerSet_keeps {s0 : State} (r : CmdRef) (d : Desc) (s : State) (hK : Keeps s0 s) : OutKeeps s0
    (execRunnerSet r d s) := by
  unfold execRunnerSet
  try dsimp only
  repeat' first
    | with_reducible first
        | assumption | apply OutKeeps.next | apply up_keeps | apply runRow_keeps | apply specRunnerSet_keeps
    | (intro _; intros)

theorem epcGot_keeps {s0 : State} (s : State) (o : Origin) (d : Desc) (i : Nat) (data : List Byte) (hK : Keeps s0 s) :
    Keeps s0 (epcGot s o d i data) := by
  unfold epcGot
  try dsimp only
  repeat' first
    | with_reducible first
        | assumption | apply ite_keeps | apply iteP_keeps | apply runnerSetGot_keeps | apply epcWriteReq_keeps
        | apply complete_keeps | apply scanFrom_keeps | apply queryOut_keeps
    | (intro _; intros) | split | refine fst_keeps (by with_reducible assumption) ?_

theorem execRouteSet_keeps {s0 : State} (r : CmdRef) (d : Desc) (s : State) (hK : Keeps s0 s) : OutKeeps s0
    (execRouteSet r d s) := by
  unfold execRouteSet
  try dsimp only
  repeat' first
    | with_reducible first
        | assumption | apply OutKeeps.next | apply up_keeps | apply runRow_keeps | apply specRouteSet_keeps
    | (intro _; intros)

theorem execVoqEnqueue_keeps {s0 : State} (port : Fin 64) (vc : Fin 8) (s : State) (hK : Keeps s0 s) : OutKeeps s0
    (execVoqEnqueue port vc s) := by
  unfold execVoqEnqueue
  try dsimp only
  repeat' first
    | with_reducible first
        | assumption | apply ite_outKeeps | apply ite_keeps | apply iteP_keeps | apply OutKeeps.next | apply up_keeps
        | apply onSwc_keeps | apply enqueueNow_keeps
    | split | (intro _; intros) | split | refine fst_keeps (by with_reducible assumption) ?_

theorem takeRx_keeps {s0 : State} (s : State) (port : Fin 64) (vc : Fin 8) (pkt : Packet) (hK : Keeps s0 s) : Keeps s0
    (takeRx s port vc pkt) := by
  unfold takeRx
  try dsimp only
  repeat' first
    | with_reducible first
        | assumption | apply onLnk_keeps
    | (intro _; intros)

theorem specMcastSet_keeps {s0 : State} (o : Origin) (d : Desc) (k : Pick) (s : State) (hK : Keeps s0 s) : Keeps s0
    ((specMcastSet).eff o d k s) := by
  unfold specMcastSet
  try dsimp only
  repeat' first
    | with_reducible first
        | assumption | apply complete_keeps | apply onSwc_keeps
    | (intro _; intros)

theorem runnersGo_keeps {s0 : State} (s : State) (hK : Keeps s0 s) : Keeps s0 (runnersGo s) := by
  unfold runnersGo
  try dsimp only
  repeat' first
    | with_reducible first
        | assumption | apply foldl_keeps | apply foldlP_keeps | apply onSwc_keeps | apply runnerNow_keeps
        | apply clearEpRunner_keeps | apply complete_keeps
    | (intro _; intros) | split | refine fst_keeps (by with_reducible assumption) ?_

theorem forwardPacket_keeps {s0 : State} (s : State) (port : Fin 64) (vc : Fin 8) (pkt : Packet) (hK : Keeps s0 s) :
    Keeps s0 (forwardPacket s port vc pkt) := by
  unfold forwardPacket
  try dsimp only
  repeat' first
    | with_reducible first
        | assumption | apply ite_keeps | apply iteP_keeps | apply tracePacket_keeps | apply mcastForward_keeps
        | apply onSwc_keeps | apply storePacket_keeps | apply countNoroute_keeps | apply enqueue_keeps
        | apply routeTaken_keeps
    | (intro _; intros) | split | refine fst_keeps (by with_reducible assumption) ?_

theorem execPacketForward_keeps {s0 : State} (port : Fin 64) (vc : Fin 8) (pkt : Packet) (s : State) (hK : Keeps s0 s)
    : OutKeeps s0 (execPacketForward port vc pkt s) := by
  unfold execPacketForward
  try dsimp only
  repeat' first
    | with_reducible first
        | assumption | apply ite_outKeeps | apply ite_keeps | apply iteP_keeps | apply OutKeeps.next | apply up_keeps
        | apply forwardPacket_keeps | apply takeRx_keeps
    | (intro _; intros) | split | refine fst_keeps (by with_reducible assumption) ?_

theorem execMcastSet_keeps {s0 : State} (r : CmdRef) (d : Desc) (s : State) (hK : Keeps s0 s) : OutKeeps s0
    (execMcastSet r d s) := by
  unfold execMcastSet
  try dsimp only
  repeat' first
    | with_reducible first
        | assumption | apply OutKeeps.next | apply up_keeps | apply runRow_keeps | apply specMcastSet_keeps
    | (intro _; intros)

theorem execEpKeyRotate_keeps {s0 : State} (r : CmdRef) (d : Desc) (s : State) (hK : Keeps s0 s) : OutKeeps s0
    (execEpKeyRotate r d s) := by
  unfold execEpKeyRotate
  try dsimp only
  repeat' first
    | with_reducible first
        | assumption | apply OutKeeps.next | apply up_keeps | apply runRow_keeps | apply specEpKeyRotate_keeps
    | (intro _; intros)

theorem execEpRangeDestroy_keeps {s0 : State} (r : CmdRef) (d : Desc) (s : State) (hK : Keeps s0 s) : OutKeeps s0
    (execEpRangeDestroy r d s) := by
  unfold execEpRangeDestroy
  try dsimp only
  repeat' first
    | with_reducible first
        | assumption | apply OutKeeps.next | apply up_keeps | apply runRow_keeps | apply specEpRangeDestroy_keeps
    | (intro _; intros)

theorem execSwcQbufLowRestart_keeps {s0 : State} (quad : Fin 4) (s : State) (hK : Keeps s0 s) : OutKeeps s0
    (execSwcQbufLowRestart quad s) := by
  unfold execSwcQbufLowRestart
  try dsimp only
  repeat' first
    | with_reducible first
        | assumption | apply OutKeeps.next | apply up_keeps | apply restartLow_keeps
    | (intro _; intros)

theorem noteBound_keeps {s0 : State} (s : State) (d : Desc) (hK : Keeps s0 s) : Keeps s0 (noteBound s d) := by
  unfold noteBound
  try dsimp only
  repeat' first
    | with_reducible first
        | assumption | apply ite_keeps | apply iteP_keeps | apply onSwc_keeps
    | (intro _; intros) | split | refine fst_keeps (by with_reducible assumption) ?_

theorem epcEnded_keeps {s0 : State} (s : State) (o : Origin) (d : Desc) (i : Nat) (st : Status) (hK : Keeps s0 s) :
    Keeps s0 (epcEnded s o d i st) := by
  unfold epcEnded
  try dsimp only
  repeat' first
    | with_reducible first
        | assumption | apply ite_keeps | apply iteP_keeps | apply runnerLater_keeps | apply complete_keeps
        | apply noteBound_keeps | apply onRgn_keeps
    | (intro _; intros) | split | refine fst_keeps (by with_reducible assumption) ?_

theorem execMulticastForward_keeps {s0 : State} (port : Fin 64) (pkt : Packet) (s : State) (hK : Keeps s0 s) :
    OutKeeps s0 (execMulticastForward port pkt s) := by
  unfold execMulticastForward
  try dsimp only
  repeat' first
    | with_reducible first
        | assumption | apply ite_outKeeps | apply ite_keeps | apply iteP_keeps | apply OutKeeps.next | apply up_keeps
        | apply mcastForward_keeps | apply takeRx_keeps
    | (intro _; intros) | split | refine fst_keeps (by with_reducible assumption) ?_

theorem execRunnerRestore_keeps {s0 : State} (t : Time) (s : State) (hK : Keeps s0 s) : OutKeeps s0 (execRunnerRestore
    t s) := by
  unfold execRunnerRestore
  try dsimp only
  repeat' first
    | with_reducible first
        | assumption | apply ite_outKeeps | apply ite_keeps | apply iteP_keeps | apply OutKeeps.next | apply up_keeps
        | apply at__keeps | apply onSwc_keeps
    | (intro _; intros) | split | refine fst_keeps (by with_reducible assumption) ?_

theorem execEpReduceBind_keeps {s0 : State} (r : CmdRef) (d : Desc) (s : State) (hK : Keeps s0 s) : OutKeeps s0
    (execEpReduceBind r d s) := by
  unfold execEpReduceBind
  try dsimp only
  repeat' first
    | with_reducible first
        | assumption | apply OutKeeps.next | apply up_keeps | apply runRow_keeps | apply specEpReduceBind_keeps
    | (intro _; intros)

end Sys2Proof.Machine
end

