-- ==== Sys2Proof/Laws/KeepsLinks.lean ====
section
/-! SUPPORT. What the functions of Links keep. -/

namespace Sys2Proof.Machine

theorem execEcho_keeps {s0 : State} (port : Fin 64) (departed : Time) (arrived : Time) (turnaround : Nat) (s : State)
    (hK : Keeps s0 s) : OutKeeps s0 (execEcho port departed arrived turnaround s) := by
  unfold execEcho
  try dsimp only
  repeat' first
    | with_reducible first
        | assumption | apply ite_outKeeps | apply ite_keeps | apply iteP_keeps | apply OutKeeps.next | apply up_keeps
        | apply onLink_keeps
    | (intro _; intros) | split | refine fst_keeps (by with_reducible assumption) ?_

theorem onLane_keeps {s0 : State} (s : State) (n : Fin 256) (f : LaneSt → LaneSt) (hK : Keeps s0 s) : Keeps s0 (onLane
    s n f) := by
  unfold onLane
  try dsimp only
  repeat' first
    | with_reducible first
        | assumption | apply onLnk_keeps
    | (intro _; intros)

theorem putFlit_keeps {s0 : State} (s : State) (p : Fin 64) (f : Flit) (hK : Keeps s0 s) : Keeps s0 (putFlit s p f) :=
    by
  unfold putFlit
  try dsimp only
  repeat' first
    | with_reducible first
        | assumption | apply foldl_keeps | apply foldlP_keeps | apply emit_keeps | apply onLane_keeps
    | (intro _; intros)

theorem sendFlit_keeps {s0 : State} (s : State) (p : Fin 64) (f : Flit) (hK : Keeps s0 s) : Keeps s0 (sendFlit s p f)
    := by
  unfold sendFlit
  try dsimp only
  repeat' first
    | with_reducible first
        | assumption | apply putFlit_keeps | apply onLink_keeps
    | (intro _; intros)

theorem endRetrain_keeps {s0 : State} (s : State) (p : Nat) (st : Status) (hK : Keeps s0 s) : Keeps s0 (endRetrain s p
    st) := by
  unfold endRetrain
  try dsimp only
  repeat' first
    | with_reducible first
        | assumption | apply complete_keeps | apply onLink_keeps
    | (intro _; intros) | split | refine fst_keeps (by with_reducible assumption) ?_

theorem setLinkState_keeps {s0 : State} (s : State) (p : Nat) (st : BitVec 4) (hK : Keeps s0 s) : Keeps s0
    (setLinkState s p st) := by
  unfold setLinkState
  try dsimp only
  repeat' first
    | with_reducible first
        | assumption | apply traceLink_keeps | apply onLink_keeps
    | (intro _; intros)

theorem countPartly_keeps {s0 : State} (x0 : Nat) (x1 : State) (hK : Keeps s0 x1) : Keeps s0 (countPartly x0 x1) := by
  induction x0 generalizing x1
  case zero =>
    unfold countPartly
    try dsimp only
    repeat' first
      | with_reducible first
          | assumption | apply ite_keeps | apply iteP_keeps | apply stepFree_keeps | apply onSwc_keeps
      | (intro _; intros) | split | refine fst_keeps (by with_reducible assumption) ?_
  case succ n ih =>
    unfold countPartly
    try dsimp only
    repeat' first
      | with_reducible first
          | assumption | apply ih | apply ite_keeps | apply iteP_keeps | apply stepFree_keeps | apply onSwc_keeps
      | (intro _; intros) | split | refine fst_keeps (by with_reducible assumption) ?_

theorem dropBursts_keeps {s0 : State} (s : State) (p : Fin 64) (hK : Keeps s0 s) : Keeps s0 (dropBursts s p) := by
  unfold dropBursts
  try dsimp only
  repeat' first
    | with_reducible first
        | assumption | apply onSwc_keeps | apply at__keeps
    | (intro _; intros)

theorem dropEgress_keeps {s0 : State} (s : State) (p : Fin 64) (hK : Keeps s0 s) : Keeps s0 (dropEgress s p) := by
  unfold dropEgress
  try dsimp only
  repeat' first
    | with_reducible first
        | assumption | apply foldl_keeps | apply foldlP_keeps | apply dropBursts_keeps | apply onSwc_keeps
        | apply release_keeps
    | (intro _; intros)

theorem leaveService_keeps {s0 : State} (s : State) (p : Fin 64) (hK : Keeps s0 s) : Keeps s0 (leaveService s p) := by
  unfold leaveService
  try dsimp only
  repeat' first
    | with_reducible first
        | assumption | apply ite_keeps | apply iteP_keeps | apply emit_keeps | apply countPartly_keeps
        | apply onLink_keeps | apply dropEgress_keeps | apply onFlt_keeps | apply memberLost_keeps
    | (intro _; intros) | split | refine fst_keeps (by with_reducible assumption) ?_

theorem stayOut_keeps {s0 : State} (s : State) (p : Fin 64) (cause : BitVec 4) (hK : Keeps s0 s) : Keeps s0 (stayOut s
    p cause) := by
  unfold stayOut
  try dsimp only
  repeat' first
    | with_reducible first
        | assumption | apply onLink_keeps | apply capCheck_keeps | apply endRetrain_keeps | apply setLinkState_keeps
        | apply leaveService_keeps
    | (intro _; intros)

theorem failLink_keeps {s0 : State} (s : State) (p : Fin 64) (cause : BitVec 4) (hK : Keeps s0 s) : Keeps s0 (failLink
    s p cause) := by
  unfold failLink
  try dsimp only
  repeat' first
    | with_reducible first
        | assumption | apply ite_keeps | apply iteP_keeps | apply stayOut_keeps | apply originateReport_keeps
    | (intro _; intros) | split | refine fst_keeps (by with_reducible assumption) ?_

theorem takeData_keeps {s0 : State} (s : State) (p : Fin 64) (f : Flit) (hK : Keeps s0 s) : Keeps s0 (takeData s p f)
    := by
  unfold takeData
  try dsimp only
  repeat' first
    | with_reducible first
        | assumption | apply ite_keeps | apply iteP_keeps | apply onLink_keeps | apply onLnk_keeps
        | apply failLink_keeps
    | (intro _; intros) | split | refine fst_keeps (by with_reducible assumption) ?_

theorem acceptFlit_keeps {s0 : State} (s : State) (p : Fin 64) (burst : Bool) (f : Flit) (hK : Keeps s0 s) : Keeps s0
    (acceptFlit s p burst f) := by
  unfold acceptFlit
  try dsimp only
  repeat' first
    | with_reducible first
        | assumption | apply ite_keeps | apply iteP_keeps | apply onLink_keeps | apply onFc_keeps
        | apply takeData_keeps
    | (intro _; intros) | split | refine fst_keeps (by with_reducible assumption) ?_

theorem trainOut_keeps {s0 : State} (s : State) (p : Fin 64) (n : Nat) (hK : Keeps s0 s) : Keeps s0 (trainOut s p n)
    := by
  unfold trainOut
  try dsimp only
  repeat' first
    | with_reducible first
        | assumption | apply foldl_keeps | apply foldlP_keeps | apply emit_keeps | apply onLane_keeps
        | apply block_keeps
    | (intro _; intros)

theorem startBringup_keeps {s0 : State} (s : State) (p : Fin 64) (attempt : Nat) (hK : Keeps s0 s) : Keeps s0
    (startBringup s p attempt) := by
  unfold startBringup
  try dsimp only
  repeat' first
    | with_reducible first
        | assumption | apply foldl_keeps | apply foldlP_keeps | apply onLane_keeps | apply onLink_keeps
        | apply trainOut_keeps | apply setLinkState_keeps | apply block_keeps
    | (intro _; intros)

theorem failStep_keeps {s0 : State} (s : State) (p : Fin 64) (cause : BitVec 4) (hK : Keeps s0 s) : Keeps s0 (failStep
    s p cause) := by
  unfold failStep
  try dsimp only
  repeat' first
    | with_reducible first
        | assumption | apply ite_keeps | apply iteP_keeps | apply onLink_keeps | apply startBringup_keeps
        | apply stayOut_keeps
    | (intro _; intros) | split | refine fst_keeps (by with_reducible assumption) ?_

theorem slipLanes_keeps {s0 : State} (s : State) (ns : List (Fin 256)) (hK : Keeps s0 s) : Keeps s0 (slipLanes s ns)
    := by
  unfold slipLanes
  try dsimp only
  repeat' first
    | with_reducible first
        | assumption | apply foldl_keeps | apply foldlP_keeps | apply onLane_keeps
    | (intro _; intros)

theorem execLinkSearchStep_keeps {s0 : State} (port : Fin 64) (s : State) (hK : Keeps s0 s) : OutKeeps s0
    (execLinkSearchStep port s) := by
  unfold execLinkSearchStep
  try dsimp only
  repeat' first
    | with_reducible first
        | assumption | apply ite_outKeeps | apply ite_keeps | apply iteP_keeps | apply OutKeeps.next | apply up_keeps
        | apply failStep_keeps | apply onLink_keeps | apply slipLanes_keeps
    | (intro _; intros) | split | refine fst_keeps (by with_reducible assumption) ?_

theorem runCheck_keeps {s0 : State} (s : State) (p : Fin 64) (hK : Keeps s0 s) : Keeps s0 (runCheck s p) := by
  unfold runCheck
  try dsimp only
  repeat' first
    | with_reducible first
        | assumption | apply ite_keeps | apply iteP_keeps | apply failStep_keeps | apply failLink_keeps
    | (intro _; intros) | split | refine fst_keeps (by with_reducible assumption) ?_

theorem execReplay_keeps {s0 : State} (port : Fin 64) (t : Time) (s : State) (hK : Keeps s0 s) : OutKeeps s0
    (execReplay port t s) := by
  unfold execReplay
  try dsimp only
  repeat' first
    | with_reducible first
        | assumption | apply ite_outKeeps | apply ite_keeps | apply iteP_keeps | apply OutKeeps.next
        | apply foldl_keeps | apply foldlP_keeps | apply up_keeps | apply at__keeps | apply onLink_keeps
        | apply countReplay_keeps | apply putFlit_keeps | apply runCheck_keeps
    | (intro _; intros) | split | refine fst_keeps (by with_reducible assumption) ?_

theorem sendRunner_keeps {s0 : State} (s : State) (p : Fin 64) (t : Time) (b : BurstFlit) (hK : Keeps s0 s) : Keeps s0
    (sendRunner s p t b) := by
  unfold sendRunner
  try dsimp only
  repeat' first
    | with_reducible first
        | assumption | apply onSwc_keeps | apply sendFlit_keeps | apply onFc_keeps | apply onLink_keeps
    | (intro _; intros)

theorem sendOrdinary_keeps {s0 : State} (s : State) (p : Fin 64) (t : Time) (vc : Fin 8) (hK : Keeps s0 s) : Keeps s0
    (sendOrdinary s p t vc) := by
  unfold sendOrdinary
  try dsimp only
  repeat' first
    | with_reducible first
        | assumption | apply ite_keeps | apply iteP_keeps | apply tracePacket_keeps | apply sendFlit_keeps
        | apply onLink_keeps | apply onFc_keeps | apply onSwc_keeps | apply release_keeps
    | (intro _; intros) | split | refine fst_keeps (by with_reducible assumption) ?_

theorem execEgressFlitSend_keeps {s0 : State} (port : Fin 64) (t : Time) (s : State) (hK : Keeps s0 s) : OutKeeps s0
    (execEgressFlitSend port t s) := by
  unfold execEgressFlitSend
  try dsimp only
  repeat' first
    | with_reducible first
        | assumption | apply ite_outKeeps | apply ite_keeps | apply iteP_keeps | apply OutKeeps.next | apply up_keeps
        | apply at__keeps | apply sendFlit_keeps | apply sendRunner_keeps | apply onSwc_keeps
        | apply sendOrdinary_keeps | apply onFc_keeps
    | split | (intro _; intros) | split | refine fst_keeps (by with_reducible assumption) ?_

theorem deskew_keeps {s0 : State} (s : State) (p : Fin 64) (l : List LaneMark) (hK : Keeps s0 s) : Keeps s0 (deskew s
    p l) := by
  unfold deskew
  try dsimp only
  repeat' first
    | with_reducible first
        | assumption | apply ite_keeps | apply iteP_keeps | apply foldl_keeps | apply foldlP_keeps
        | apply failStep_keeps | apply onLane_keeps | apply onLink_keeps
    | (intro _; intros) | split | refine fst_keeps (by with_reducible assumption) ?_

theorem specLinkDisable_keeps {s0 : State} (o : Origin) (d : Desc) (k : Pick) (s : State) (hK : Keeps s0 s) : Keeps s0
    ((specLinkDisable).eff o d k s) := by
  unfold specLinkDisable
  try dsimp only
  repeat' first
    | with_reducible first
        | assumption | apply complete_keeps | apply failLink_keeps
    | (intro _; intros)

theorem specLinkRetrain_keeps {s0 : State} (o : Origin) (d : Desc) (k : Pick) (s : State) (hK : Keeps s0 s) : Keeps s0
    ((specLinkRetrain).eff o d k s) := by
  unfold specLinkRetrain
  try dsimp only
  repeat' first
    | with_reducible first
        | assumption | apply ite_keeps | apply iteP_keeps | apply setLinkState_keeps | apply leaveService_keeps
        | apply onLink_keeps | apply startBringup_keeps
    | (intro _; intros) | split | refine fst_keeps (by with_reducible assumption) ?_

theorem execLinkRetrain_keeps {s0 : State} (r : CmdRef) (d : Desc) (s : State) (hK : Keeps s0 s) : OutKeeps s0
    (execLinkRetrain r d s) := by
  unfold execLinkRetrain
  try dsimp only
  repeat' first
    | with_reducible first
        | assumption | apply OutKeeps.next | apply up_keeps | apply runRow_keeps | apply specLinkRetrain_keeps
    | (intro _; intros)

theorem execPing_keeps {s0 : State} (port : Fin 64) (_stamp : BitVec 32) (turnaround : Nat) (s : State) (hK : Keeps s0
    s) : OutKeeps s0 (execPing port _stamp turnaround s) := by
  unfold execPing
  try dsimp only
  repeat' first
    | with_reducible first
        | assumption | apply ite_outKeeps | apply ite_keeps | apply iteP_keeps | apply OutKeeps.next | apply up_keeps
        | apply onLink_keeps
    | (intro _; intros) | split | refine fst_keeps (by with_reducible assumption) ?_

theorem wakeTx_keeps {s0 : State} (s : State) (p : Fin 64) (hK : Keeps s0 s) : Keeps s0 (wakeTx s p) := by
  unfold wakeTx
  try dsimp only
  repeat' first
    | with_reducible first
        | assumption | apply ite_keeps | apply iteP_keeps | apply trainOut_keeps | apply capCheck_keeps
        | apply onLink_keeps
    | (intro _; intros) | split | refine fst_keeps (by with_reducible assumption) ?_

theorem flitLost_keeps {s0 : State} (s : State) (p : Fin 64) (hK : Keeps s0 s) : Keeps s0 (flitLost s p) := by
  unfold flitLost
  try dsimp only
  repeat' first
    | with_reducible first
        | assumption | apply runCheck_keeps | apply onLink_keeps
    | (intro _; intros)

theorem takeAck_keeps {s0 : State} (s : State) (p : Fin 64) (f : Flit) (hK : Keeps s0 s) : Keeps s0 (takeAck s p f) :=
    by
  unfold takeAck
  try dsimp only
  repeat' first
    | with_reducible first
        | assumption | apply ite_keeps | apply iteP_keeps | apply onLink_keeps
    | (intro _; intros) | split | refine fst_keeps (by with_reducible assumption) ?_

theorem flitAs_keeps {s0 : State} (burst : Bool) (port : Fin 64) (f : Flit) (s : State) (hK : Keeps s0 s) : Keeps s0
    (flitAs burst port f s) := by
  unfold flitAs
  try dsimp only
  repeat' first
    | with_reducible first
        | assumption | apply ite_keeps | apply iteP_keeps | apply onLink_keeps | apply flitLost_keeps
        | apply takeAck_keeps | apply onFc_keeps | apply wakeTx_keeps | apply acceptFlit_keeps
    | (intro _; intros) | split | refine fst_keeps (by with_reducible assumption) ?_

theorem execSleepWake_keeps {s0 : State} (port : Fin 64) (s : State) (hK : Keeps s0 s) : OutKeeps s0 (execSleepWake
    port s) := by
  unfold execSleepWake
  try dsimp only
  repeat' first
    | with_reducible first
        | assumption | apply ite_outKeeps | apply ite_keeps | apply iteP_keeps | apply OutKeeps.next | apply up_keeps
        | apply wakeTx_keeps
    | (intro _; intros) | split | refine fst_keeps (by with_reducible assumption) ?_

theorem flitIn_keeps {s0 : State} (port : Fin 64) (f : Flit) (s : State) (hK : Keeps s0 s) : Keeps s0 (flitIn port f
    s) := by
  unfold flitIn
  try dsimp only
  repeat' first
    | with_reducible first
        | assumption | apply flitAs_keeps
    | (intro _; intros)

theorem writePortCtrl_keeps {s0 : State} (s : State) (p : Fin 64) (sleep : Bool) (search : Bool) (hK : Keeps s0 s) :
    Keeps s0 (writePortCtrl s p sleep search) := by
  unfold writePortCtrl
  try dsimp only
  repeat' first
    | with_reducible first
        | assumption | apply ite_keeps | apply iteP_keeps | apply onLink_keeps | apply wakeTx_keeps
    | (intro _; intros) | split | refine fst_keeps (by with_reducible assumption) ?_

theorem execSleepDisable_keeps {s0 : State} (port : Fin 64) (s : State) (hK : Keeps s0 s) : OutKeeps s0
    (execSleepDisable port s) := by
  unfold execSleepDisable
  try dsimp only
  repeat' first
    | with_reducible first
        | assumption | apply ite_outKeeps | apply ite_keeps | apply iteP_keeps | apply OutKeeps.next | apply up_keeps
        | apply writePortCtrl_keeps
    | (intro _; intros) | split | refine fst_keeps (by with_reducible assumption) ?_

theorem execFlitReceive_keeps {s0 : State} (at_ : LinkEnd) (f : Flit) (s : State) (hK : Keeps s0 s) : OutKeeps s0
    (execFlitReceive at_ f s) := by
  unfold execFlitReceive
  try dsimp only
  repeat' first
    | with_reducible first
        | assumption | apply OutKeeps.next | apply up_keeps | apply capCheck_keeps | apply flitIn_keeps
        | apply epFlitIn_keeps | apply at__keeps
    | split | (intro _; intros) | split | refine fst_keeps (by with_reducible assumption) ?_

theorem burstIn_keeps {s0 : State} (s : State) (p : Fin 64) (fs : List Flit) (hK : Keeps s0 s) : Keeps s0 (burstIn s p
    fs).1 := by
  unfold burstIn
  try dsimp only
  repeat' first
    | with_reducible first
        | assumption | apply ite_keeps | apply iteP_keeps | apply foldl_keeps | apply foldlP_keeps
        | apply flitAs_keeps
    | (intro _; intros) | split | refine fst_keeps (by with_reducible assumption) ?_

theorem execLinkFail_keeps {s0 : State} (port : Fin 64) (cause : BitVec 4) (s : State) (hK : Keeps s0 s) : OutKeeps s0
    (execLinkFail port cause s) := by
  unfold execLinkFail
  try dsimp only
  repeat' first
    | with_reducible first
        | assumption | apply ite_outKeeps | apply ite_keeps | apply iteP_keeps | apply OutKeeps.next | apply up_keeps
        | apply failLink_keeps
    | (intro _; intros) | split | refine fst_keeps (by with_reducible assumption) ?_

theorem execSleepEnter_keeps {s0 : State} (port : Fin 64) (t : Time) (s : State) (hK : Keeps s0 s) : OutKeeps s0
    (execSleepEnter port t s) := by
  unfold execSleepEnter
  try dsimp only
  repeat' first
    | with_reducible first
        | assumption | apply ite_outKeeps | apply ite_keeps | apply iteP_keeps | apply OutKeeps.next | apply up_keeps
        | apply at__keeps | apply onLink_keeps | apply sendFlit_keeps | apply capCheck_keeps
    | (intro _; intros) | split | refine fst_keeps (by with_reducible assumption) ?_

theorem enterService_keeps {s0 : State} (s : State) (p : Fin 64) (hK : Keeps s0 s) : Keeps s0 (enterService s p) := by
  unfold enterService
  try dsimp only
  repeat' first
    | with_reducible first
        | assumption | apply ite_keeps | apply iteP_keeps | apply onLink_keeps | apply capCheck_keeps
        | apply endRetrain_keeps | apply setLinkState_keeps | apply epcReadReq_keeps
    | (intro _; intros) | split | refine fst_keeps (by with_reducible assumption) ?_

theorem burstGo_keeps {s0 : State} (s : State) (port : Fin 64) (t : Time) (i : Nat) (r : Runner) (fs : List Flit)
    (whole : Bool) (hK : Keeps s0 s) : Keeps s0 (burstGo s port t i r fs whole) := by
  unfold burstGo
  try dsimp only
  repeat' first
    | with_reducible first
        | assumption | apply ite_keeps | apply iteP_keeps | apply foldl_keeps | apply foldlP_keeps
        | apply countBurst_keeps | apply forwardPacket_keeps | apply onSwc_keeps
    | (intro _; intros) | split | refine fst_keeps (by with_reducible assumption) ?_

theorem slipWrite_keeps {s0 : State} (s : State) (lanes : List (Fin 256)) (byHost : Bool) (hK : Keeps s0 s) : Keeps s0
    (slipWrite s lanes byHost) := by
  unfold slipWrite
  try dsimp only
  repeat' first
    | with_reducible first
        | assumption | apply slipLanes_keeps
    | (intro _; intros)

theorem execSlip_keeps {s0 : State} (lanes : List (Fin 256)) (byHost : Bool) (s : State) (hK : Keeps s0 s) : OutKeeps
    s0 (execSlip lanes byHost s) := by
  unfold execSlip
  try dsimp only
  repeat' first
    | with_reducible first
        | assumption | apply OutKeeps.next | apply up_keeps | apply slipWrite_keeps
    | (intro _; intros)

theorem epcIdentGot_configureEp_keeps {s0 : State} (s : State) (me : Node) (hK : Keeps s0 s) : Keeps s0
    (epcIdentGot.configureEp s me) := by
  unfold epcIdentGot.configureEp
  try dsimp only
  repeat' first
    | with_reducible first
        | assumption | apply ite_keeps | apply iteP_keeps | apply foldl_keeps | apply foldlP_keeps
        | apply epcWriteReq_keeps
    | (intro _; intros) | split | refine fst_keeps (by with_reducible assumption) ?_

theorem execLinkDisable_keeps {s0 : State} (r : CmdRef) (d : Desc) (s : State) (hK : Keeps s0 s) : OutKeeps s0
    (execLinkDisable r d s) := by
  unfold execLinkDisable
  try dsimp only
  repeat' first
    | with_reducible first
        | assumption | apply OutKeeps.next | apply up_keeps | apply runRow_keeps | apply specLinkDisable_keeps
    | (intro _; intros)

theorem epcIdentGot_keeps {s0 : State} (s : State) (p : Nat) (data : List Byte) (hK : Keeps s0 s) : Keeps s0
    (epcIdentGot s p data) := by
  unfold epcIdentGot
  try dsimp only
  repeat' first
    | with_reducible first
        | assumption | apply ite_keeps | apply iteP_keeps | apply epcIdentGot_configureEp_keeps | apply onLink_keeps
        | apply stayOut_keeps | apply epcWriteReq_keeps
    | (intro _; intros) | split | refine fst_keeps (by with_reducible assumption) ?_

theorem passStep_keeps {s0 : State} (s : State) (p : Fin 64) (hK : Keeps s0 s) : Keeps s0 (passStep s p) := by
  unfold passStep
  try dsimp only
  repeat' first
    | with_reducible first
        | assumption | apply ite_keeps | apply iteP_keeps | apply setLinkState_keeps | apply onLink_keeps
        | apply enterService_keeps
    | (intro _; intros) | split | refine fst_keeps (by with_reducible assumption) ?_

theorem execRunnerBurst_keeps {s0 : State} (port : Fin 64) (flits : List Flit) (t : Time) (s : State) (hK : Keeps s0
    s) : OutKeeps s0 (execRunnerBurst port flits t s) := by
  unfold execRunnerBurst
  try dsimp only
  repeat' first
    | with_reducible first
        | assumption | apply ite_outKeeps | apply ite_keeps | apply iteP_keeps | apply OutKeeps.next
        | apply foldl_keeps | apply foldlP_keeps | apply up_keeps | apply at__keeps | apply capCheck_keeps
        | apply flitIn_keeps | apply burstIn_keeps | apply burstGo_keeps
    | split | (intro _; intros) | split | refine fst_keeps (by with_reducible assumption) ?_

theorem execMarkerLock_keeps {s0 : State} (lane : Fin 256) (seen : SyncRun) (inverted : Bool) (s : State) (hK : Keeps
    s0 s) : OutKeeps s0 (execMarkerLock lane seen inverted s) := by
  unfold execMarkerLock
  try dsimp only
  repeat' first
    | with_reducible first
        | assumption | apply OutKeeps.next | apply up_keeps | apply onLane_keeps
    | (intro _; intros)

theorem execLossOfSignal_keeps {s0 : State} (port : Fin 64) (t : Time) (s : State) (hK : Keeps s0 s) : OutKeeps s0
    (execLossOfSignal port t s) := by
  unfold execLossOfSignal
  try dsimp only
  repeat' first
    | with_reducible first
        | assumption | apply ite_outKeeps | apply ite_keeps | apply iteP_keeps | apply OutKeeps.next | apply up_keeps
        | apply at__keeps | apply failLink_keeps
    | (intro _; intros) | split | refine fst_keeps (by with_reducible assumption) ?_

theorem execIdExchange_keeps {s0 : State} (port : Fin 64) (far : FarId) (s : State) (hK : Keeps s0 s) : OutKeeps s0
    (execIdExchange port far s) := by
  unfold execIdExchange
  try dsimp only
  repeat' first
    | with_reducible first
        | assumption | apply ite_outKeeps | apply ite_keeps | apply iteP_keeps | apply OutKeeps.next | apply up_keeps
        | apply onLink_keeps | apply stayOut_keeps
    | (intro _; intros) | split | refine fst_keeps (by with_reducible assumption) ?_

theorem execReceiverWaitTimeout_keeps {s0 : State} (port : Fin 64) (t : Time) (s : State) (hK : Keeps s0 s) : OutKeeps
    s0 (execReceiverWaitTimeout port t s) := by
  unfold execReceiverWaitTimeout
  try dsimp only
  repeat' first
    | with_reducible first
        | assumption | apply ite_outKeeps | apply ite_keeps | apply iteP_keeps | apply OutKeeps.next | apply up_keeps
        | apply at__keeps | apply runCheck_keeps | apply onLink_keeps
    | split | (intro _; intros) | split | refine fst_keeps (by with_reducible assumption) ?_

theorem execLinkBringupStep_keeps {s0 : State} (port : Fin 64) (res : StepResult) (s : State) (hK : Keeps s0 s) :
    OutKeeps s0 (execLinkBringupStep port res s) := by
  unfold execLinkBringupStep
  try dsimp only
  repeat' first
    | with_reducible first
        | assumption | apply ite_outKeeps | apply ite_keeps | apply iteP_keeps | apply OutKeeps.next | apply up_keeps
        | apply passStep_keeps | apply deskew_keeps | apply failStep_keeps
    | split | (intro _; intros) | split | refine fst_keeps (by with_reducible assumption) ?_

end Sys2Proof.Machine
end

