-- ==== Sys2Proof/Laws/KeepsCruIns.lean ====
section
/-! SUPPORT. What the functions of CruIns keep. -/

namespace Sys2Proof.Machine

theorem served_keeps {s0 : State} (s : State) (c : Ctx) (hK : Keeps s0 s) : Keeps s0 (served s c) := by
  unfold served
  try dsimp only
  repeat' first
    | with_reducible first
        | assumption | apply onEngine_keeps
    | (intro _; intros)

theorem issue_keeps {s0 : State} (s : State) (id : GroupId) (op : Nat) (k : Ctx → State → State) (h_k : ∀ y0 y1, Keeps
    s0 y1 → Keeps s0 (k y0 y1)) (hK : Keeps s0 s) : Keeps s0 (issue s id op k) := by
  unfold issue
  try dsimp only
  repeat' first
    | with_reducible first
        | assumption | apply h_k | apply ite_keeps | apply iteP_keeps | apply faultProg_keeps | apply served_keeps
    | (intro _; intros) | split | refine fst_keeps (by with_reducible assumption) ?_

theorem cruFault_keeps {s0 : State} (s : State) (c : Ctx) (reason : Byte) (thread : Nat) (handle : Nat) (offset : Nat)
    (hK : Keeps s0 s) : Keeps s0 (cruFault s c reason thread handle offset) := by
  unfold cruFault
  try dsimp only
  repeat' first
    | with_reducible first
        | assumption | apply faultProg_keeps
    | (intro _; intros)

theorem uniFault_keeps {s0 : State} (s : State) (c : Ctx) (addr : Nat) (hK : Keeps s0 s) : Keeps s0 (uniFault s c
    addr) := by
  unfold uniFault
  try dsimp only
  repeat' first
    | with_reducible first
        | assumption | apply cruFault_keeps
    | (intro _; intros)

theorem mmaVector_keeps {s0 : State} (s : State) (c : Ctx) (t : Tile) (src : Nat) (dst : Nat) (acc : Bool) (hK : Keeps
    s0 s) : Keeps s0 (mmaVector s c t src dst acc) := by
  unfold mmaVector
  try dsimp only
  repeat' first
    | with_reducible first
        | assumption | apply ite_keeps | apply iteP_keeps | apply scratchWrite_keeps
    | (intro _; intros) | split | refine fst_keeps (by with_reducible assumption) ?_

theorem onGr_keeps {s0 : State} (s : State) (c : Ctx) (f : Group → Group) (hK : Keeps s0 s) : Keeps s0 (onGr s c f) :=
    by
  unfold onGr
  try dsimp only
  repeat' first
    | with_reducible first
        | assumption | apply onGroup_keeps
    | (intro _; intros)

theorem nextPc_keeps {s0 : State} (s : State) (c : Ctx) (hK : Keeps s0 s) : Keeps s0 (nextPc s c) := by
  unfold nextPc
  try dsimp only
  repeat' first
    | with_reducible first
        | assumption | apply onGr_keeps
    | (intro _; intros)

theorem doMma_keeps {s0 : State} (c : Ctx) (s : State) (hK : Keeps s0 s) : Keeps s0 (doMma c s) := by
  unfold doMma
  try dsimp only
  repeat' first
    | with_reducible first
        | assumption | apply ite_keeps | apply iteP_keeps | apply foldl_keeps | apply foldlP_keeps
        | apply cruFault_keeps | apply uniFault_keeps | apply mmaVector_keeps | apply nextPc_keeps
        | apply onEngine_keeps
    | (intro _; intros) | split | refine fst_keeps (by with_reducible assumption) ?_

theorem execMma_keeps {s0 : State} (g : GroupId) (s : State) (hK : Keeps s0 s) : OutKeeps s0 (execMma g s) := by
  unfold execMma
  try dsimp only
  repeat' first
    | with_reducible first
        | assumption | apply OutKeeps.next | apply up_keeps | apply issue_keeps | apply doMma_keeps
    | (intro _; intros)

theorem onAccs_keeps {s0 : State} (s : State) (c : Ctx) (f : Nat → Accum → Accum) (hK : Keeps s0 s) : Keeps s0 (onAccs
    s c f) := by
  unfold onAccs
  try dsimp only
  repeat' first
    | with_reducible first
        | assumption | apply foldl_keeps | apply foldlP_keeps | apply onProg_keeps
    | (intro _; intros)

theorem execAimg_keeps {s0 : State} (g : GroupId) (s : State) (hK : Keeps s0 s) : OutKeeps s0 (execAimg g s) := by
  unfold execAimg
  try dsimp only
  repeat' first
    | with_reducible first
        | assumption | apply ite_outKeeps | apply ite_keeps | apply iteP_keeps | apply OutKeeps.next | apply up_keeps
        | apply issue_keeps | apply uniFault_keeps | apply nextPc_keeps | apply onAccs_keeps
    | (intro _; intros) | split | refine fst_keeps (by with_reducible assumption) ?_

theorem lanewise_keeps {s0 : State} (f : Nat → Nat → Nat → Nat) (c : Ctx) (s : State) (hK : Keeps s0 s) : Keeps s0
    (lanewise f c s) := by
  unfold lanewise
  try dsimp only
  repeat' first
    | with_reducible first
        | assumption | apply nextPc_keeps | apply onGr_keeps
    | (intro _; intros)

theorem execVsub_keeps {s0 : State} (g : GroupId) (s : State) (hK : Keeps s0 s) : OutKeeps s0 (execVsub g s) := by
  unfold execVsub
  try dsimp only
  repeat' first
    | with_reducible first
        | assumption | apply OutKeeps.next | apply up_keeps | apply issue_keeps | apply lanewise_keeps
    | (intro _; intros)

theorem supersede_keeps {s0 : State} (s : State) (p : Nat) (g : Nat) (r : Nat) (ths : List Nat) (hK : Keeps s0 s) :
    Keeps s0 (supersede s p g r ths) := by
  unfold supersede
  try dsimp only
  repeat' first
    | with_reducible first
        | assumption | apply ite_keeps | apply iteP_keeps | apply onCru_keeps
    | (intro _; intros) | split | refine fst_keeps (by with_reducible assumption) ?_

theorem setAll_keeps {s0 : State} (s : State) (c : Ctx) (f : Nat → BitVec 64) (hK : Keeps s0 s) : Keeps s0 (setAll s c
    f) := by
  unfold setAll
  try dsimp only
  repeat' first
    | with_reducible first
        | assumption | apply foldl_keeps | apply foldlP_keeps | apply onGr_keeps | apply supersede_keeps
    | (intro _; intros)

theorem scalar_keeps {s0 : State} (f : BitVec 64 → BitVec 64 → BitVec 64) (c : Ctx) (s : State) (hK : Keeps s0 s) :
    Keeps s0 (scalar f c s) := by
  unfold scalar
  try dsimp only
  repeat' first
    | with_reducible first
        | assumption | apply nextPc_keeps | apply setAll_keeps
    | (intro _; intros)

theorem execAdd_keeps {s0 : State} (g : GroupId) (s : State) (hK : Keeps s0 s) : OutKeeps s0 (execAdd g s) := by
  unfold execAdd
  try dsimp only
  repeat' first
    | with_reducible first
        | assumption | apply OutKeeps.next | apply up_keeps | apply issue_keeps | apply scalar_keeps
    | (intro _; intros)

theorem execVbcast_keeps {s0 : State} (g : GroupId) (s : State) (hK : Keeps s0 s) : OutKeeps s0 (execVbcast g s) := by
  unfold execVbcast
  try dsimp only
  repeat' first
    | with_reducible first
        | assumption | apply OutKeeps.next | apply up_keeps | apply issue_keeps | apply nextPc_keeps
        | apply onGr_keeps
    | (intro _; intros)

theorem drawn_keeps {s0 : State} (s : State) (c : Ctx) (sr : Bool) (n : Nat) (hK : Keeps s0 s) : Keeps s0 (drawn s c
    sr n) := by
  unfold drawn
  try dsimp only
  repeat' first
    | with_reducible first
        | assumption | apply ite_keeps | apply iteP_keeps | apply onGr_keeps
    | (intro _; intros) | split | refine fst_keeps (by with_reducible assumption) ?_

theorem doVpack_keeps {s0 : State} (c : Ctx) (s : State) (hK : Keeps s0 s) : Keeps s0 (doVpack c s) := by
  unfold doVpack
  try dsimp only
  repeat' first
    | with_reducible first
        | assumption | apply ite_keeps | apply iteP_keeps | apply uniFault_keeps | apply nextPc_keeps
        | apply drawn_keeps | apply scratchWrite_keeps
    | (intro _; intros) | split | refine fst_keeps (by with_reducible assumption) ?_

theorem execVpack_keeps {s0 : State} (g : GroupId) (s : State) (hK : Keeps s0 s) : OutKeeps s0 (execVpack g s) := by
  unfold execVpack
  try dsimp only
  repeat' first
    | with_reducible first
        | assumption | apply OutKeeps.next | apply up_keeps | apply issue_keeps | apply doVpack_keeps
    | (intro _; intros)

theorem execWswap_keeps {s0 : State} (g : GroupId) (s : State) (hK : Keeps s0 s) : OutKeeps s0 (execWswap g s) := by
  unfold execWswap
  try dsimp only
  repeat' first
    | with_reducible first
        | assumption | apply OutKeeps.next | apply up_keeps | apply issue_keeps | apply nextPc_keeps
        | apply onProg_keeps
    | (intro _; intros)

theorem requestAll_keeps {s0 : State} (s : State) (c : Ctx) (mk : Nat → LineReq) (hK : Keeps s0 s) : Keeps s0
    (requestAll s c mk) := by
  unfold requestAll
  try dsimp only
  repeat' first
    | with_reducible first
        | assumption | apply foldl_keeps | apply foldlP_keeps | apply addReq_keeps | apply nextPc_keeps
        | apply pumpLines_keeps | apply onGr_keeps
    | (intro _; intros)

theorem doLdg_keeps {s0 : State} (c : Ctx) (s : State) (hK : Keeps s0 s) : Keeps s0 (doLdg c s) := by
  unfold doLdg
  try dsimp only
  repeat' first
    | with_reducible first
        | assumption | apply ite_keeps | apply iteP_keeps | apply nextPc_keeps | apply cruFault_keeps
        | apply requestAll_keeps | apply supersede_keeps
    | (intro _; intros) | split | refine fst_keeps (by with_reducible assumption) ?_

theorem execLdg_keeps {s0 : State} (g : GroupId) (s : State) (hK : Keeps s0 s) : OutKeeps s0 (execLdg g s) := by
  unfold execLdg
  try dsimp only
  repeat' first
    | with_reducible first
        | assumption | apply OutKeeps.next | apply up_keeps | apply issue_keeps | apply doLdg_keeps
    | (intro _; intros)

theorem execMrest_keeps {s0 : State} (g : GroupId) (s : State) (hK : Keeps s0 s) : OutKeeps s0 (execMrest g s) := by
  unfold execMrest
  try dsimp only
  repeat' first
    | with_reducible first
        | assumption | apply OutKeeps.next | apply up_keeps | apply issue_keeps | apply nextPc_keeps
        | apply onGr_keeps
    | (intro _; intros)

theorem doAtom_keeps {s0 : State} (c : Ctx) (s : State) (hK : Keeps s0 s) : Keeps s0 (doAtom c s) := by
  unfold doAtom
  try dsimp only
  repeat' first
    | with_reducible first
        | assumption | apply ite_keeps | apply iteP_keeps | apply nextPc_keeps | apply cruFault_keeps
        | apply requestAll_keeps | apply supersede_keeps
    | (intro _; intros) | split | refine fst_keeps (by with_reducible assumption) ?_

theorem execMax_keeps {s0 : State} (g : GroupId) (s : State) (hK : Keeps s0 s) : OutKeeps s0 (execMax g s) := by
  unfold execMax
  try dsimp only
  repeat' first
    | with_reducible first
        | assumption | apply ite_outKeeps | apply ite_keeps | apply iteP_keeps | apply OutKeeps.next | apply up_keeps
        | apply issue_keeps | apply scalar_keeps
    | (intro _; intros) | split | refine fst_keeps (by with_reducible assumption) ?_

theorem sendAll_keeps {s0 : State} (s : State) (c : Ctx) (th : Nat) (kind : ReqKind) (op : Byte) (flags : Byte) (tag :
    BitVec 32) (off : Nat) (bs : List Byte) (hK : Keeps s0 s) : Keeps s0 (sendAll s c th kind op flags tag off bs) :=
    by
  unfold sendAll
  try dsimp only
  repeat' first
    | with_reducible first
        | assumption | apply ite_keeps | apply iteP_keeps | apply foldl_keeps | apply foldlP_keeps
        | apply memFailed_keeps | apply addReq_keeps | apply submit_keeps
    | (intro _; intros) | split | refine fst_keeps (by with_reducible assumption) ?_

theorem doStore_keeps {s0 : State} (c : Ctx) (s : State) (hK : Keeps s0 s) : Keeps s0 (doStore c s) := by
  unfold doStore
  try dsimp only
  repeat' first
    | with_reducible first
        | assumption | apply ite_keeps | apply iteP_keeps | apply foldl_keeps | apply foldlP_keeps
        | apply nextPc_keeps | apply cruFault_keeps | apply onGr_keeps | apply sendAll_keeps
    | (intro _; intros) | split | refine fst_keeps (by with_reducible assumption) ?_

theorem execCrucibleStore_keeps {s0 : State} (g : GroupId) (s : State) (hK : Keeps s0 s) : OutKeeps s0
    (execCrucibleStore g s) := by
  unfold execCrucibleStore
  try dsimp only
  repeat' first
    | with_reducible first
        | assumption | apply OutKeeps.next | apply up_keeps | apply issue_keeps | apply doStore_keeps
    | (intro _; intros)

theorem doEnd_keeps {s0 : State} (c : Ctx) (s : State) (hK : Keeps s0 s) : Keeps s0 (doEnd c s) := by
  unfold doEnd
  try dsimp only
  repeat' first
    | with_reducible first
        | assumption | apply ite_keeps | apply iteP_keeps | apply onGr_keeps | apply endProg_keeps
    | (intro _; intros) | split | refine fst_keeps (by with_reducible assumption) ?_

theorem execVfma_keeps {s0 : State} (g : GroupId) (s : State) (hK : Keeps s0 s) : OutKeeps s0 (execVfma g s) := by
  unfold execVfma
  try dsimp only
  repeat' first
    | with_reducible first
        | assumption | apply OutKeeps.next | apply up_keeps | apply issue_keeps | apply nextPc_keeps
        | apply onGr_keeps
    | (intro _; intros)

theorem execMin_keeps {s0 : State} (g : GroupId) (s : State) (hK : Keeps s0 s) : OutKeeps s0 (execMin g s) := by
  unfold execMin
  try dsimp only
  repeat' first
    | with_reducible first
        | assumption | apply ite_outKeeps | apply ite_keeps | apply iteP_keeps | apply OutKeeps.next | apply up_keeps
        | apply issue_keeps | apply scalar_keeps
    | (intro _; intros) | split | refine fst_keeps (by with_reducible assumption) ?_

theorem mboxTake_keeps {s0 : State} (s : State) (p : Nat) (g : Nat) (d : Nat) (v : BitVec 64) (hK : Keeps s0 s) :
    Keeps s0 (mboxTake s p g d v) := by
  unfold mboxTake
  try dsimp only
  repeat' first
    | with_reducible first
        | assumption | apply foldl_keeps | apply foldlP_keeps | apply onGroup_keeps | apply supersede_keeps
    | (intro _; intros) | split | refine fst_keeps (by with_reducible assumption) ?_

theorem mboxDeliver_keeps {s0 : State} (x0 : Nat) (x1 : State) (x2 : Nat) (hK : Keeps s0 x1) : Keeps s0 (mboxDeliver
    x0 x1 x2) := by
  induction x0 generalizing x1 x2
  case zero =>
    unfold mboxDeliver
    try dsimp only
    repeat' first
      | with_reducible first
          | assumption | apply mboxTake_keeps | apply mailbox_keeps | apply onProg_keeps
      | (intro _; intros) | split | refine fst_keeps (by with_reducible assumption) ?_
  case succ n ih =>
    unfold mboxDeliver
    try dsimp only
    repeat' first
      | with_reducible first
          | assumption | apply ih | apply mboxTake_keeps | apply mailbox_keeps | apply onProg_keeps
      | (intro _; intros) | split | refine fst_keeps (by with_reducible assumption) ?_

theorem execMbox_keeps {s0 : State} (g : GroupId) (s : State) (hK : Keeps s0 s) : OutKeeps s0 (execMbox g s) := by
  unfold execMbox
  try dsimp only
  repeat' first
    | with_reducible first
        | assumption | apply OutKeeps.next | apply up_keeps | apply issue_keeps | apply onGr_keeps
        | apply mboxDeliver_keeps | apply onProg_keeps
    | (intro _; intros)

theorem execRng_keeps {s0 : State} (g : GroupId) (s : State) (hK : Keeps s0 s) : OutKeeps s0 (execRng g s) := by
  unfold execRng
  try dsimp only
  repeat' first
    | with_reducible first
        | assumption | apply OutKeeps.next | apply up_keeps | apply issue_keeps | apply nextPc_keeps
        | apply onGr_keeps
    | (intro _; intros)

theorem doGather_keeps {s0 : State} (c : Ctx) (s : State) (hK : Keeps s0 s) : Keeps s0 (doGather c s) := by
  unfold doGather
  try dsimp only
  repeat' first
    | with_reducible first
        | assumption | apply ite_keeps | apply iteP_keeps | apply nextPc_keeps | apply cruFault_keeps
        | apply requestAll_keeps
    | (intro _; intros) | split | refine fst_keeps (by with_reducible assumption) ?_

theorem execGather_keeps {s0 : State} (g : GroupId) (s : State) (hK : Keeps s0 s) : OutKeeps s0 (execGather g s) := by
  unfold execGather
  try dsimp only
  repeat' first
    | with_reducible first
        | assumption | apply OutKeeps.next | apply up_keeps | apply issue_keeps | apply doGather_keeps
    | (intro _; intros)

theorem doVcvt_keeps {s0 : State} (c : Ctx) (s : State) (hK : Keeps s0 s) : Keeps s0 (doVcvt c s) := by
  unfold doVcvt
  try dsimp only
  repeat' first
    | with_reducible first
        | assumption | apply ite_keeps | apply iteP_keeps | apply nextPc_keeps | apply drawn_keeps | apply onGr_keeps
    | (intro _; intros) | split | refine fst_keeps (by with_reducible assumption) ?_

theorem execVcvt_keeps {s0 : State} (g : GroupId) (s : State) (hK : Keeps s0 s) : OutKeeps s0 (execVcvt g s) := by
  unfold execVcvt
  try dsimp only
  repeat' first
    | with_reducible first
        | assumption | apply OutKeeps.next | apply up_keeps | apply issue_keeps | apply doVcvt_keeps
    | (intro _; intros)

theorem execVld_keeps {s0 : State} (g : GroupId) (s : State) (hK : Keeps s0 s) : OutKeeps s0 (execVld g s) := by
  unfold execVld
  try dsimp only
  repeat' first
    | with_reducible first
        | assumption | apply ite_outKeeps | apply ite_keeps | apply iteP_keeps | apply OutKeeps.next | apply up_keeps
        | apply issue_keeps | apply uniFault_keeps | apply nextPc_keeps | apply onGr_keeps
    | (intro _; intros) | split | refine fst_keeps (by with_reducible assumption) ?_

theorem jumpTo_keeps {s0 : State} (s : State) (c : Ctx) (taken : Bool) (hK : Keeps s0 s) : Keeps s0 (jumpTo s c taken)
    := by
  unfold jumpTo
  try dsimp only
  repeat' first
    | with_reducible first
        | assumption | apply ite_keeps | apply iteP_keeps | apply onGr_keeps
    | (intro _; intros) | split | refine fst_keeps (by with_reducible assumption) ?_

theorem execVadd_keeps {s0 : State} (g : GroupId) (s : State) (hK : Keeps s0 s) : OutKeeps s0 (execVadd g s) := by
  unfold execVadd
  try dsimp only
  repeat' first
    | with_reducible first
        | assumption | apply OutKeeps.next | apply up_keeps | apply issue_keeps | apply lanewise_keeps
    | (intro _; intros)

theorem execMsave_keeps {s0 : State} (g : GroupId) (s : State) (hK : Keeps s0 s) : OutKeeps s0 (execMsave g s) := by
  unfold execMsave
  try dsimp only
  repeat' first
    | with_reducible first
        | assumption | apply OutKeeps.next | apply up_keeps | apply issue_keeps | apply nextPc_keeps
        | apply onGr_keeps
    | (intro _; intros)

theorem doSread_keeps {s0 : State} (c : Ctx) (s : State) (hK : Keeps s0 s) : Keeps s0 (doSread c s) := by
  unfold doSread
  try dsimp only
  repeat' first
    | with_reducible first
        | assumption | apply ite_keeps | apply iteP_keeps | apply setAll_keeps | apply onGr_keeps | apply nextPc_keeps
    | (intro _; intros) | split | refine fst_keeps (by with_reducible assumption) ?_

theorem execShl_keeps {s0 : State} (g : GroupId) (s : State) (hK : Keeps s0 s) : OutKeeps s0 (execShl g s) := by
  unfold execShl
  try dsimp only
  repeat' first
    | with_reducible first
        | assumption | apply OutKeeps.next | apply up_keeps | apply issue_keeps | apply scalar_keeps
    | (intro _; intros)

theorem execOr_keeps {s0 : State} (g : GroupId) (s : State) (hK : Keeps s0 s) : OutKeeps s0 (execOr g s) := by
  unfold execOr
  try dsimp only
  repeat' first
    | with_reducible first
        | assumption | apply OutKeeps.next | apply up_keeps | apply issue_keeps | apply scalar_keeps
    | (intro _; intros)

theorem execXor_keeps {s0 : State} (g : GroupId) (s : State) (hK : Keeps s0 s) : OutKeeps s0 (execXor g s) := by
  unfold execXor
  try dsimp only
  repeat' first
    | with_reducible first
        | assumption | apply OutKeeps.next | apply up_keeps | apply issue_keeps | apply scalar_keeps
    | (intro _; intros)

theorem execAtom_keeps {s0 : State} (g : GroupId) (s : State) (hK : Keeps s0 s) : OutKeeps s0 (execAtom g s) := by
  unfold execAtom
  try dsimp only
  repeat' first
    | with_reducible first
        | assumption | apply OutKeeps.next | apply up_keeps | apply issue_keeps | apply doAtom_keeps
    | (intro _; intros)

theorem execSts_keeps {s0 : State} (g : GroupId) (s : State) (hK : Keeps s0 s) : OutKeeps s0 (execSts g s) := by
  unfold execSts
  try dsimp only
  repeat' first
    | with_reducible first
        | assumption | apply OutKeeps.next | apply foldl_keeps | apply foldlP_keeps | apply up_keeps
        | apply issue_keeps | apply cruFault_keeps | apply nextPc_keeps | apply scratchWrite_keeps
    | split | (intro _; intros) | split | refine fst_keeps (by with_reducible assumption) ?_

theorem execAread_keeps {s0 : State} (g : GroupId) (s : State) (hK : Keeps s0 s) : OutKeeps s0 (execAread g s) := by
  unfold execAread
  try dsimp only
  repeat' first
    | with_reducible first
        | assumption | apply ite_outKeeps | apply ite_keeps | apply iteP_keeps | apply OutKeeps.next | apply up_keeps
        | apply issue_keeps | apply nextPc_keeps | apply onGr_keeps
    | (intro _; intros) | split | refine fst_keeps (by with_reducible assumption) ?_

theorem execVmin_keeps {s0 : State} (g : GroupId) (s : State) (hK : Keeps s0 s) : OutKeeps s0 (execVmin g s) := by
  unfold execVmin
  try dsimp only
  repeat' first
    | with_reducible first
        | assumption | apply OutKeeps.next | apply up_keeps | apply issue_keeps | apply lanewise_keeps
    | (intro _; intros)

theorem execJmp_keeps {s0 : State} (g : GroupId) (s : State) (hK : Keeps s0 s) : OutKeeps s0 (execJmp g s) := by
  unfold execJmp
  try dsimp only
  repeat' first
    | with_reducible first
        | assumption | apply OutKeeps.next | apply up_keeps | apply issue_keeps | apply jumpTo_keeps
    | (intro _; intros)

theorem execVmul_keeps {s0 : State} (g : GroupId) (s : State) (hK : Keeps s0 s) : OutKeeps s0 (execVmul g s) := by
  unfold execVmul
  try dsimp only
  repeat' first
    | with_reducible first
        | assumption | apply OutKeeps.next | apply up_keeps | apply issue_keeps | apply lanewise_keeps
    | (intro _; intros)

theorem execAclr_keeps {s0 : State} (g : GroupId) (s : State) (hK : Keeps s0 s) : OutKeeps s0 (execAclr g s) := by
  unfold execAclr
  try dsimp only
  repeat' first
    | with_reducible first
        | assumption | apply OutKeeps.next | apply up_keeps | apply issue_keeps | apply nextPc_keeps
        | apply onAccs_keeps
    | (intro _; intros)

theorem execLds_keeps {s0 : State} (g : GroupId) (s : State) (hK : Keeps s0 s) : OutKeeps s0 (execLds g s) := by
  unfold execLds
  try dsimp only
  repeat' first
    | with_reducible first
        | assumption | apply OutKeeps.next | apply up_keeps | apply issue_keeps | apply cruFault_keeps
        | apply nextPc_keeps | apply setAll_keeps
    | split | (intro _; intros) | split | refine fst_keeps (by with_reducible assumption) ?_

theorem execRngset_keeps {s0 : State} (g : GroupId) (s : State) (hK : Keeps s0 s) : OutKeeps s0 (execRngset g s) := by
  unfold execRngset
  try dsimp only
  repeat' first
    | with_reducible first
        | assumption | apply OutKeeps.next | apply up_keeps | apply issue_keeps | apply nextPc_keeps
        | apply onGr_keeps
    | (intro _; intros)

theorem doLi_keeps {s0 : State} (c : Ctx) (s : State) (hK : Keeps s0 s) : Keeps s0 (doLi c s) := by
  unfold doLi
  try dsimp only
  repeat' first
    | with_reducible first
        | assumption | apply ite_keeps | apply iteP_keeps | apply nextPc_keeps | apply setAll_keeps
    | (intro _; intros) | split | refine fst_keeps (by with_reducible assumption) ?_

theorem execCmp_keeps {s0 : State} (g : GroupId) (s : State) (hK : Keeps s0 s) : OutKeeps s0 (execCmp g s) := by
  unfold execCmp
  try dsimp only
  repeat' first
    | with_reducible first
        | assumption | apply ite_outKeeps | apply ite_keeps | apply iteP_keeps | apply OutKeeps.next | apply up_keeps
        | apply issue_keeps | apply nextPc_keeps | apply setAll_keeps
    | (intro _; intros) | split | refine fst_keeps (by with_reducible assumption) ?_

theorem clearTarget_keeps {s0 : State} (s : State) (c : Ctx) (sl : PoolSlot) (hK : Keeps s0 s) : Keeps s0 (clearTarget
    s c sl) := by
  unfold clearTarget
  try dsimp only
  repeat' first
    | with_reducible first
        | assumption | apply ite_keeps | apply iteP_keeps | apply foldl_keeps | apply foldlP_keeps
        | apply onProg_keeps | apply onGr_keeps
    | (intro _; intros) | split | refine fst_keeps (by with_reducible assumption) ?_

theorem execSar_keeps {s0 : State} (g : GroupId) (s : State) (hK : Keeps s0 s) : OutKeeps s0 (execSar g s) := by
  unfold execSar
  try dsimp only
  repeat' first
    | with_reducible first
        | assumption | apply OutKeeps.next | apply up_keeps | apply issue_keeps | apply scalar_keeps
    | (intro _; intros)

theorem execPoolClose_keeps {s0 : State} (g : GroupId) (s : State) (hK : Keeps s0 s) : OutKeeps s0 (execPoolClose g s)
    := by
  unfold execPoolClose
  try dsimp only
  repeat' first
    | with_reducible first
        | assumption | apply OutKeeps.next | apply up_keeps | apply issue_keeps | apply nextPc_keeps
        | apply onGr_keeps
    | (intro _; intros)

theorem execShr_keeps {s0 : State} (g : GroupId) (s : State) (hK : Keeps s0 s) : OutKeeps s0 (execShr g s) := by
  unfold execShr
  try dsimp only
  repeat' first
    | with_reducible first
        | assumption | apply OutKeeps.next | apply up_keeps | apply issue_keeps | apply scalar_keeps
    | (intro _; intros)

theorem execCrucibleFence_keeps {s0 : State} (g : GroupId) (s : State) (hK : Keeps s0 s) : OutKeeps s0
    (execCrucibleFence g s) := by
  unfold execCrucibleFence
  try dsimp only
  repeat' first
    | with_reducible first
        | assumption | apply OutKeeps.next | apply up_keeps | apply issue_keeps | apply nextPc_keeps
    | (intro _; intros)

theorem execVmax_keeps {s0 : State} (g : GroupId) (s : State) (hK : Keeps s0 s) : OutKeeps s0 (execVmax g s) := by
  unfold execVmax
  try dsimp only
  repeat' first
    | with_reducible first
        | assumption | apply OutKeeps.next | apply up_keeps | apply issue_keeps | apply lanewise_keeps
    | (intro _; intros)

theorem execWload_keeps {s0 : State} (g : GroupId) (s : State) (hK : Keeps s0 s) : OutKeeps s0 (execWload g s) := by
  unfold execWload
  try dsimp only
  repeat' first
    | with_reducible first
        | assumption | apply ite_outKeeps | apply ite_keeps | apply iteP_keeps | apply OutKeeps.next | apply up_keeps
        | apply issue_keeps | apply uniFault_keeps | apply nextPc_keeps | apply onProg_keeps
    | (intro _; intros) | split | refine fst_keeps (by with_reducible assumption) ?_

theorem execAnd_keeps {s0 : State} (g : GroupId) (s : State) (hK : Keeps s0 s) : OutKeeps s0 (execAnd g s) := by
  unfold execAnd
  try dsimp only
  repeat' first
    | with_reducible first
        | assumption | apply OutKeeps.next | apply up_keeps | apply issue_keeps | apply scalar_keeps
    | (intro _; intros)

theorem execBany_keeps {s0 : State} (g : GroupId) (s : State) (hK : Keeps s0 s) : OutKeeps s0 (execBany g s) := by
  unfold execBany
  try dsimp only
  repeat' first
    | with_reducible first
        | assumption | apply OutKeeps.next | apply up_keeps | apply issue_keeps | apply jumpTo_keeps
    | (intro _; intros)

theorem execMul_keeps {s0 : State} (g : GroupId) (s : State) (hK : Keeps s0 s) : OutKeeps s0 (execMul g s) := by
  unfold execMul
  try dsimp only
  repeat' first
    | with_reducible first
        | assumption | apply OutKeeps.next | apply up_keeps | apply issue_keeps | apply scalar_keeps
    | (intro _; intros)

theorem execEndGroup_keeps {s0 : State} (g : GroupId) (s : State) (hK : Keeps s0 s) : OutKeeps s0 (execEndGroup g s)
    := by
  unfold execEndGroup
  try dsimp only
  repeat' first
    | with_reducible first
        | assumption | apply OutKeeps.next | apply up_keeps | apply issue_keeps | apply doEnd_keeps
    | (intro _; intros)

theorem execBall_keeps {s0 : State} (g : GroupId) (s : State) (hK : Keeps s0 s) : OutKeeps s0 (execBall g s) := by
  unfold execBall
  try dsimp only
  repeat' first
    | with_reducible first
        | assumption | apply OutKeeps.next | apply up_keeps | apply issue_keeps | apply jumpTo_keeps
    | (intro _; intros)

theorem execSread_keeps {s0 : State} (g : GroupId) (s : State) (hK : Keeps s0 s) : OutKeeps s0 (execSread g s) := by
  unfold execSread
  try dsimp only
  repeat' first
    | with_reducible first
        | assumption | apply OutKeeps.next | apply up_keeps | apply issue_keeps | apply doSread_keeps
    | (intro _; intros)

theorem execCread_keeps {s0 : State} (g : GroupId) (s : State) (hK : Keeps s0 s) : OutKeeps s0 (execCread g s) := by
  unfold execCread
  try dsimp only
  repeat' first
    | with_reducible first
        | assumption | apply OutKeeps.next | apply up_keeps | apply issue_keeps | apply cruFault_keeps
        | apply nextPc_keeps | apply setAll_keeps
    | split | (intro _; intros) | split | refine fst_keeps (by with_reducible assumption) ?_

theorem doSignal_keeps {s0 : State} (c : Ctx) (s : State) (hK : Keeps s0 s) : Keeps s0 (doSignal c s) := by
  unfold doSignal
  try dsimp only
  repeat' first
    | with_reducible first
        | assumption | apply ite_keeps | apply iteP_keeps | apply foldl_keeps | apply foldlP_keeps
        | apply nextPc_keeps | apply cruFault_keeps | apply onGr_keeps | apply memFailed_keeps | apply sendAll_keeps
    | (intro _; intros) | split | refine fst_keeps (by with_reducible assumption) ?_

theorem execSignal_keeps {s0 : State} (g : GroupId) (s : State) (hK : Keeps s0 s) : OutKeeps s0 (execSignal g s) := by
  unfold execSignal
  try dsimp only
  repeat' first
    | with_reducible first
        | assumption | apply OutKeeps.next | apply up_keeps | apply issue_keeps | apply doSignal_keeps
    | (intro _; intros)

theorem execVst_keeps {s0 : State} (g : GroupId) (s : State) (hK : Keeps s0 s) : OutKeeps s0 (execVst g s) := by
  unfold execVst
  try dsimp only
  repeat' first
    | with_reducible first
        | assumption | apply ite_outKeeps | apply ite_keeps | apply iteP_keeps | apply OutKeeps.next | apply up_keeps
        | apply issue_keeps | apply uniFault_keeps | apply nextPc_keeps | apply scratchWrite_keeps
    | (intro _; intros) | split | refine fst_keeps (by with_reducible assumption) ?_

theorem execSub_keeps {s0 : State} (g : GroupId) (s : State) (hK : Keeps s0 s) : OutKeeps s0 (execSub g s) := by
  unfold execSub
  try dsimp only
  repeat' first
    | with_reducible first
        | assumption | apply OutKeeps.next | apply up_keeps | apply issue_keeps | apply scalar_keeps
    | (intro _; intros)

theorem execAadd_keeps {s0 : State} (g : GroupId) (s : State) (hK : Keeps s0 s) : OutKeeps s0 (execAadd g s) := by
  unfold execAadd
  try dsimp only
  repeat' first
    | with_reducible first
        | assumption | apply OutKeeps.next | apply up_keeps | apply issue_keeps | apply nextPc_keeps
        | apply onAccs_keeps
    | (intro _; intros)

theorem execLi_keeps {s0 : State} (g : GroupId) (s : State) (hK : Keeps s0 s) : OutKeeps s0 (execLi g s) := by
  unfold execLi
  try dsimp only
  repeat' first
    | with_reducible first
        | assumption | apply OutKeeps.next | apply up_keeps | apply issue_keeps | apply doLi_keeps
    | (intro _; intros)

theorem execAct_keeps {s0 : State} (g : GroupId) (s : State) (hK : Keeps s0 s) : OutKeeps s0 (execAct g s) := by
  unfold execAct
  try dsimp only
  repeat' first
    | with_reducible first
        | assumption | apply ite_outKeeps | apply ite_keeps | apply iteP_keeps | apply OutKeeps.next | apply up_keeps
        | apply issue_keeps | apply nextPc_keeps | apply onGr_keeps
    | (intro _; intros) | split | refine fst_keeps (by with_reducible assumption) ?_

theorem execAsave_keeps {s0 : State} (g : GroupId) (s : State) (hK : Keeps s0 s) : OutKeeps s0 (execAsave g s) := by
  unfold execAsave
  try dsimp only
  repeat' first
    | with_reducible first
        | assumption | apply ite_outKeeps | apply ite_keeps | apply iteP_keeps | apply OutKeeps.next | apply up_keeps
        | apply issue_keeps | apply uniFault_keeps | apply nextPc_keeps | apply scratchWrite_keeps
    | (intro _; intros) | split | refine fst_keeps (by with_reducible assumption) ?_

theorem execPoolOpen_keeps {s0 : State} (g : GroupId) (s : State) (hK : Keeps s0 s) : OutKeeps s0 (execPoolOpen g s)
    := by
  unfold execPoolOpen
  try dsimp only
  repeat' first
    | with_reducible first
        | assumption | apply ite_outKeeps | apply ite_keeps | apply iteP_keeps | apply OutKeeps.next | apply up_keeps
        | apply issue_keeps | apply cruFault_keeps | apply nextPc_keeps | apply onGr_keeps | apply clearTarget_keeps
    | (intro _; intros) | split | refine fst_keeps (by with_reducible assumption) ?_

end Sys2Proof.Machine
end

