-- ==== Sys2Proof/Laws/KeepsCruCmds.lean ====
section
/-! SUPPORT. What the functions of CruCmds keep. -/

namespace Sys2Proof.Machine

theorem launch_keeps {s0 : State} (s : State) (d : Desc) (handles : List (BitVec 64)) (args : List (BitVec 64)) (hK :
    Keeps s0 s) : Keeps s0 (launch s d handles args) := by
  unfold launch
  try dsimp only
  repeat' first
    | with_reducible first
        | assumption | apply foldl_keeps | apply foldlP_keeps | apply zeroScratch_keeps | apply onCru_keeps
        | apply traceProgram_keeps | apply scratchWrite_keeps
    | (intro _; intros) | split | refine fst_keeps (by with_reducible assumption) ?_

theorem programStartGot_keeps {s0 : State} (s : State) (o : Origin) (d : Desc) (k : Pick) (stage : Nat) (got : List
    Byte) (ok : Bool) (bs : List Byte) (hK : Keeps s0 s) : Keeps s0 (programStartGot s o d k stage got ok bs) := by
  unfold programStartGot
  try dsimp only
  repeat' first
    | with_reducible first
        | assumption | apply ite_keeps | apply iteP_keeps | apply complete_keeps | apply dmaRead_keeps
        | apply launch_keeps
    | (intro _; intros) | split | refine fst_keeps (by with_reducible assumption) ?_

theorem specProgramLoad_keeps {s0 : State} (o : Origin) (d : Desc) (k : Pick) (s : State) (hK : Keeps s0 s) : Keeps s0
    ((specProgramLoad).eff o d k s) := by
  unfold specProgramLoad
  try dsimp only
  repeat' first
    | with_reducible first
        | assumption | apply ite_keeps | apply iteP_keeps | apply complete_keeps | apply dmaRead_keeps
    | (intro _; intros) | split | refine fst_keeps (by with_reducible assumption) ?_

theorem execProgramLoad_keeps {s0 : State} (r : CmdRef) (d : Desc) (s : State) (hK : Keeps s0 s) : OutKeeps s0
    (execProgramLoad r d s) := by
  unfold execProgramLoad
  try dsimp only
  repeat' first
    | with_reducible first
        | assumption | apply OutKeeps.next | apply up_keeps | apply runRow_keeps | apply specProgramLoad_keeps
    | (intro _; intros)

theorem countEnd_keeps {s0 : State} (s : State) (p : Nat) (st : Status) (hK : Keeps s0 s) : Keeps s0 (countEnd s p st)
    := by
  unfold countEnd
  try dsimp only
  repeat' first
    | with_reducible first
        | assumption | apply ite_keeps | apply iteP_keeps | apply onEngine_keeps
    | (intro _; intros) | split | refine fst_keeps (by with_reducible assumption) ?_

theorem specProgramQuery_keeps {s0 : State} (o : Origin) (d : Desc) (k : Pick) (s : State) (hK : Keeps s0 s) : Keeps
    s0 ((specProgramQuery).eff o d k s) := by
  unfold specProgramQuery
  try dsimp only
  repeat' first
    | with_reducible first
        | assumption | apply queryOut_keeps
    | (intro _; intros)

theorem execProgramQuery_keeps {s0 : State} (r : CmdRef) (d : Desc) (s : State) (hK : Keeps s0 s) : OutKeeps s0
    (execProgramQuery r d s) := by
  unfold execProgramQuery
  try dsimp only
  repeat' first
    | with_reducible first
        | assumption | apply OutKeeps.next | apply up_keeps | apply runRow_keeps | apply specProgramQuery_keeps
    | (intro _; intros)

theorem admitProg_keeps {s0 : State} (s : State) (o : Origin) (d : Desc) (bs : List Byte) (hK : Keeps s0 s) : Keeps s0
    (admitProg s o d bs).1 := by
  unfold admitProg
  try dsimp only
  repeat' first
    | with_reducible first
        | assumption | apply ite_keeps | apply iteP_keeps | apply onCru_keeps | apply traceProgram_keeps
    | (intro _; intros) | split | refine fst_keeps (by with_reducible assumption) ?_

theorem programLoadGot_keeps {s0 : State} (s : State) (o : Origin) (d : Desc) (ok : Bool) (bs : List Byte) (hK : Keeps
    s0 s) : Keeps s0 (programLoadGot s o d ok bs) := by
  unfold programLoadGot
  try dsimp only
  repeat' first
    | with_reducible first
        | assumption | apply ite_keeps | apply iteP_keeps | apply complete_keeps | apply admitProg_keeps
    | (intro _; intros) | split | refine fst_keeps (by with_reducible assumption) ?_

theorem execCapShed_keeps {s0 : State} (prog : BitVec 8) (t : Time) (s : State) (hK : Keeps s0 s) : OutKeeps s0
    (execCapShed prog t s) := by
  unfold execCapShed
  try dsimp only
  repeat' first
    | with_reducible first
        | assumption | apply ite_outKeeps | apply ite_keeps | apply iteP_keeps | apply OutKeeps.next | apply up_keeps
        | apply at__keeps | apply endProg_keeps
    | split | (intro _; intros) | split | refine fst_keeps (by with_reducible assumption) ?_

theorem postProg_keeps {s0 : State} (s : State) (tag : Tag) (owner : Fin 2) (r : List Byte) (hK : Keeps s0 s) : Keeps
    s0 (postProg s tag owner r) := by
  unfold postProg
  try dsimp only
  repeat' first
    | with_reducible first
        | assumption | apply ite_keeps | apply iteP_keeps | apply postEvent_keeps | apply ownerEvent_keeps
    | (intro _; intros) | split | refine fst_keeps (by with_reducible assumption) ?_

theorem specProgramStop_keeps {s0 : State} (o : Origin) (d : Desc) (k : Pick) (s : State) (hK : Keeps s0 s) : Keeps s0
    ((specProgramStop).eff o d k s) := by
  unfold specProgramStop
  try dsimp only
  repeat' first
    | with_reducible first
        | assumption | apply complete_keeps | apply endProg_keeps
    | (intro _; intros)

theorem clearProg_keeps {s0 : State} (s : State) (p : Nat) (pr : Program) (hK : Keeps s0 s) : Keeps s0 (clearProg s p
    pr) := by
  unfold clearProg
  try dsimp only
  repeat' first
    | with_reducible first
        | assumption | apply foldl_keeps | apply foldlP_keeps | apply zeroScratch_keeps | apply onCru_keeps
        | apply mailbox_keeps
    | (intro _; intros)

theorem specProgramPost_keeps {s0 : State} (o : Origin) (d : Desc) (k : Pick) (s : State) (hK : Keeps s0 s) : Keeps s0
    ((specProgramPost).eff o d k s) := by
  unfold specProgramPost
  try dsimp only
  repeat' first
    | with_reducible first
        | assumption | apply onProg_keeps | apply complete_keeps | apply mboxDeliver_keeps | apply mailbox_keeps
    | (intro _; intros)

theorem specProgramStart_keeps {s0 : State} (o : Origin) (d : Desc) (k : Pick) (s : State) (hK : Keeps s0 s) : Keeps
    s0 ((specProgramStart).eff o d k s) := by
  unfold specProgramStart
  try dsimp only
  repeat' first
    | with_reducible first
        | assumption | apply ite_keeps | apply iteP_keeps | apply complete_keeps | apply dmaRead_keeps
    | (intro _; intros) | split | refine fst_keeps (by with_reducible assumption) ?_

theorem execProgramStart_keeps {s0 : State} (r : CmdRef) (d : Desc) (s : State) (hK : Keeps s0 s) : OutKeeps s0
    (execProgramStart r d s) := by
  unfold execProgramStart
  try dsimp only
  repeat' first
    | with_reducible first
        | assumption | apply OutKeeps.next | apply up_keeps | apply runRow_keeps | apply specProgramStart_keeps
    | (intro _; intros)

theorem execProgramStop_keeps {s0 : State} (r : CmdRef) (d : Desc) (s : State) (hK : Keeps s0 s) : OutKeeps s0
    (execProgramStop r d s) := by
  unfold execProgramStop
  try dsimp only
  repeat' first
    | with_reducible first
        | assumption | apply OutKeeps.next | apply up_keeps | apply runRow_keeps | apply specProgramStop_keeps
    | (intro _; intros)

theorem execProgramPost_keeps {s0 : State} (r : CmdRef) (d : Desc) (s : State) (hK : Keeps s0 s) : OutKeeps s0
    (execProgramPost r d s) := by
  unfold execProgramPost
  try dsimp only
  repeat' first
    | with_reducible first
        | assumption | apply OutKeeps.next | apply up_keeps | apply runRow_keeps | apply specProgramPost_keeps
    | (intro _; intros)

theorem execProgramEndClear_keeps {s0 : State} (prog : BitVec 8) (s : State) (hK : Keeps s0 s) : OutKeeps s0
    (execProgramEndClear prog s) := by
  unfold execProgramEndClear
  try dsimp only
  repeat' first
    | with_reducible first
        | assumption | apply ite_outKeeps | apply ite_keeps | apply iteP_keeps | apply OutKeeps.next | apply up_keeps
        | apply countEnd_keeps | apply clearProg_keeps | apply traceProgram_keeps | apply postProg_keeps
    | split | (intro _; intros) | split | refine fst_keeps (by with_reducible assumption) ?_

end Sys2Proof.Machine
end

