-- ==== Sys2Proof/Laws/KeepsCollect.lean ====
section
/-! SUPPORT. What the functions of Collect keep. -/

namespace Sys2Proof.Machine

theorem onRGroup_keeps {s0 : State} (s : State) (g : Nat) (f : RGroup → RGroup) (hK : Keeps s0 s) : Keeps s0 (onRGroup
    s g f) := by
  unfold onRGroup
  try dsimp only
  repeat' first
    | with_reducible first
        | assumption | apply onCol_keeps
    | (intro _; intros)

theorem specGroupRearm_keeps {s0 : State} (o : Origin) (d : Desc) (k : Pick) (s : State) (hK : Keeps s0 s) : Keeps s0
    ((specGroupRearm).eff o d k s) := by
  unfold specGroupRearm
  try dsimp only
  repeat' first
    | with_reducible first
        | assumption | apply complete_keeps | apply onRGroup_keeps
    | (intro _; intros)

theorem execGroupRearm_keeps {s0 : State} (r : CmdRef) (d : Desc) (s : State) (hK : Keeps s0 s) : OutKeeps s0
    (execGroupRearm r d s) := by
  unfold execGroupRearm
  try dsimp only
  repeat' first
    | with_reducible first
        | assumption | apply OutKeeps.next | apply up_keeps | apply runRow_keeps | apply specGroupRearm_keeps
    | (intro _; intros)

theorem breakGroups_keeps {s0 : State} (s : State) (lost : Node) (hK : Keeps s0 s) : Keeps s0 (breakGroups s lost) :=
    by
  unfold breakGroups
  try dsimp only
  repeat' first
    | with_reducible first
        | assumption | apply ite_keeps | apply iteP_keeps | apply foldl_keeps | apply foldlP_keeps | apply onCol_keeps
        | apply ownerEvent_keeps | apply onRGroup_keeps
    | (intro _; intros) | split | refine fst_keeps (by with_reducible assumption) ?_

theorem countColNack_keeps {s0 : State} (s : State) (st : Status) (hK : Keeps s0 s) : Keeps s0 (countColNack s st) :=
    by
  unfold countColNack
  try dsimp only
  repeat' first
    | with_reducible first
        | assumption | apply ite_keeps | apply iteP_keeps | apply onCol_keeps
    | (intro _; intros) | split | refine fst_keeps (by with_reducible assumption) ?_

theorem serveContrib_keeps {s0 : State} (s : State) (a : Arrival) (hK : Keeps s0 s) : Keeps s0 (serveContrib s a) :=
    by
  unfold serveContrib
  try dsimp only
  repeat' first
    | with_reducible first
        | assumption | apply refuse_keeps | apply countColNack_keeps | apply onRGroup_keeps | apply onCol_keeps
        | apply finishReq_keeps
    | (intro _; intros) | split | refine fst_keeps (by with_reducible assumption) ?_

theorem execReduceContrib_keeps {s0 : State} (a : Arrival) (s : State) (hK : Keeps s0 s) : OutKeeps s0
    (execReduceContrib a s) := by
  unfold execReduceContrib
  try dsimp only
  repeat' first
    | with_reducible first
        | assumption | apply ite_outKeeps | apply ite_keeps | apply iteP_keeps | apply OutKeeps.next | apply up_keeps
        | apply receive_keeps | apply serveContrib_keeps
    | (intro _; intros) | split | refine fst_keeps (by with_reducible assumption) ?_

theorem formResult_keeps {s0 : State} (s : State) (i : Nat) (g : RGroup) (c : Combine) (hK : Keeps s0 s) : Keeps s0
    (formResult s i g c) := by
  unfold formResult
  try dsimp only
  repeat' first
    | with_reducible first
        | assumption | apply originate_keeps | apply onRGroup_keeps
    | (intro _; intros)

theorem restartEvents_keeps {s0 : State} (s : State) (hK : Keeps s0 s) : Keeps s0 (restartEvents s) := by
  unfold restartEvents
  try dsimp only
  repeat' first
    | with_reducible first
        | assumption | apply onCol_keeps
    | (intro _; intros)

theorem destroyGroup_keeps {s0 : State} (s : State) (i : Nat) (hK : Keeps s0 s) : Keeps s0 (destroyGroup s i) := by
  unfold destroyGroup
  try dsimp only
  repeat' first
    | with_reducible first
        | assumption | apply onCol_keeps
    | (intro _; intros) | split | refine fst_keeps (by with_reducible assumption) ?_

theorem specGroupDestroy_keeps {s0 : State} (o : Origin) (d : Desc) (k : Pick) (s : State) (hK : Keeps s0 s) : Keeps
    s0 ((specGroupDestroy).eff o d k s) := by
  unfold specGroupDestroy
  try dsimp only
  repeat' first
    | with_reducible first
        | assumption | apply complete_keeps | apply destroyGroup_keeps
    | (intro _; intros)

theorem execGroupDestroy_keeps {s0 : State} (r : CmdRef) (d : Desc) (s : State) (hK : Keeps s0 s) : OutKeeps s0
    (execGroupDestroy r d s) := by
  unfold execGroupDestroy
  try dsimp only
  repeat' first
    | with_reducible first
        | assumption | apply OutKeeps.next | apply up_keeps | apply runRow_keeps | apply specGroupDestroy_keeps
    | (intro _; intros)

theorem giveUpMember_keeps {s0 : State} (s : State) (i : Nat) (g : RGroup) (n : Nat) (rank : Nat) (hK : Keeps s0 s) :
    Keeps s0 (giveUpMember s i g n rank) := by
  unfold giveUpMember
  try dsimp only
  repeat' first
    | with_reducible first
        | assumption | apply reportGiveUp_keeps | apply onRGroup_keeps
    | (intro _; intros)

theorem execResultRetransmit_keeps {s0 : State} (group : BitVec 10) (n : Nat) (rank : Nat) (t : Time) (s : State) (hK
    : Keeps s0 s) : OutKeeps s0 (execResultRetransmit group n rank t s) := by
  unfold execResultRetransmit
  try dsimp only
  repeat' first
    | with_reducible first
        | assumption | apply ite_outKeeps | apply ite_keeps | apply iteP_keeps | apply OutKeeps.next | apply up_keeps
        | apply at__keeps | apply giveUpMember_keeps | apply onRGroup_keeps | apply countRetx_keeps
        | apply originate_keeps
    | split | (intro _; intros) | split | refine fst_keeps (by with_reducible assumption) ?_

theorem execResultFormed_keeps {s0 : State} (group : BitVec 10) (s : State) (hK : Keeps s0 s) : OutKeeps s0
    (execResultFormed group s) := by
  unfold execResultFormed
  try dsimp only
  repeat' first
    | with_reducible first
        | assumption | apply ite_outKeeps | apply ite_keeps | apply iteP_keeps | apply OutKeeps.next | apply up_keeps
        | apply formResult_keeps
    | split | (intro _; intros) | split | refine fst_keeps (by with_reducible assumption) ?_

theorem groupCreateGot_keeps {s0 : State} (s : State) (o : Origin) (d : Desc) (ok : Bool) (bs : List Byte) (hK : Keeps
    s0 s) : Keeps s0 (groupCreateGot s o d ok bs) := by
  unfold groupCreateGot
  try dsimp only
  repeat' first
    | with_reducible first
        | assumption | apply complete_keeps | apply onCol_keeps
    | (intro _; intros) | split | refine fst_keeps (by with_reducible assumption) ?_

theorem specGroupCreate_keeps {s0 : State} (o : Origin) (d : Desc) (k : Pick) (s : State) (hK : Keeps s0 s) : Keeps s0
    ((specGroupCreate).eff o d k s) := by
  unfold specGroupCreate
  try dsimp only
  repeat' first
    | with_reducible first
        | assumption | apply ite_keeps | apply iteP_keeps | apply groupCreateGot_keeps | apply dmaRead_keeps
    | (intro _; intros) | split | refine fst_keeps (by with_reducible assumption) ?_

theorem execGroupCreate_keeps {s0 : State} (r : CmdRef) (d : Desc) (s : State) (hK : Keeps s0 s) : OutKeeps s0
    (execGroupCreate r d s) := by
  unfold execGroupCreate
  try dsimp only
  repeat' first
    | with_reducible first
        | assumption | apply OutKeeps.next | apply up_keeps | apply runRow_keeps | apply specGroupCreate_keeps
    | (intro _; intros)

theorem specGroupQuery_keeps {s0 : State} (o : Origin) (d : Desc) (k : Pick) (s : State) (hK : Keeps s0 s) : Keeps s0
    ((specGroupQuery).eff o d k s) := by
  unfold specGroupQuery
  try dsimp only
  repeat' first
    | with_reducible first
        | assumption | apply queryOut_keeps
    | (intro _; intros)

theorem execGroupQuery_keeps {s0 : State} (r : CmdRef) (d : Desc) (s : State) (hK : Keeps s0 s) : OutKeeps s0
    (execGroupQuery r d s) := by
  unfold execGroupQuery
  try dsimp only
  repeat' first
    | with_reducible first
        | assumption | apply OutKeeps.next | apply up_keeps | apply runRow_keeps | apply specGroupQuery_keeps
    | (intro _; intros)

theorem execColDetEventsRestart_keeps {s0 : State} (s : State) (hK : Keeps s0 s) : OutKeeps s0
    (execColDetEventsRestart s) := by
  unfold execColDetEventsRestart
  try dsimp only
  repeat' first
    | with_reducible first
        | assumption | apply OutKeeps.next | apply up_keeps | apply restartEvents_keeps
    | (intro _; intros)

theorem memberAnswer_keeps {s0 : State} (s : State) (p : Packet) (hK : Keeps s0 s) : Keeps s0 (memberAnswer s p) := by
  unfold memberAnswer
  try dsimp only
  repeat' first
    | with_reducible first
        | assumption | apply ite_keeps | apply iteP_keeps | apply onRGroup_keeps | apply giveUpMember_keeps
    | (intro _; intros) | split | refine fst_keeps (by with_reducible assumption) ?_

end Sys2Proof.Machine
end

