-- ==== Sys2Proof/Laws/KeepsPower.lean ====
section
/-! SUPPORT. What the functions of Power keep. -/

namespace Sys2Proof.Machine

theorem setThrottle_keeps {s0 : State} (s : State) (duty : Nat) (gather : Nat) (hK : Keeps s0 s) : Keeps s0
    (setThrottle s duty gather) := by
  unfold setThrottle
  try dsimp only
  repeat' first
    | with_reducible first
        | assumption | apply ite_keeps | apply iteP_keeps | apply foldl_keeps | apply foldlP_keeps
        | apply onEngine_keeps | apply onPwr_keeps | apply traceQuench_keeps | apply countQuench_keeps
        | apply pumpLines_keeps
    | (intro _; intros) | split | refine fst_keeps (by with_reducible assumption) ?_

theorem restoreThrottles_keeps {s0 : State} (s : State) (activity : Nat) (hK : Keeps s0 s) : Keeps s0
    (restoreThrottles s activity) := by
  unfold restoreThrottles
  try dsimp only
  repeat' first
    | with_reducible first
        | assumption | apply ite_keeps | apply iteP_keeps | apply setThrottle_keeps
    | (intro _; intros) | split | refine fst_keeps (by with_reducible assumption) ?_

theorem closeSupply_keeps {s0 : State} (s : State) (hK : Keeps s0 s) : Keeps s0 (closeSupply s) := by
  unfold closeSupply
  try dsimp only
  repeat' first
    | with_reducible first
        | assumption | apply ite_keeps | apply iteP_keeps | apply onPwr_keeps | apply powerEvent_keeps
    | (intro _; intros) | split | refine fst_keeps (by with_reducible assumption) ?_

theorem takeWindow_keeps {s0 : State} (s : State) (rs : List Nat) (disturbed : Bool) (hK : Keeps s0 s) : Keeps s0
    (takeWindow s rs disturbed) := by
  unfold takeWindow
  try dsimp only
  repeat' first
    | with_reducible first
        | assumption | apply ite_keeps | apply iteP_keeps | apply foldl_keeps | apply foldlP_keeps | apply onPwr_keeps
        | apply onSwc_keeps
    | (intro _; intros) | split | refine fst_keeps (by with_reducible assumption) ?_

theorem windowDepth_keeps {s0 : State} (s : State) (rs : List Nat) (hK : Keeps s0 s) : Keeps s0 (windowDepth s rs).1
    := by
  unfold windowDepth
  try dsimp only
  repeat' first
    | with_reducible first
        | assumption | apply ite_keeps | apply iteP_keeps | apply stepFree_keeps
    | (intro _; intros) | split | refine fst_keeps (by with_reducible assumption) ?_

theorem extendSupply_keeps {s0 : State} (s : State) (rs : List Nat) (x : Supply) (hK : Keeps s0 s) : Keeps s0
    (extendSupply s rs x) := by
  unfold extendSupply
  try dsimp only
  repeat' first
    | with_reducible first
        | assumption | apply ite_keeps | apply iteP_keeps | apply windowDepth_keeps | apply onPwr_keeps
    | (intro _; intros) | split | refine fst_keeps (by with_reducible assumption) ?_

theorem openSupply_keeps {s0 : State} (s : State) (start : Nat) (depth : Nat) (low : List Nat) (hK : Keeps s0 s) :
    Keeps s0 (openSupply s start depth low) := by
  unfold openSupply
  try dsimp only
  repeat' first
    | with_reducible first
        | assumption | apply onPwr_keeps
    | (intro _; intros)

theorem execSensorWindow_keeps {s0 : State} (t : Time) (readings : List Nat) (s : State) (hK : Keeps s0 s) : OutKeeps
    s0 (execSensorWindow t readings s) := by
  unfold execSensorWindow
  try dsimp only
  repeat' first
    | with_reducible first
        | assumption | apply ite_outKeeps | apply ite_keeps | apply iteP_keeps | apply OutKeeps.next | apply up_keeps
        | apply at__keeps | apply closeSupply_keeps | apply takeWindow_keeps | apply extendSupply_keeps
        | apply windowDepth_keeps | apply openSupply_keeps | apply onPwr_keeps
    | split | (intro _; intros) | split | refine fst_keeps (by with_reducible assumption) ?_

theorem takeTemps_keeps {s0 : State} (s : State) (logic : List Nat) (dram : List Nat) (hK : Keeps s0 s) : Keeps s0
    (takeTemps s logic dram) := by
  unfold takeTemps
  try dsimp only
  repeat' first
    | with_reducible first
        | assumption | apply foldl_keeps | apply foldlP_keeps | apply onPwr_keeps | apply onStack_keeps
    | (intro _; intros)

theorem execThermalCapStep_keeps {s0 : State} (t : Time) (logic : List Nat) (dram : List Nat) (s : State) (hK : Keeps
    s0 s) : OutKeeps s0 (execThermalCapStep t logic dram s) := by
  unfold execThermalCapStep
  try dsimp only
  repeat' first
    | with_reducible first
        | assumption | apply ite_outKeeps | apply ite_keeps | apply iteP_keeps | apply OutKeeps.next | apply up_keeps
        | apply takeTemps_keeps | apply at__keeps | apply onPwr_keeps | apply setCap_keeps
    | (intro _; intros) | split | refine fst_keeps (by with_reducible assumption) ?_

theorem command_keeps {s0 : State} (s : State) (v : Nat) (hK : Keeps s0 s) : Keeps s0 (command s v) := by
  unfold command
  try dsimp only
  repeat' first
    | with_reducible first
        | assumption | apply ite_keeps | apply iteP_keeps | apply emit_keeps | apply onPwr_keeps
    | (intro _; intros) | split | refine fst_keeps (by with_reducible assumption) ?_

theorem enterMode_keeps {s0 : State} (s : State) (d : Desc) (hK : Keeps s0 s) : Keeps s0 (enterMode s d) := by
  unfold enterMode
  try dsimp only
  repeat' first
    | with_reducible first
        | assumption | apply ite_keeps | apply iteP_keeps | apply onPwr_keeps | apply setThrottle_keeps
        | apply command_keeps
    | (intro _; intros) | split | refine fst_keeps (by with_reducible assumption) ?_

theorem specSupplyDump_keeps {s0 : State} (o : Origin) (d : Desc) (k : Pick) (s : State) (hK : Keeps s0 s) : Keeps s0
    ((specSupplyDump).eff o d k s) := by
  unfold specSupplyDump
  try dsimp only
  repeat' first
    | with_reducible first
        | assumption | apply ite_keeps | apply iteP_keeps | apply complete_keeps | apply dmaWrite_keeps
    | (intro _; intros) | split | refine fst_keeps (by with_reducible assumption) ?_

theorem execSupplyDump_keeps {s0 : State} (r : CmdRef) (d : Desc) (s : State) (hK : Keeps s0 s) : OutKeeps s0
    (execSupplyDump r d s) := by
  unfold execSupplyDump
  try dsimp only
  repeat' first
    | with_reducible first
        | assumption | apply OutKeeps.next | apply up_keeps | apply runRow_keeps | apply specSupplyDump_keeps
    | (intro _; intros)

theorem tripPort_keeps {s0 : State} (s : State) (p : Nat) (hK : Keeps s0 s) : Keeps s0 (tripPort s p) := by
  unfold tripPort
  try dsimp only
  repeat' first
    | with_reducible first
        | assumption | apply ite_keeps | apply iteP_keeps | apply stayOut_keeps
    | (intro _; intros) | split | refine fst_keeps (by with_reducible assumption) ?_

theorem execPfwNDeassert_keeps {s0 : State} (t : Time) (_activity : Nat) (demand : Nat) (s : State) (hK : Keeps s0 s)
    : OutKeeps s0 (execPfwNDeassert t _activity demand s) := by
  unfold execPfwNDeassert
  try dsimp only
  repeat' first
    | with_reducible first
        | assumption | apply ite_outKeeps | apply ite_keeps | apply iteP_keeps | apply OutKeeps.next | apply up_keeps
        | apply at__keeps | apply onPwr_keeps | apply command_keeps
    | (intro _; intros) | split | refine fst_keeps (by with_reducible assumption) ?_

theorem execVrSilent_keeps {s0 : State} (t : Time) (s : State) (hK : Keeps s0 s) : OutKeeps s0 (execVrSilent t s) :=
    by
  unfold execVrSilent
  try dsimp only
  repeat' first
    | with_reducible first
        | assumption | apply ite_outKeeps | apply ite_keeps | apply iteP_keeps | apply OutKeeps.next | apply up_keeps
        | apply at__keeps | apply powerEvent_keeps | apply onPwr_keeps
    | (intro _; intros) | split | refine fst_keeps (by with_reducible assumption) ?_

theorem execPfwNAssert_keeps {s0 : State} (s : State) (hK : Keeps s0 s) : OutKeeps s0 (execPfwNAssert s) := by
  unfold execPfwNAssert
  try dsimp only
  repeat' first
    | with_reducible first
        | assumption | apply ite_outKeeps | apply ite_keeps | apply iteP_keeps | apply OutKeeps.next | apply up_keeps
        | apply setThrottle_keeps | apply onPwr_keeps | apply openSupply_keeps | apply powerEvent_keeps
    | split | (intro _; intros) | split | refine fst_keeps (by with_reducible assumption) ?_

theorem quench_keeps {s0 : State} (s : State) (activity : Nat) (hK : Keeps s0 s) : Keeps s0 (quench s activity) := by
  unfold quench
  try dsimp only
  repeat' first
    | with_reducible first
        | assumption | apply ite_keeps | apply iteP_keeps | apply setThrottle_keeps
    | (intro _; intros) | split | refine fst_keeps (by with_reducible assumption) ?_

theorem execPowerEstimate_keeps {s0 : State} (t : Time) (activity : Nat) (s : State) (hK : Keeps s0 s) : OutKeeps s0
    (execPowerEstimate t activity s) := by
  unfold execPowerEstimate
  try dsimp only
  repeat' first
    | with_reducible first
        | assumption | apply ite_outKeeps | apply ite_keeps | apply iteP_keeps | apply OutKeeps.next | apply up_keeps
        | apply at__keeps | apply onPwr_keeps | apply quench_keeps
    | (intro _; intros) | split | refine fst_keeps (by with_reducible assumption) ?_

theorem execHeadroomCheck_keeps {s0 : State} (t : Time) (activity : Nat) (demand : Nat) (s : State) (hK : Keeps s0 s)
    : OutKeeps s0 (execHeadroomCheck t activity demand s) := by
  unfold execHeadroomCheck
  try dsimp only
  repeat' first
    | with_reducible first
        | assumption | apply ite_outKeeps | apply ite_keeps | apply iteP_keeps | apply OutKeeps.next | apply up_keeps
        | apply at__keeps | apply onPwr_keeps | apply restoreThrottles_keeps | apply command_keeps
    | (intro _; intros) | split | refine fst_keeps (by with_reducible assumption) ?_

theorem execVcoreSettled_keeps {s0 : State} (t : Time) (activity : Nat) (s : State) (hK : Keeps s0 s) : OutKeeps s0
    (execVcoreSettled t activity s) := by
  unfold execVcoreSettled
  try dsimp only
  repeat' first
    | with_reducible first
        | assumption | apply ite_outKeeps | apply ite_keeps | apply iteP_keeps | apply OutKeeps.next | apply up_keeps
        | apply at__keeps | apply onPwr_keeps | apply restoreThrottles_keeps
    | (intro _; intros) | split | refine fst_keeps (by with_reducible assumption) ?_

theorem execEstimateCalibrate_keeps {s0 : State} (t : Time) (current : Nat) (s : State) (hK : Keeps s0 s) : OutKeeps
    s0 (execEstimateCalibrate t current s) := by
  unfold execEstimateCalibrate
  try dsimp only
  repeat' first
    | with_reducible first
        | assumption | apply OutKeeps.next | apply up_keeps | apply onPwr_keeps | apply at__keeps
    | (intro _; intros)

theorem specPwrMode_keeps {s0 : State} (o : Origin) (d : Desc) (k : Pick) (s : State) (hK : Keeps s0 s) : Keeps s0
    ((specPwrMode).eff o d k s) := by
  unfold specPwrMode
  try dsimp only
  repeat' first
    | with_reducible first
        | assumption | apply complete_keeps | apply enterMode_keeps
    | (intro _; intros)

theorem execPwrMode_keeps {s0 : State} (r : CmdRef) (d : Desc) (s : State) (hK : Keeps s0 s) : OutKeeps s0
    (execPwrMode r d s) := by
  unfold execPwrMode
  try dsimp only
  repeat' first
    | with_reducible first
        | assumption | apply OutKeeps.next | apply up_keeps | apply runRow_keeps | apply specPwrMode_keeps
    | (intro _; intros)

theorem execRegulatorPoll_keeps {s0 : State} (t : Time) (m : RegReading) (s : State) (hK : Keeps s0 s) : OutKeeps s0
    (execRegulatorPoll t m s) := by
  unfold execRegulatorPoll
  try dsimp only
  repeat' first
    | with_reducible first
        | assumption | apply ite_outKeeps | apply ite_keeps | apply iteP_keeps | apply OutKeeps.next | apply up_keeps
        | apply at__keeps | apply onPwr_keeps
    | split | (intro _; intros) | split | refine fst_keeps (by with_reducible assumption) ?_

theorem execVcoreRetarget_keeps {s0 : State} (t : Time) (_activity : Nat) (demand : Nat) (s : State) (hK : Keeps s0 s)
    : OutKeeps s0 (execVcoreRetarget t _activity demand s) := by
  unfold execVcoreRetarget
  try dsimp only
  repeat' first
    | with_reducible first
        | assumption | apply ite_outKeeps | apply ite_keeps | apply iteP_keeps | apply OutKeeps.next | apply up_keeps
        | apply at__keeps | apply command_keeps | apply onPwr_keeps
    | split | (intro _; intros) | split | refine fst_keeps (by with_reducible assumption) ?_

theorem specSupplyCtrl_keeps {s0 : State} (o : Origin) (d : Desc) (k : Pick) (s : State) (hK : Keeps s0 s) : Keeps s0
    ((specSupplyCtrl).eff o d k s) := by
  unfold specSupplyCtrl
  try dsimp only
  repeat' first
    | with_reducible first
        | assumption | apply ite_keeps | apply iteP_keeps | apply complete_keeps | apply onPwr_keeps
    | (intro _; intros) | split | refine fst_keeps (by with_reducible assumption) ?_

theorem execSupplyCtrl_keeps {s0 : State} (r : CmdRef) (d : Desc) (s : State) (hK : Keeps s0 s) : OutKeeps s0
    (execSupplyCtrl r d s) := by
  unfold execSupplyCtrl
  try dsimp only
  repeat' first
    | with_reducible first
        | assumption | apply OutKeeps.next | apply up_keeps | apply runRow_keeps | apply specSupplyCtrl_keeps
    | (intro _; intros)

theorem execFixedLeft_keeps {s0 : State} (t : Time) (_activity : Nat) (demand : Nat) (s : State) (hK : Keeps s0 s) :
    OutKeeps s0 (execFixedLeft t _activity demand s) := by
  unfold execFixedLeft
  try dsimp only
  repeat' first
    | with_reducible first
        | assumption | apply ite_outKeeps | apply ite_keeps | apply iteP_keeps | apply OutKeeps.next | apply up_keeps
        | apply at__keeps | apply command_keeps | apply onPwr_keeps
    | split | (intro _; intros) | split | refine fst_keeps (by with_reducible assumption) ?_

theorem execThermalTrip_keeps {s0 : State} (logic : List Nat) (dram : List Nat) (s : State) (hK : Keeps s0 s) :
    OutKeeps s0 (execThermalTrip logic dram s) := by
  unfold execThermalTrip
  try dsimp only
  repeat' first
    | with_reducible first
        | assumption | apply ite_outKeeps | apply ite_keeps | apply iteP_keeps | apply OutKeeps.next
        | apply foldl_keeps | apply foldlP_keeps | apply up_keeps | apply takeTemps_keeps | apply setThrottle_keeps
        | apply tripPort_keeps | apply onPwr_keeps | apply powerEvent_keeps | apply emit_keeps
    | (intro _; intros) | split | refine fst_keeps (by with_reducible assumption) ?_ | with_reducible apply mk_keeps

end Sys2Proof.Machine
end

