-- ==== Sys2Proof/Laws/KeepsZsResolve.lean ====
section
/-! SUPPORT. What the functions of ZsResolve keep. -/

namespace Sys2Proof.Machine

theorem partnerWriteFailed_keeps {s0 : State} (s : State) (wid : Nat) (ri : Nat) (hK : Keeps s0 s) : Keeps s0
    (partnerWriteFailed s wid ri) := by
  unfold partnerWriteFailed
  try dsimp only
  repeat' first
    | with_reducible first
        | assumption | apply partnerCopyLost_keeps | apply landMirror_keeps
    | (intro _; intros) | split | refine fst_keeps (by with_reducible assumption) ?_

theorem finishCarry_keeps {s0 : State} (s : State) (c : Carry) (rec_ : List Byte) (hK : Keeps s0 s) : Keeps s0
    (finishCarry s c rec_) := by
  unfold finishCarry
  try dsimp only
  repeat' first
    | with_reducible first
        | assumption | apply ite_keeps | apply iteP_keeps | apply onHif_keeps | apply writeCompletion_keeps
        | apply sendMgmt_keeps
    | (intro _; intros) | split | refine fst_keeps (by with_reducible assumption) ?_

theorem carryLost_keeps {s0 : State} (s : State) (id : Nat) (hK : Keeps s0 s) : Keeps s0 (carryLost s id) := by
  unfold carryLost
  try dsimp only
  repeat' first
    | with_reducible first
        | assumption | apply ite_keeps | apply iteP_keeps | apply complete_keeps | apply onHif_keeps
    | (intro _; intros) | split | refine fst_keeps (by with_reducible assumption) ?_

theorem partnerFreed_keeps {s0 : State} (s : State) (ri : Nat) (ok : Bool) (hK : Keeps s0 s) : Keeps s0 (partnerFreed
    s ri ok) := by
  unfold partnerFreed
  try dsimp only
  repeat' first
    | with_reducible first
        | assumption | apply ite_keeps | apply iteP_keeps | apply onSec_keeps
    | exact fun h => h | exact fun h => Mem.writeN_wf _ _ _ h | exact fun h => Mem.zero_wf _ _ _ h
    | exact fun h => Mem.foldWrite_wf _ (fun p _ hp => Mem.write_wf p.1 _ _ hp) _ _ h | (intro _; intros) | split
    | refine fst_keeps (by with_reducible assumption) ?_

theorem adoptPart_keeps {s0 : State} (s : State) (what : Nat) (part : Nat) (data : List Byte) (hK : Keeps s0 s) :
    Keeps s0 (adoptPart s what part data) := by
  unfold adoptPart
  try dsimp only
  repeat' first
    | with_reducible first
        | assumption | apply ite_keeps | apply iteP_keeps | apply foldl_keeps | apply foldlP_keeps | apply onFlt_keeps
        | apply onXp_keeps
    | (intro _; intros) | split | refine fst_keeps (by with_reducible assumption) ?_

theorem reconfigureEps_keeps {s0 : State} (s : State) (hK : Keeps s0 s) : Keeps s0 (reconfigureEps s) := by
  unfold reconfigureEps
  try dsimp only
  repeat' first
    | with_reducible first
        | assumption | apply foldl_keeps | apply foldlP_keeps | apply epcWriteReq_keeps
    | (intro _; intros)

theorem tableGot_keeps {s0 : State} (s : State) (p : Packet) (hK : Keeps s0 s) : Keeps s0 (tableGot s p) := by
  unfold tableGot
  try dsimp only
  repeat' first
    | with_reducible first
        | assumption | apply ite_keeps | apply iteP_keeps | apply adoptPart_keeps | apply reconfigureEps_keeps
    | (intro _; intros) | split | refine fst_keeps (by with_reducible assumption) ?_

theorem endRowCap_keeps {s0 : State} (s : State) (c : RowCap) (hK : Keeps s0 s) : Keeps s0 (endRowCap s c) := by
  unfold endRowCap
  try dsimp only
  repeat' first
    | with_reducible first
        | assumption | apply complete_keeps | apply onPwr_keeps
    | (intro _; intros)

theorem rowCapsDone_keeps {s0 : State} (s : State) (hK : Keeps s0 s) : Keeps s0 (rowCapsDone s) := by
  unfold rowCapsDone
  try dsimp only
  repeat' first
    | with_reducible first
        | assumption | apply foldl_keeps | apply foldlP_keeps | apply endRowCap_keeps
    | (intro _; intros)

theorem onRowCap_keeps {s0 : State} (s : State) (id : Nat) (f : RowCap → RowCap) (hK : Keeps s0 s) : Keeps s0
    (onRowCap s id f) := by
  unfold onRowCap
  try dsimp only
  repeat' first
    | with_reducible first
        | assumption | apply ite_keeps | apply iteP_keeps | apply onPwr_keeps
    | (intro _; intros) | split | refine fst_keeps (by with_reducible assumption) ?_

theorem capAcked_keeps {s0 : State} (s : State) (id : Nat) (ok : Bool) (hK : Keeps s0 s) : Keeps s0 (capAcked s id ok)
    := by
  unfold capAcked
  try dsimp only
  repeat' first
    | with_reducible first
        | assumption | apply rowCapsDone_keeps | apply onRowCap_keeps
    | (intro _; intros)

theorem zsResolved_keeps {s0 : State} (s : State) (c : Cause) (req : Packet) (st : Status) (p : Packet) (hK : Keeps s0
    s) : Keeps s0 (zsResolved s c req st p) := by
  unfold zsResolved
  try dsimp only
  repeat' first
    | with_reducible first
        | assumption | apply ite_keeps | apply iteP_keeps | apply storeResolved_keeps | apply mirrorAcked_keeps
        | apply partnerWriteFailed_keeps | apply partnerDataGot_keeps | apply partnerDataFailed_keeps
        | apply grantGot_keeps | apply complete_keeps | apply partnerFreed_keeps | apply onHif_keeps
        | apply carryLost_keeps | apply epcGot_keeps | apply epcEnded_keeps | apply epcIdentGot_keeps
        | apply tableGot_keeps | apply capAcked_keeps
    | (intro _; intros) | split | refine fst_keeps (by with_reducible assumption) ?_

theorem carriesGo_keeps {s0 : State} (s : State) (hK : Keeps s0 s) : Keeps s0 (carriesGo s) := by
  unfold carriesGo
  try dsimp only
  repeat' first
    | with_reducible first
        | assumption | apply ite_keeps | apply iteP_keeps | apply foldl_keeps | apply foldlP_keeps
        | apply finishCarry_keeps
    | (intro _; intros) | split | refine fst_keeps (by with_reducible assumption) ?_

theorem zsEnd_keeps {s0 : State} (s : State) (o : Op) (st : Status) (p : Packet) (hK : Keeps s0 s) : Keeps s0 (zsEnd s
    o st p) := by
  unfold zsEnd
  try dsimp only
  repeat' first
    | with_reducible first
        | assumption | apply zsResolved_keeps | apply onXp_keeps
    | (intro _; intros)

theorem zsResponse_keeps {s0 : State} (s : State) (a : Arrival) (hK : Keeps s0 s) : Keeps s0 (zsResponse s a) := by
  unfold zsResponse
  try dsimp only
  repeat' first
    | with_reducible first
        | assumption | apply ite_keeps | apply iteP_keeps | apply consume_keeps | apply pump_keeps
        | apply memberAnswer_keeps | apply onXp_keeps | apply zsEnd_keeps
    | (intro _; intros) | split | refine fst_keeps (by with_reducible assumption) ?_

theorem execCarryTimeout_keeps {s0 : State} (id : Nat) (t : Time) (s : State) (hK : Keeps s0 s) : OutKeeps s0
    (execCarryTimeout id t s) := by
  unfold execCarryTimeout
  try dsimp only
  repeat' first
    | with_reducible first
        | assumption | apply ite_outKeeps | apply ite_keeps | apply iteP_keeps | apply OutKeeps.next | apply up_keeps
        | apply at__keeps | apply carryLost_keeps
    | split | (intro _; intros) | split | refine fst_keeps (by with_reducible assumption) ?_

theorem zsGiveUp_keeps {s0 : State} (s : State) (o : Op) (hK : Keeps s0 s) : Keeps s0 (zsGiveUp s o) := by
  unfold zsGiveUp
  try dsimp only
  repeat' first
    | with_reducible first
        | assumption | apply pump_keeps | apply zsEnd_keeps | apply reportGiveUp_keeps
    | (intro _; intros)

theorem zsEndAll_keeps {s0 : State} (s : State) (sel : Packet → Bool) (hK : Keeps s0 s) : Keeps s0 (zsEndAll s sel) :=
    by
  unfold zsEndAll
  try dsimp only
  repeat' first
    | with_reducible first
        | assumption | apply foldl_keeps | apply foldlP_keeps | apply onXp_keeps | apply zsEnd_keeps
        | apply zsResolved_keeps
    | (intro _; intros)

theorem execRowCapTimeout_keeps {s0 : State} (t : Time) (s : State) (hK : Keeps s0 s) : OutKeeps s0 (execRowCapTimeout
    t s) := by
  unfold execRowCapTimeout
  try dsimp only
  repeat' first
    | with_reducible first
        | assumption | apply OutKeeps.next | apply foldl_keeps | apply foldlP_keeps | apply up_keeps | apply at__keeps
        | apply endRowCap_keeps
    | (intro _; intros)

theorem zsRetransmit_keeps {s0 : State} (s : State) (o : Op) (hK : Keeps s0 s) : Keeps s0 (zsRetransmit s o) := by
  unfold zsRetransmit
  try dsimp only
  repeat' first
    | with_reducible first
        | assumption | apply ite_keeps | apply iteP_keeps | apply originate_keeps | apply countRetx_keeps
        | apply onXp_keeps
    | (intro _; intros) | split | refine fst_keeps (by with_reducible assumption) ?_

theorem carryCplGot_keeps {s0 : State} (s : State) (y : List Byte) (hK : Keeps s0 s) : Keeps s0 (carryCplGot s y) :=
    by
  unfold carryCplGot
  try dsimp only
  repeat' first
    | with_reducible first
        | assumption | apply ite_keeps | apply iteP_keeps | apply onHif_keeps | apply finishCarry_keeps
    | (intro _; intros) | split | refine fst_keeps (by with_reducible assumption) ?_

end Sys2Proof.Machine
end

