-- ==== Sys2Proof/Laws/KeepsFault.lean ====
section
/-! SUPPORT. What the functions of Fault keep. -/

namespace Sys2Proof.Machine

theorem dropMgr_keeps {s0 : State} (s : State) (id : Nat) (hK : Keeps s0 s) : Keeps s0 (dropMgr s id) := by
  unfold dropMgr
  try dsimp only
  repeat' first
    | with_reducible first
        | assumption | apply onFlt_keeps
    | (intro _; intros)

theorem sendRowCap_keeps {s0 : State} (s : State) (o : Origin) (d : Desc) (hK : Keeps s0 s) : Keeps s0 (sendRowCap s o
    d) := by
  unfold sendRowCap
  try dsimp only
  repeat' first
    | with_reducible first
        | assumption | apply ite_keeps | apply iteP_keeps | apply foldl_keeps | apply foldlP_keeps | apply onFlt_keeps
        | apply stageRowCap_keeps | apply onPwr_keeps | apply rowCapsDone_keeps | apply sendMgmt_keeps
    | (intro _; intros) | split | refine fst_keeps (by with_reducible assumption) ?_

theorem stageSpare_keeps {s0 : State} (s : State) (v : Verdict) (hK : Keeps s0 s) : Keeps s0 (stageSpare s v) := by
  unfold stageSpare
  try dsimp only
  repeat' first
    | with_reducible first
        | assumption | apply ite_keeps | apply iteP_keeps | apply epcWriteReq_keeps
    | (intro _; intros) | split | refine fst_keeps (by with_reducible assumption) ?_

theorem slotRunnersLost_keeps {s0 : State} (s : State) (n : Node) (hK : Keeps s0 s) : Keeps s0 (slotRunnersLost s n)
    := by
  unfold slotRunnersLost
  try dsimp only
  repeat' first
    | with_reducible first
        | assumption | apply ite_keeps | apply iteP_keeps | apply onSwc_keeps
    | (intro _; intros) | split | refine fst_keeps (by with_reducible assumption) ?_

theorem loseNodeZs_keeps {s0 : State} (s : State) (n : Node) (hK : Keeps s0 s) : Keeps s0 (loseNodeZs s n).1 := by
  unfold loseNodeZs
  try dsimp only
  repeat' first
    | with_reducible first
        | assumption | apply ite_keeps | apply iteP_keeps | apply foldl_keeps | apply foldlP_keeps
        | apply partnerCopyLost_keeps | apply zsEndAll_keeps | apply onXp_keeps | apply memberLost_keeps
        | apply slotRunnersLost_keeps | apply breakGroups_keeps | apply onSwc_keeps | apply onPool_keeps
    | exact fun h => h | exact fun h => Mem.writeN_wf _ _ _ h | exact fun h => Mem.zero_wf _ _ _ h
    | exact fun h => Mem.foldWrite_wf _ (fun p _ hp => Mem.write_wf p.1 _ _ hp) _ _ h | (intro _; intros) | split
    | refine fst_keeps (by with_reducible assumption) ?_

theorem unservedZs_keeps {s0 : State} (s : State) (n : Node) (st : Nat) (inc : Byte) (hK : Keeps s0 s) : Keeps s0
    (unservedZs s n st inc) := by
  unfold unservedZs
  try dsimp only
  repeat' first
    | with_reducible first
        | assumption | apply ite_keeps | apply iteP_keeps | apply onFlt_keeps | apply onXp_keeps
    | (intro _; intros) | split | refine fst_keeps (by with_reducible assumption) ?_

theorem remapZs_keeps {s0 : State} (s : State) (n : Node) (phys : Node) (inc : Byte) (hK : Keeps s0 s) : Keeps s0
    (remapZs s n phys inc) := by
  unfold remapZs
  try dsimp only
  repeat' first
    | with_reducible first
        | assumption | apply ite_keeps | apply iteP_keeps | apply onXp_keeps | apply onFlt_keeps
    | (intro _; intros) | split | refine fst_keeps (by with_reducible assumption) ?_

theorem nodeRecords_keeps {s0 : State} (s : State) (v : Verdict) (ended : List Tag) (poisoned : List Tag) (unbound :
    List Tag) (hK : Keeps s0 s) : Keeps s0 (nodeRecords s v ended poisoned unbound) := by
  unfold nodeRecords
  try dsimp only
  repeat' first
    | with_reducible first
        | assumption | apply foldl_keeps | apply foldlP_keeps | apply bothEvent_keeps | apply ownerEvent_keeps
    | (intro _; intros)

theorem setMode_keeps {s0 : State} (s : State) (service : Bool) (hK : Keeps s0 s) : Keeps s0 (setMode s service) := by
  unfold setMode
  try dsimp only
  repeat' first
    | with_reducible first
        | assumption | apply ite_keeps | apply iteP_keeps | apply onFlt_keeps | apply onLnk_keeps
    | (intro _; intros) | split | refine fst_keeps (by with_reducible assumption) ?_

theorem applyZs_keeps {s0 : State} (s : State) (v : Verdict) (hK : Keeps s0 s) : Keeps s0 (applyZs s v) := by
  unfold applyZs
  try dsimp only
  repeat' first
    | with_reducible first
        | assumption | apply ite_keeps | apply iteP_keeps | apply onFlt_keeps | apply loseNodeZs_keeps
        | apply unservedZs_keeps | apply remapZs_keeps | apply nodeRecords_keeps | apply setMode_keeps
    | (intro _; intros) | split | refine fst_keeps (by with_reducible assumption) ?_

theorem loseNodeZe_keeps {s0 : State} (s : State) (n : Node) (hK : Keeps s0 s) : Keeps s0 (loseNodeZe s n) := by
  unfold loseNodeZe
  try dsimp only
  repeat' first
    | with_reducible first
        | assumption | apply epEndAll_keeps | apply onEp_keeps
    | (intro _; intros)

theorem epEmptyCache_keeps {s0 : State} (s : State) (hK : Keeps s0 s) : Keeps s0 (epEmptyCache s) := by
  unfold epEmptyCache
  try dsimp only
  repeat' first
    | with_reducible first
        | assumption | apply foldl_keeps | apply foldlP_keeps | apply onEp_keeps | apply epWriteback_keeps
    | (intro _; intros)

theorem applyZe_keeps {s0 : State} (s : State) (v : Verdict) (hK : Keeps s0 s) : Keeps s0 (applyZe s v) := by
  unfold applyZe
  try dsimp only
  repeat' first
    | with_reducible first
        | assumption | apply ite_keeps | apply iteP_keeps | apply onEpXp_keeps | apply loseNodeZe_keeps
        | apply epEmptyCache_keeps | apply onEp_keeps
    | (intro _; intros) | split | refine fst_keeps (by with_reducible assumption) ?_

theorem applyVerdict_keeps {s0 : State} (s : State) (part : Part) (v : Verdict) (hK : Keeps s0 s) : Keeps s0
    (applyVerdict s part v) := by
  unfold applyVerdict
  try dsimp only
  repeat' first
    | with_reducible first
        | assumption | apply ite_keeps | apply iteP_keeps | apply onTn_keeps | apply applyZs_keeps
        | apply applyZe_keeps
    | (intro _; intros) | split | refine fst_keeps (by with_reducible assumption) ?_

theorem commandsGo_keeps {s0 : State} (s : State) (hK : Keeps s0 s) : Keeps s0 (commandsGo s) := by
  unfold commandsGo
  try dsimp only
  repeat' first
    | with_reducible first
        | assumption | apply foldl_keeps | apply foldlP_keeps | apply complete_keeps | apply onFlt_keeps
        | apply carriesGo_keeps
    | (intro _; intros)

theorem acceptVerdict_keeps {s0 : State} (s : State) (part : Part) (v : Verdict) (hK : Keeps s0 s) : Keeps s0
    (acceptVerdict s part v) := by
  unfold acceptVerdict
  try dsimp only
  repeat' first
    | with_reducible first
        | assumption | apply ite_keeps | apply iteP_keeps | apply stageSpare_keeps | apply onTn_keeps
        | apply applyVerdict_keeps | apply commandsGo_keeps | apply onFlt_keeps
    | (intro _; intros) | split | refine fst_keeps (by with_reducible assumption) ?_

theorem issueVerdict_keeps {s0 : State} (s : State) (kind : Byte) (subject : Node) (phys : Node) (inc : Byte) (cause :
    Byte) (arg : Nat) (hK : Keeps s0 s) : Keeps s0 (issueVerdict s kind subject phys inc cause arg) := by
  unfold issueVerdict
  try dsimp only
  repeat' first
    | with_reducible first
        | assumption | apply onFlt_keeps | apply acceptVerdict_keeps | apply flood_keeps | apply markSeen_keeps
    | (intro _; intros)

theorem decideVerdicts_keeps {s0 : State} (s : State) (d : Desc) (hK : Keeps s0 s) : Keeps s0 (decideVerdicts s d) :=
    by
  unfold decideVerdicts
  try dsimp only
  repeat' first
    | with_reducible first
        | assumption | apply ite_keeps | apply iteP_keeps | apply foldl_keeps | apply foldlP_keeps
        | apply issueVerdict_keeps | apply stepFree_keeps
    | (intro _; intros) | split | refine fst_keeps (by with_reducible assumption) ?_

theorem mgrDecide_keeps {s0 : State} (s : State) (m : MgrCmd) (hK : Keeps s0 s) : Keeps s0 (mgrDecide s m) := by
  unfold mgrDecide
  try dsimp only
  repeat' first
    | with_reducible first
        | assumption | apply ite_keeps | apply iteP_keeps | apply dropMgr_keeps | apply complete_keeps
        | apply sendRowCap_keeps | apply onRgn_keeps | apply decideVerdicts_keeps | apply commandsGo_keeps
        | apply onFlt_keeps
    | (intro _; intros) | split | refine fst_keeps (by with_reducible assumption) ?_

theorem mgrGo_keeps {s0 : State} (s : State) (hK : Keeps s0 s) : Keeps s0 (mgrGo s) := by
  unfold mgrGo
  try dsimp only
  repeat' first
    | with_reducible first
        | assumption | apply ite_keeps | apply iteP_keeps | apply foldl_keeps | apply foldlP_keeps
        | apply mgrDecide_keeps | apply carryOut_keeps | apply dropMgr_keeps
    | (intro _; intros) | split | refine fst_keeps (by with_reducible assumption) ?_

theorem addMgr_keeps {s0 : State} (s : State) (o : Origin) (d : Desc) (hK : Keeps s0 s) : Keeps s0 (addMgr s o d) :=
    by
  unfold addMgr
  try dsimp only
  repeat' first
    | with_reducible first
        | assumption | apply mgrGo_keeps | apply onFlt_keeps | apply effectEnds_keeps
    | (intro _; intros)

theorem runMgr_keeps {s0 : State} (s : State) (o : Origin) (d : Desc) (hK : Keeps s0 s) : Keeps s0 (runMgr s o d) :=
    by
  unfold runMgr
  try dsimp only
  repeat' first
    | with_reducible first
        | assumption | apply ite_keeps | apply iteP_keeps | apply complete_keeps | apply addMgr_keeps
    | (intro _; intros) | split | refine fst_keeps (by with_reducible assumption) ?_

theorem mgrRow_keeps {s0 : State} (op : Nat) (r : CmdRef) (d : Desc) (s : State) (hK : Keeps s0 s) : Keeps s0 (mgrRow
    op r d s) := by
  unfold mgrRow
  try dsimp only
  repeat' first
    | with_reducible first
        | assumption | apply runMgr_keeps | apply markBegun_keeps
    | (intro _; intros) | split | refine fst_keeps (by with_reducible assumption) ?_

theorem execDusk_keeps {s0 : State} (r : CmdRef) (d : Desc) (s : State) (hK : Keeps s0 s) : OutKeeps s0 (execDusk r d
    s) := by
  unfold execDusk
  try dsimp only
  repeat' first
    | with_reducible first
        | assumption | apply OutKeeps.next | apply up_keeps | apply mgrRow_keeps
    | (intro _; intros)

theorem startTrace_keeps {s0 : State} (s : State) (hK : Keeps s0 s) : Keeps s0 (startTrace s) := by
  unfold startTrace
  try dsimp only
  repeat' first
    | with_reducible first
        | assumption | apply onFlt_keeps
    | (intro _; intros)

theorem specTraceCtrl_keeps {s0 : State} (o : Origin) (d : Desc) (k : Pick) (s : State) (hK : Keeps s0 s) : Keeps s0
    ((specTraceCtrl).eff o d k s) := by
  unfold specTraceCtrl
  try dsimp only
  repeat' first
    | with_reducible first
        | assumption | apply ite_keeps | apply iteP_keeps | apply startTrace_keeps | apply complete_keeps
        | apply onFlt_keeps
    | (intro _; intros) | split | refine fst_keeps (by with_reducible assumption) ?_

theorem serveTableReq_keeps {s0 : State} (s : State) (a : Arrival) (hK : Keeps s0 s) : Keeps s0 (serveTableReq s a) :=
    by
  unfold serveTableReq
  try dsimp only
  repeat' first
    | with_reducible first
        | assumption | apply ite_keeps | apply iteP_keeps | apply refuse_keeps | apply answerMgmt_keeps
    | (intro _; intros) | split | refine fst_keeps (by with_reducible assumption) ?_

theorem dumpOut_keeps {s0 : State} (s : State) (o : Origin) (d : Desc) (addr : Nat) (data : List Byte) (count : Nat)
    (hK : Keeps s0 s) : Keeps s0 (dumpOut s o d addr data count) := by
  unfold dumpOut
  try dsimp only
  repeat' first
    | with_reducible first
        | assumption | apply ite_keeps | apply iteP_keeps | apply complete_keeps | apply dmaWrite_keeps
    | (intro _; intros) | split | refine fst_keeps (by with_reducible assumption) ?_

theorem specTraceDump_keeps {s0 : State} (o : Origin) (d : Desc) (k : Pick) (s : State) (hK : Keeps s0 s) : Keeps s0
    ((specTraceDump).eff o d k s) := by
  unfold specTraceDump
  try dsimp only
  repeat' first
    | with_reducible first
        | assumption | apply dumpOut_keeps
    | (intro _; intros)

theorem execTraceDump_keeps {s0 : State} (r : CmdRef) (d : Desc) (s : State) (hK : Keeps s0 s) : OutKeeps s0
    (execTraceDump r d s) := by
  unfold execTraceDump
  try dsimp only
  repeat' first
    | with_reducible first
        | assumption | apply OutKeeps.next | apply up_keeps | apply runRow_keeps | apply specTraceDump_keeps
    | (intro _; intros)

theorem onPart_keeps {s0 : State} (part : Part) (s : State) (k : State → State) (h_k : ∀ y0, Keeps s0 y0 → Keeps s0 (k
    y0)) (hK : Keeps s0 s) : OutKeeps s0 (onPart part s k) := by
  unfold onPart
  try dsimp only
  repeat' first
    | with_reducible first
        | assumption | apply h_k | apply OutKeeps.next | apply up_keeps
    | split | (intro _; intros) | split | refine fst_keeps (by with_reducible assumption) ?_

theorem specPwrCap_keeps {s0 : State} (o : Origin) (d : Desc) (k : Pick) (s : State) (hK : Keeps s0 s) : Keeps s0
    ((specPwrCap).eff o d k s) := by
  unfold specPwrCap
  try dsimp only
  repeat' first
    | with_reducible first
        | assumption | apply ite_keeps | apply iteP_keeps | apply setCap_keeps | apply complete_keeps
    | (intro _; intros) | split | refine fst_keeps (by with_reducible assumption) ?_

theorem execSpareSet_keeps {s0 : State} (r : CmdRef) (d : Desc) (s : State) (hK : Keeps s0 s) : OutKeeps s0
    (execSpareSet r d s) := by
  unfold execSpareSet
  try dsimp only
  repeat' first
    | with_reducible first
        | assumption | apply OutKeeps.next | apply up_keeps | apply mgrRow_keeps
    | (intro _; intros)

theorem decideLosses_keeps {s0 : State} (x0 : List Node) (x1 : List Node) (x2 : State) (hK : Keeps s0 x2) : Keeps s0
    (decideLosses x0 x1 x2) := by
  induction x0 generalizing x1 x2
  case nil =>
    unfold decideLosses
    try dsimp only
    repeat' first
      | with_reducible first
          | assumption | apply ite_keeps | apply iteP_keeps | apply stepFree_keeps | apply issueVerdict_keeps
      | (intro _; intros) | split | refine fst_keeps (by with_reducible assumption) ?_
  case cons y l ih =>
    unfold decideLosses
    try dsimp only
    repeat' first
      | with_reducible first
          | assumption | apply ih | apply ite_keeps | apply iteP_keeps | apply stepFree_keeps | apply issueVerdict_keeps
      | (intro _; intros) | split | refine fst_keeps (by with_reducible assumption) ?_

theorem adoptTerm_keeps {s0 : State} (s : State) (part : Part) (term : Nat) (m : Node) (hK : Keeps s0 s) : Keeps s0
    (adoptTerm s part term m) := by
  unfold adoptTerm
  try dsimp only
  repeat' first
    | with_reducible first
        | assumption | apply ite_keeps | apply iteP_keeps | apply onTn_keeps | apply onFlt_keeps
    | (intro _; intros) | split | refine fst_keeps (by with_reducible assumption) ?_

theorem serveCapSet_keeps {s0 : State} (s : State) (a : Arrival) (hK : Keeps s0 s) : Keeps s0 (serveCapSet s a) := by
  unfold serveCapSet
  try dsimp only
  repeat' first
    | with_reducible first
        | assumption | apply ite_keeps | apply iteP_keeps | apply stageRowCap_keeps | apply adoptTerm_keeps
        | apply ackReq_keeps
    | (intro _; intros) | split | refine fst_keeps (by with_reducible assumption) ?_

theorem specStepMark_keeps {s0 : State} (o : Origin) (d : Desc) (k : Pick) (s : State) (hK : Keeps s0 s) : Keeps s0
    ((specStepMark).eff o d k s) := by
  unfold specStepMark
  try dsimp only
  repeat' first
    | with_reducible first
        | assumption | apply complete_keeps | apply onFlt_keeps
    | (intro _; intros)

theorem reparent_keeps {s0 : State} (s : State) (part : Part) (hK : Keeps s0 s) : Keeps s0 (reparent s part) := by
  unfold reparent
  try dsimp only
  repeat' first
    | with_reducible first
        | assumption | apply ite_keeps | apply iteP_keeps | apply onTn_keeps | apply traceTime_keeps
    | (intro _; intros) | split | refine fst_keeps (by with_reducible assumption) ?_

theorem execProbe_keeps {s0 : State} (part : Part) (via : Heard) (s : State) (hK : Keeps s0 s) : OutKeeps s0
    (execProbe part via s) := by
  unfold execProbe
  try dsimp only
  repeat' first
    | with_reducible first
        | assumption | apply ite_outKeeps | apply ite_keeps | apply iteP_keeps | apply OutKeeps.next
        | apply onPart_keeps | apply sendVc7_keeps | apply traceTimefault_keeps | apply stepFree_keeps
    | split | (intro _; intros) | split | refine fst_keeps (by with_reducible assumption) ?_

theorem refreshCand_keeps {s0 : State} (s : State) (hK : Keeps s0 s) : Keeps s0 (refreshCand s) := by
  unfold refreshCand
  try dsimp only
  repeat' first
    | with_reducible first
        | assumption | apply ite_keeps | apply iteP_keeps | apply onFlt_keeps
    | (intro _; intros) | split | refine fst_keeps (by with_reducible assumption) ?_

theorem takeExchange_keeps {s0 : State} (s : State) (part : Part) (port : Nat) (b : Beacon) (arrival : Nat) (frac :
    Nat) (hK : Keeps s0 s) : Keeps s0 (takeExchange s part port b arrival frac) := by
  unfold takeExchange
  try dsimp only
  repeat' first
    | with_reducible first
        | assumption | apply ite_keeps | apply iteP_keeps | apply onTn_keeps
    | (intro _; intros) | split | refine fst_keeps (by with_reducible assumption) ?_

theorem takeRole_keeps {s0 : State} (s : State) (hK : Keeps s0 s) : Keeps s0 (takeRole s) := by
  unfold takeRole
  try dsimp only
  repeat' first
    | with_reducible first
        | assumption | apply ite_keeps | apply iteP_keeps | apply onTn_keeps | apply onFlt_keeps | apply setMode_keeps
        | apply traceTime_keeps | apply mgrGo_keeps | apply issueVerdict_keeps | apply stepFree_keeps
    | (intro _; intros) | split | refine fst_keeps (by with_reducible assumption) ?_

theorem execTakeManagerRole_keeps {s0 : State} (t : Time) (s : State) (hK : Keeps s0 s) : OutKeeps s0
    (execTakeManagerRole t s) := by
  unfold execTakeManagerRole
  try dsimp only
  repeat' first
    | with_reducible first
        | assumption | apply ite_outKeeps | apply ite_keeps | apply iteP_keeps | apply OutKeeps.next | apply up_keeps
        | apply refreshCand_keeps | apply at__keeps | apply takeRole_keeps
    | split | (intro _; intros) | split | refine fst_keeps (by with_reducible assumption) ?_

theorem atPart_keeps {s0 : State} (s : State) (part : Part) (t : Time) (hK : Keeps s0 s) : Keeps s0 (atPart s part t)
    := by
  unfold atPart
  try dsimp only
  repeat' first
    | with_reducible first
        | assumption | apply at__keeps | apply epAt_keeps
    | (intro _; intros) | split | refine fst_keeps (by with_reducible assumption) ?_

theorem beaconIn_keeps {s0 : State} (part : Part) (port : Nat) (b : Beacon) (arrival : Nat) (frac : Nat) (s : State)
    (hK : Keeps s0 s) : Keeps s0 (beaconIn part port b arrival frac s) := by
  unfold beaconIn
  try dsimp only
  repeat' first
    | with_reducible first
        | assumption | apply atPart_keeps | apply onTn_keeps | apply adoptTerm_keeps | apply takeExchange_keeps
        | apply reparent_keeps
    | (intro _; intros)

theorem askTables_keeps {s0 : State} (s : State) (hK : Keeps s0 s) : Keeps s0 (askTables s) := by
  unfold askTables
  try dsimp only
  repeat' first
    | with_reducible first
        | assumption | apply ite_keeps | apply iteP_keeps | apply foldl_keeps | apply foldlP_keeps
        | apply sendMgmt_keeps
    | (intro _; intros) | split | refine fst_keeps (by with_reducible assumption) ?_

theorem execBeacon_keeps {s0 : State} (part : Part) (via : Heard) (b : Beacon) (arrival : Time) (arrivalFrac : Fin 16)
    (s : State) (hK : Keeps s0 s) : OutKeeps s0 (execBeacon part via b arrival arrivalFrac s) := by
  unfold execBeacon
  try dsimp only
  repeat' first
    | with_reducible first
        | assumption | apply ite_outKeeps | apply ite_keeps | apply iteP_keeps | apply OutKeeps.next
        | apply onPart_keeps | apply beaconIn_keeps | apply mgrGo_keeps | apply askTables_keeps
        | apply refreshCand_keeps | apply traceTimefault_keeps
    | split | (intro _; intros) | split | refine fst_keeps (by with_reducible assumption) ?_

theorem execReport_keeps {s0 : State} (part : Part) (via : Heard) (m : Report) (s : State) (hK : Keeps s0 s) :
    OutKeeps s0 (execReport part via m s) := by
  unfold execReport
  try dsimp only
  repeat' first
    | with_reducible first
        | assumption | apply ite_outKeeps | apply ite_keeps | apply iteP_keeps | apply OutKeeps.next
        | apply onPart_keeps | apply flood_keeps | apply markSeen_keeps | apply holdReport_keeps
        | apply traceTimefault_keeps
    | split | (intro _; intros) | split | refine fst_keeps (by with_reducible assumption) ?_

theorem specFltQuery_keeps {s0 : State} (o : Origin) (d : Desc) (k : Pick) (s : State) (hK : Keeps s0 s) : Keeps s0
    ((specFltQuery).eff o d k s) := by
  unfold specFltQuery
  try dsimp only
  repeat' first
    | with_reducible first
        | assumption | apply queryOut_keeps
    | (intro _; intros)

theorem execFltQuery_keeps {s0 : State} (r : CmdRef) (d : Desc) (s : State) (hK : Keeps s0 s) : OutKeeps s0
    (execFltQuery r d s) := by
  unfold execFltQuery
  try dsimp only
  repeat' first
    | with_reducible first
        | assumption | apply OutKeeps.next | apply up_keeps | apply runRow_keeps | apply specFltQuery_keeps
    | (intro _; intros)

theorem execD2dLinkDown_keeps {s0 : State} (s : State) (hK : Keeps s0 s) : OutKeeps s0 (execD2dLinkDown s) := by
  unfold execD2dLinkDown
  try dsimp only
  repeat' first
    | with_reducible first
        | assumption | apply ite_outKeeps | apply ite_keeps | apply iteP_keeps | apply OutKeeps.next
        | apply reportEpDown_keeps | apply onEp_keeps
    | (intro _; intros) | split | refine fst_keeps (by with_reducible assumption) ?_

theorem endDrain_keeps {s0 : State} (s : State) (d : Drain) (hK : Keeps s0 s) : Keeps s0 (endDrain s d) := by
  unfold endDrain
  try dsimp only
  repeat' first
    | with_reducible first
        | assumption | apply foldl_keeps | apply foldlP_keeps | apply onFlt_keeps | apply loseNodeZs_keeps
        | apply unservedZs_keeps | apply failLink_keeps | apply nodeRecords_keeps
    | (intro _; intros) | split | refine fst_keeps (by with_reducible assumption) ?_

theorem drainsGo_keeps {s0 : State} (s : State) (hK : Keeps s0 s) : Keeps s0 (drainsGo s) := by
  unfold drainsGo
  try dsimp only
  repeat' first
    | with_reducible first
        | assumption | apply foldl_keeps | apply foldlP_keeps | apply endDrain_keeps
    | (intro _; intros)

theorem execDecisionWindow_keeps {s0 : State} (t : Time) (s : State) (hK : Keeps s0 s) : OutKeeps s0
    (execDecisionWindow t s) := by
  unfold execDecisionWindow
  try dsimp only
  repeat' first
    | with_reducible first
        | assumption | apply ite_outKeeps | apply ite_keeps | apply iteP_keeps | apply OutKeeps.next | apply up_keeps
        | apply at__keeps | apply decideLosses_keeps | apply onFlt_keeps
    | split | (intro _; intros) | split | refine fst_keeps (by with_reducible assumption) ?_

theorem execRejoin_keeps {s0 : State} (r : CmdRef) (d : Desc) (s : State) (hK : Keeps s0 s) : OutKeeps s0 (execRejoin
    r d s) := by
  unfold execRejoin
  try dsimp only
  repeat' first
    | with_reducible first
        | assumption | apply OutKeeps.next | apply up_keeps | apply mgrRow_keeps
    | (intro _; intros)

theorem statusSend_keeps {s0 : State} (s : State) (part : Part) (hK : Keeps s0 s) : Keeps s0 (statusSend s part) := by
  unfold statusSend
  try dsimp only
  repeat' first
    | with_reducible first
        | assumption | apply ite_keeps | apply iteP_keeps | apply onTn_keeps | apply sendVc7_keeps
    | (intro _; intros) | split | refine fst_keeps (by with_reducible assumption) ?_

theorem execManagerQuorumTimeout_keeps {s0 : State} (id : Nat) (t : Time) (s : State) (hK : Keeps s0 s) : OutKeeps s0
    (execManagerQuorumTimeout id t s) := by
  unfold execManagerQuorumTimeout
  try dsimp only
  repeat' first
    | with_reducible first
        | assumption | apply ite_outKeeps | apply ite_keeps | apply iteP_keeps | apply OutKeeps.next | apply up_keeps
        | apply at__keeps | apply complete_keeps | apply dropMgr_keeps
    | split | (intro _; intros) | split | refine fst_keeps (by with_reducible assumption) ?_

theorem stepZs_keeps {s0 : State} (s : State) (d : Int) (hK : Keeps s0 s) : Keeps s0 (stepZs s d) := by
  unfold stepZs
  try dsimp only
  repeat' first
    | with_reducible first
        | assumption | apply ite_keeps | apply iteP_keeps | apply onFlt_keeps | apply onXp_keeps | apply onHif_keeps
        | apply onLnk_keeps | apply onPwr_keeps | apply onCru_keeps | apply onSec_keeps | apply onCol_keeps
        | apply onRgn_keeps | apply onPool_keeps | apply onCoh_keeps
    | exact fun h => h | exact fun h => Mem.writeN_wf _ _ _ h | exact fun h => Mem.zero_wf _ _ _ h
    | exact fun h => Mem.foldWrite_wf _ (fun p _ hp => Mem.write_wf p.1 _ _ hp) _ _ h | (intro _; intros) | split
    | refine fst_keeps (by with_reducible assumption) ?_ | with_reducible apply mk_keeps

theorem stepZe_keeps {s0 : State} (s : State) (d : Int) (hK : Keeps s0 s) : Keeps s0 (stepZe s d) := by
  unfold stepZe
  try dsimp only
  repeat' first
    | with_reducible first
        | assumption | apply onEp_keeps
    | (intro _; intros)

theorem execFirstLock_keeps {s0 : State} (part : Part) (s : State) (hK : Keeps s0 s) : OutKeeps s0 (execFirstLock part
    s) := by
  unfold execFirstLock
  try dsimp only
  repeat' first
    | with_reducible first
        | assumption | apply ite_outKeeps | apply ite_keeps | apply iteP_keeps | apply OutKeeps.next
        | apply onPart_keeps | apply onTn_keeps | apply stepZs_keeps | apply traceTime_keeps | apply setMode_keeps
        | apply onEp_keeps | apply stepZe_keeps
    | split | (intro _; intros) | split | refine fst_keeps (by with_reducible assumption) ?_

theorem execLivenessTick_keeps {s0 : State} (t : Time) (s : State) (hK : Keeps s0 s) : OutKeeps s0 (execLivenessTick t
    s) := by
  unfold execLivenessTick
  try dsimp only
  repeat' first
    | with_reducible first
        | assumption | apply ite_outKeeps | apply ite_keeps | apply iteP_keeps | apply OutKeeps.next | apply up_keeps
        | apply at__keeps | apply refreshCand_keeps | apply onFlt_keeps
    | split | (intro _; intros) | split | refine fst_keeps (by with_reducible assumption) ?_

theorem execPwrCap_keeps {s0 : State} (r : CmdRef) (d : Desc) (s : State) (hK : Keeps s0 s) : OutKeeps s0 (execPwrCap
    r d s) := by
  unfold execPwrCap
  try dsimp only
  repeat' first
    | with_reducible first
        | assumption | apply ite_outKeeps | apply ite_keeps | apply iteP_keeps | apply OutKeeps.next | apply up_keeps
        | apply mgrRow_keeps | apply runRow_keeps | apply specPwrCap_keeps
    | (intro _; intros) | split | refine fst_keeps (by with_reducible assumption) ?_

theorem probeEnd_keeps {s0 : State} (s : State) (port : Nat) (ok : Bool) (hK : Keeps s0 s) : Keeps s0 (probeEnd s port
    ok) := by
  unfold probeEnd
  try dsimp only
  repeat' first
    | with_reducible first
        | assumption | apply ite_keeps | apply iteP_keeps | apply originateReport_keeps | apply onFlt_keeps
    | (intro _; intros) | split | refine fst_keeps (by with_reducible assumption) ?_

theorem execProbeReply_keeps {s0 : State} (via : Heard) (state : Byte) (s : State) (hK : Keeps s0 s) : OutKeeps s0
    (execProbeReply via state s) := by
  unfold execProbeReply
  try dsimp only
  repeat' first
    | with_reducible first
        | assumption | apply ite_outKeeps | apply ite_keeps | apply iteP_keeps | apply OutKeeps.next | apply up_keeps
        | apply probeEnd_keeps
    | (intro _; intros) | split | refine fst_keeps (by with_reducible assumption) ?_

theorem execProbeTimeout_keeps {s0 : State} (port : Fin 64) (t : Time) (s : State) (hK : Keeps s0 s) : OutKeeps s0
    (execProbeTimeout port t s) := by
  unfold execProbeTimeout
  try dsimp only
  repeat' first
    | with_reducible first
        | assumption | apply ite_outKeeps | apply ite_keeps | apply iteP_keeps | apply OutKeeps.next | apply up_keeps
        | apply at__keeps | apply probeEnd_keeps
    | split | (intro _; intros) | split | refine fst_keeps (by with_reducible assumption) ?_

theorem execModeSet_keeps {s0 : State} (r : CmdRef) (d : Desc) (s : State) (hK : Keeps s0 s) : OutKeeps s0
    (execModeSet r d s) := by
  unfold execModeSet
  try dsimp only
  repeat' first
    | with_reducible first
        | assumption | apply OutKeeps.next | apply up_keeps | apply mgrRow_keeps
    | (intro _; intros)

theorem verdictsGo_keeps {s0 : State} (s : State) (part : Part) (hK : Keeps s0 s) : Keeps s0 (verdictsGo s part) := by
  unfold verdictsGo
  try dsimp only
  repeat' first
    | with_reducible first
        | assumption | apply foldl_keeps | apply foldlP_keeps | apply applyVerdict_keeps | apply commandsGo_keeps
    | (intro _; intros) | split | refine fst_keeps (by with_reducible assumption) ?_

theorem execVerdictApply_keeps {s0 : State} (part : Part) (t : Time) (s : State) (hK : Keeps s0 s) : OutKeeps s0
    (execVerdictApply part t s) := by
  unfold execVerdictApply
  try dsimp only
  repeat' first
    | with_reducible first
        | assumption | apply OutKeeps.next | apply onPart_keeps | apply verdictsGo_keeps | apply reachTick_keeps
        | apply atEp_keeps | apply epReachTick_keeps
    | split | (intro _; intros) | split | refine fst_keeps (by with_reducible assumption) ?_

theorem execTraceCtrl_keeps {s0 : State} (r : CmdRef) (d : Desc) (s : State) (hK : Keeps s0 s) : OutKeeps s0
    (execTraceCtrl r d s) := by
  unfold execTraceCtrl
  try dsimp only
  repeat' first
    | with_reducible first
        | assumption | apply OutKeeps.next | apply up_keeps | apply runRow_keeps | apply specTraceCtrl_keeps
    | (intro _; intros)

theorem countTick_keeps {s0 : State} (s : State) (part : Part) (hK : Keeps s0 s) : Keeps s0 (countTick s part) := by
  unfold countTick
  try dsimp only
  repeat' first
    | with_reducible first
        | assumption | apply onTn_keeps | apply reachTick_keeps | apply epReachTick_keeps
    | (intro _; intros) | split | refine fst_keeps (by with_reducible assumption) ?_

theorem execStatus_keeps {s0 : State} (part : Part) (via : Heard) (sender : Node) (map : BitVec 256) (t : Time) (s :
    State) (hK : Keeps s0 s) : OutKeeps s0 (execStatus part via sender map t s) := by
  unfold execStatus
  try dsimp only
  repeat' first
    | with_reducible first
        | assumption | apply ite_outKeeps | apply ite_keeps | apply iteP_keeps | apply OutKeeps.next
        | apply onPart_keeps | apply atPart_keeps | apply statusSend_keeps | apply onTn_keeps | apply mgrGo_keeps
        | apply traceTimefault_keeps
    | split | (intro _; intros) | split | refine fst_keeps (by with_reducible assumption) ?_

theorem execStepMark_keeps {s0 : State} (r : CmdRef) (d : Desc) (s : State) (hK : Keeps s0 s) : OutKeeps s0
    (execStepMark r d s) := by
  unfold execStepMark
  try dsimp only
  repeat' first
    | with_reducible first
        | assumption | apply OutKeeps.next | apply up_keeps | apply runRow_keeps | apply specStepMark_keeps
    | (intro _; intros)

theorem specMgr_keeps {s0 : State} (op : Nat) (o : Origin) (d : Desc) (k : Pick) (s : State) (hK : Keeps s0 s) : Keeps
    s0 ((specMgr op).eff o d k s) := by
  unfold specMgr
  try dsimp only
  repeat' first
    | with_reducible first
        | assumption | apply addMgr_keeps
    | (intro _; intros)

theorem execBeaconSend_keeps {s0 : State} (part : Part) (port : Fin 64) (t : Time) (s : State) (hK : Keeps s0 s) :
    OutKeeps s0 (execBeaconSend part port t s) := by
  unfold execBeaconSend
  try dsimp only
  repeat' first
    | with_reducible first
        | assumption | apply ite_outKeeps | apply ite_keeps | apply iteP_keeps | apply OutKeeps.next
        | apply onPart_keeps | apply atPart_keeps | apply onTn_keeps | apply sendVc7_keeps
    | split | (intro _; intros) | split | refine fst_keeps (by with_reducible assumption) ?_

theorem execParentLoss_keeps {s0 : State} (part : Part) (t : Time) (s : State) (hK : Keeps s0 s) : OutKeeps s0
    (execParentLoss part t s) := by
  unfold execParentLoss
  try dsimp only
  repeat' first
    | with_reducible first
        | assumption | apply ite_outKeeps | apply ite_keeps | apply iteP_keeps | apply OutKeeps.next
        | apply onPart_keeps | apply atPart_keeps | apply reparent_keeps
    | split | (intro _; intros) | split | refine fst_keeps (by with_reducible assumption) ?_

theorem execLivenessAgeout_keeps {s0 : State} (node : Node) (t : Time) (s : State) (hK : Keeps s0 s) : OutKeeps s0
    (execLivenessAgeout node t s) := by
  unfold execLivenessAgeout
  try dsimp only
  repeat' first
    | with_reducible first
        | assumption | apply ite_outKeeps | apply ite_keeps | apply iteP_keeps | apply OutKeeps.next | apply up_keeps
        | apply at__keeps | apply refreshCand_keeps | apply onTn_keeps
    | split | (intro _; intros) | split | refine fst_keeps (by with_reducible assumption) ?_

theorem endDrainZe_keeps {s0 : State} (s : State) (n : Node) (hK : Keeps s0 s) : Keeps s0 (endDrainZe s n) := by
  unfold endDrainZe
  try dsimp only
  repeat' first
    | with_reducible first
        | assumption | apply ite_keeps | apply iteP_keeps | apply epLosePort_keeps | apply emit_keeps
        | apply loseNodeZe_keeps
    | (intro _; intros) | split | refine fst_keeps (by with_reducible assumption) ?_

theorem execDrainSecondInstant_keeps {s0 : State} (subject : Node) (t : Time) (s : State) (hK : Keeps s0 s) : OutKeeps
    s0 (execDrainSecondInstant subject t s) := by
  unfold execDrainSecondInstant
  try dsimp only
  repeat' first
    | with_reducible first
        | assumption | apply ite_outKeeps | apply ite_keeps | apply iteP_keeps | apply OutKeeps.next
        | apply reachTick_keeps | apply endDrain_keeps | apply epAt_keeps | apply atEp_keeps | apply endDrainZe_keeps
    | split | (intro _; intros) | split | refine fst_keeps (by with_reducible assumption) ?_

theorem execVerdict_keeps {s0 : State} (part : Part) (via : Heard) (v : Verdict) (s : State) (hK : Keeps s0 s) :
    OutKeeps s0 (execVerdict part via v s) := by
  unfold execVerdict
  try dsimp only
  repeat' first
    | with_reducible first
        | assumption | apply ite_outKeeps | apply ite_keeps | apply iteP_keeps | apply OutKeeps.next
        | apply onPart_keeps | apply traceTimefault_keeps | apply adoptTerm_keeps | apply flood_keeps
        | apply markSeen_keeps | apply acceptVerdict_keeps | apply atEp_keeps
    | split | (intro _; intros) | split | refine fst_keeps (by with_reducible assumption) ?_

end Sys2Proof.Machine
end

