-- ==== Sys2Proof/Laws/KeepsSec.lean ====
section
/-! SUPPORT. What the functions of Sec keep. -/

namespace Sys2Proof.Machine

theorem measureEnd_keeps {s0 : State} (s : State) (ri : Nat) (v : Nat) (dig : Option (List Byte)) (hK : Keeps s0 s) :
    Keeps s0 (measureEnd s ri v dig) := by
  unfold measureEnd
  try dsimp only
  repeat' first
    | with_reducible first
        | assumption | apply ite_keeps | apply iteP_keeps | apply onCoh_keeps | apply onSec_keeps
        | apply complete_keeps
    | exact fun h => h | exact fun h => Mem.writeN_wf _ _ _ h | exact fun h => Mem.zero_wf _ _ _ h
    | exact fun h => Mem.foldWrite_wf _ (fun p _ hp => Mem.write_wf p.1 _ _ hp) _ _ h | (intro _; intros) | split
    | refine fst_keeps (by with_reducible assumption) ?_

theorem fwEvent_keeps {s0 : State} (s : State) (kind : Byte) (core : Byte) (comp : Byte) (cause : Byte) (restarts :
    Nat) (hK : Keeps s0 s) : Keeps s0 (fwEvent s kind core comp cause restarts) := by
  unfold fwEvent
  try dsimp only
  repeat' first
    | with_reducible first
        | assumption | apply bothEvent_keeps
    | (intro _; intros)

theorem specAttestReport_keeps {s0 : State} (o : Origin) (d : Desc) (k : Pick) (s : State) (hK : Keeps s0 s) : Keeps
    s0 ((specAttestReport).eff o d k s) := by
  unfold specAttestReport
  try dsimp only
  repeat' first
    | with_reducible first
        | assumption | apply ite_keeps | apply iteP_keeps | apply onSec_keeps
    | exact fun h => h | exact fun h => Mem.writeN_wf _ _ _ h | exact fun h => Mem.zero_wf _ _ _ h
    | exact fun h => Mem.foldWrite_wf _ (fun p _ hp => Mem.write_wf p.1 _ _ hp) _ _ h | (intro _; intros) | split
    | refine fst_keeps (by with_reducible assumption) ?_

theorem execAttestReport_keeps {s0 : State} (r : CmdRef) (d : Desc) (s : State) (hK : Keeps s0 s) : OutKeeps s0
    (execAttestReport r d s) := by
  unfold execAttestReport
  try dsimp only
  repeat' first
    | with_reducible first
        | assumption | apply OutKeeps.next | apply up_keeps | apply runRow_keeps | apply specAttestReport_keeps
    | (intro _; intros)

theorem measureRead_keeps {s0 : State} (s : State) (ri : Nat) (base : Nat) (n : Nat) (fs : List ReadFault) (got : List
    Nat) (hK : Keeps s0 s) : Keeps s0 (measureRead s ri base n fs got).1 := by
  unfold measureRead
  try dsimp only
  repeat' first
    | with_reducible first
        | assumption | apply foldl_keeps | apply foldlP_keeps | apply readLine_keeps
    | (intro _; intros) | split | refine fst_keeps (by with_reducible assumption) ?_

theorem specRegionMeasure_keeps {s0 : State} (o : Origin) (d : Desc) (k : Pick) (s : State) (hK : Keeps s0 s) : Keeps
    s0 ((specRegionMeasure).eff o d k s) := by
  unfold specRegionMeasure
  try dsimp only
  repeat' first
    | with_reducible first
        | assumption | apply ite_keeps | apply iteP_keeps | apply onRegion_keeps | apply onSec_keeps
        | apply measureStart_keeps
    | exact fun h => h | exact fun h => Mem.writeN_wf _ _ _ h | exact fun h => Mem.zero_wf _ _ _ h
    | exact fun h => Mem.foldWrite_wf _ (fun p _ hp => Mem.write_wf p.1 _ _ hp) _ _ h | (intro _; intros) | split
    | refine fst_keeps (by with_reducible assumption) ?_

theorem endRegionJobs_keeps {s0 : State} (s : State) (rs : List Nat) (hK : Keeps s0 s) : Keeps s0 (endRegionJobs s rs)
    := by
  unfold endRegionJobs
  try dsimp only
  repeat' first
    | with_reducible first
        | assumption | apply ite_keeps | apply iteP_keeps | apply foldl_keeps | apply foldlP_keeps
        | apply dropJob_keeps | apply leavePage_keeps | apply freePage_keeps | apply complete_keeps
        | apply onCoh_keeps
    | (intro _; intros) | split | refine fst_keeps (by with_reducible assumption) ?_

theorem dropHoldings_keeps {s0 : State} (s : State) (t : Tag) (hK : Keeps s0 s) : Keeps s0 (dropHoldings s t) := by
  unfold dropHoldings
  try dsimp only
  repeat' first
    | with_reducible first
        | assumption | apply ite_keeps | apply iteP_keeps | apply foldl_keeps | apply foldlP_keeps
        | apply endProg_keeps | apply destroyGroup_keeps | apply onCoh_keeps | apply onSwc_keeps | apply onHp_keeps
    | (intro _; intros) | split | refine fst_keeps (by with_reducible assumption) ?_

theorem releaseTenant_keeps {s0 : State} (s : State) (i : Nat) (hK : Keeps s0 s) : Keeps s0 (releaseTenant s i) := by
  unfold releaseTenant
  try dsimp only
  repeat' first
    | with_reducible first
        | assumption | apply foldl_keeps | apply foldlP_keeps | apply onRgn_keeps | apply onSec_keeps
        | apply destroyRegion_keeps | apply endRegionJobs_keeps | apply dropHoldings_keeps
    | exact fun h => h | exact fun h => Mem.writeN_wf _ _ _ h | exact fun h => Mem.zero_wf _ _ _ h
    | exact fun h => Mem.foldWrite_wf _ (fun p _ hp => Mem.write_wf p.1 _ _ hp) _ _ h | (intro _; intros)

theorem rollBack_keeps {s0 : State} (s : State) (cause : Byte) (hK : Keeps s0 s) : Keeps s0 (rollBack s cause) := by
  unfold rollBack
  try dsimp only
  repeat' first
    | with_reducible first
        | assumption | apply onSec_keeps | apply complete_keeps | apply fwEvent_keeps
    | exact fun h => h | exact fun h => Mem.writeN_wf _ _ _ h | exact fun h => Mem.zero_wf _ _ _ h
    | exact fun h => Mem.foldWrite_wf _ (fun p _ hp => Mem.write_wf p.1 _ _ hp) _ _ h | (intro _; intros) | split
    | refine fst_keeps (by with_reducible assumption) ?_

theorem dropUpdate_keeps {s0 : State} (s : State) (hK : Keeps s0 s) : Keeps s0 (dropUpdate s) := by
  unfold dropUpdate
  try dsimp only
  repeat' first
    | with_reducible first
        | assumption | apply foldl_keeps | apply foldlP_keeps | apply onSec_keeps | apply onHp_keeps
        | apply complete_keeps
    | exact fun h => h | exact fun h => Mem.writeN_wf _ _ _ h | exact fun h => Mem.zero_wf _ _ _ h
    | exact fun h => Mem.foldWrite_wf _ (fun p _ hp => Mem.write_wf p.1 _ _ hp) _ _ h | (intro _; intros) | split
    | refine fst_keeps (by with_reducible assumption) ?_

theorem updateFails_keeps {s0 : State} (s : State) (isUpdate : Bool) (hK : Keeps s0 s) : Keeps s0 (updateFails s
    isUpdate) := by
  unfold updateFails
  try dsimp only
  repeat' first
    | with_reducible first
        | assumption | apply ite_keeps | apply iteP_keeps | apply rollBack_keeps | apply dropUpdate_keeps
    | (intro _; intros) | split | refine fst_keeps (by with_reducible assumption) ?_

theorem restartPorts_keeps {s0 : State} (s : State) (q : Nat) (hK : Keeps s0 s) : Keeps s0 (restartPorts s q) := by
  unfold restartPorts
  try dsimp only
  repeat' first
    | with_reducible first
        | assumption | apply ite_keeps | apply iteP_keeps | apply foldl_keeps | apply foldlP_keeps
        | apply startBringup_keeps
    | (intro _; intros) | split | refine fst_keeps (by with_reducible assumption) ?_

theorem restartLoads_keeps {s0 : State} (s : State) (q : Nat) (hK : Keeps s0 s) : Keeps s0 (restartLoads s q) := by
  unfold restartLoads
  try dsimp only
  repeat' first
    | with_reducible first
        | assumption | apply foldl_keeps | apply foldlP_keeps | apply onHp_keeps | apply dmaRead_keeps
    | (intro _; intros)

theorem coreRestart_keeps {s0 : State} (s : State) (n : Nat) (cause : Byte) (hK : Keeps s0 s) : Keeps s0 (coreRestart
    s n cause) := by
  unfold coreRestart
  try dsimp only
  repeat' first
    | with_reducible first
        | assumption | apply ite_keeps | apply iteP_keeps | apply onCore_keeps | apply fwEvent_keeps
        | apply updateFails_keeps | apply restartPorts_keeps | apply restartLoads_keeps
    | (intro _; intros) | split | refine fst_keeps (by with_reducible assumption) ?_

theorem clearHeld_keeps {s0 : State} (s : State) (n : Nat) (hK : Keeps s0 s) : Keeps s0 (clearHeld s n) := by
  unfold clearHeld
  try dsimp only
  repeat' first
    | with_reducible first
        | assumption | apply ite_keeps | apply iteP_keeps | apply onCore_keeps
    | (intro _; intros) | split | refine fst_keeps (by with_reducible assumption) ?_

theorem specHkControl_keeps {s0 : State} (o : Origin) (d : Desc) (k : Pick) (s : State) (hK : Keeps s0 s) : Keeps s0
    ((specHkControl).eff o d k s) := by
  unfold specHkControl
  try dsimp only
  repeat' first
    | with_reducible first
        | assumption | apply foldl_keeps | apply foldlP_keeps | apply onCore_keeps | apply coreRestart_keeps
        | apply clearHeld_keeps | apply complete_keeps
    | (intro _; intros) | split | refine fst_keeps (by with_reducible assumption) ?_

theorem specFwUpdate_keeps {s0 : State} (o : Origin) (d : Desc) (k : Pick) (s : State) (hK : Keeps s0 s) : Keeps s0
    ((specFwUpdate).eff o d k s) := by
  unfold specFwUpdate
  try dsimp only
  repeat' first
    | with_reducible first
        | assumption | apply ite_keeps | apply iteP_keeps | apply complete_keeps | apply onSec_keeps
        | apply dmaRead_keeps
    | exact fun h => h | exact fun h => Mem.writeN_wf _ _ _ h | exact fun h => Mem.zero_wf _ _ _ h
    | exact fun h => Mem.foldWrite_wf _ (fun p _ hp => Mem.write_wf p.1 _ _ hp) _ _ h | (intro _; intros) | split
    | refine fst_keeps (by with_reducible assumption) ?_

theorem execFwUpdate_keeps {s0 : State} (r : CmdRef) (d : Desc) (s : State) (hK : Keeps s0 s) : OutKeeps s0
    (execFwUpdate r d s) := by
  unfold execFwUpdate
  try dsimp only
  repeat' first
    | with_reducible first
        | assumption | apply OutKeeps.next | apply up_keeps | apply runRow_keeps | apply specFwUpdate_keeps
    | (intro _; intros)

theorem compResumes_keeps {s0 : State} (s : State) (comp : Nat) (n : Nat) (hK : Keeps s0 s) : Keeps s0 (compResumes s
    comp n) := by
  unfold compResumes
  try dsimp only
  repeat' first
    | with_reducible first
        | assumption | apply ite_keeps | apply iteP_keeps | apply restartLoads_keeps | apply restartPorts_keeps
    | (intro _; intros) | split | refine fst_keeps (by with_reducible assumption) ?_

theorem specTenantRelease_keeps {s0 : State} (o : Origin) (d : Desc) (k : Pick) (s : State) (hK : Keeps s0 s) : Keeps
    s0 ((specTenantRelease).eff o d k s) := by
  unfold specTenantRelease
  try dsimp only
  repeat' first
    | with_reducible first
        | assumption | apply complete_keeps | apply releaseTenant_keeps
    | (intro _; intros)

theorem execTenantRelease_keeps {s0 : State} (r : CmdRef) (d : Desc) (s : State) (hK : Keeps s0 s) : OutKeeps s0
    (execTenantRelease r d s) := by
  unfold execTenantRelease
  try dsimp only
  repeat' first
    | with_reducible first
        | assumption | apply OutKeeps.next | apply up_keeps | apply runRow_keeps | apply specTenantRelease_keeps
    | (intro _; intros)

theorem specSecQuery_keeps {s0 : State} (o : Origin) (d : Desc) (k : Pick) (s : State) (hK : Keeps s0 s) : Keeps s0
    ((specSecQuery).eff o d k s) := by
  unfold specSecQuery
  try dsimp only
  repeat' first
    | with_reducible first
        | assumption | apply ite_keeps | apply iteP_keeps | apply complete_keeps | apply dmaWrite_keeps
    | (intro _; intros) | split | refine fst_keeps (by with_reducible assumption) ?_

theorem debugLine_keeps {s0 : State} (s : State) (o : Origin) (d : Desc) (line : Nat) (data : List Byte) (hK : Keeps
    s0 s) : Keeps s0 (debugLine s o d line data) := by
  unfold debugLine
  try dsimp only
  repeat' first
    | with_reducible first
        | assumption | apply ite_keeps | apply iteP_keeps | apply partnerKeep_keeps | apply storeLine_keeps
        | apply takeBack_keeps | apply onSec_keeps | apply setLine_keeps
    | exact fun h => h | exact fun h => Mem.writeN_wf _ _ _ h | exact fun h => Mem.zero_wf _ _ _ h
    | exact fun h => Mem.foldWrite_wf _ (fun p _ hp => Mem.write_wf p.1 _ _ hp) _ _ h | (intro _; intros) | split
    | refine fst_keeps (by with_reducible assumption) ?_

theorem openSession_keeps {s0 : State} (s : State) (n : Nat) (level : Nat) (host : Option (Fin 2)) (hK : Keeps s0 s) :
    Keeps s0 (openSession s n level host) := by
  unfold openSession
  try dsimp only
  repeat' first
    | with_reducible first
        | assumption | apply onSec_keeps
    | exact fun h => h | exact fun h => Mem.writeN_wf _ _ _ h | exact fun h => Mem.zero_wf _ _ _ h
    | exact fun h => Mem.foldWrite_wf _ (fun p _ hp => Mem.write_wf p.1 _ _ hp) _ _ h | (intro _; intros)

theorem specDebugOpen_keeps {s0 : State} (o : Origin) (d : Desc) (k : Pick) (s : State) (hK : Keeps s0 s) : Keeps s0
    ((specDebugOpen).eff o d k s) := by
  unfold specDebugOpen
  try dsimp only
  repeat' first
    | with_reducible first
        | assumption | apply complete_keeps | apply openSession_keeps
    | (intro _; intros)

theorem execDebugOpen_keeps {s0 : State} (r : CmdRef) (d : Desc) (s : State) (hK : Keeps s0 s) : OutKeeps s0
    (execDebugOpen r d s) := by
  unfold execDebugOpen
  try dsimp only
  repeat' first
    | with_reducible first
        | assumption | apply OutKeeps.next | apply up_keeps | apply runRow_keeps | apply specDebugOpen_keeps
    | (intro _; intros)

theorem closeSession_keeps {s0 : State} (s : State) (n : Nat) (hK : Keeps s0 s) : Keeps s0 (closeSession s n) := by
  unfold closeSession
  try dsimp only
  repeat' first
    | with_reducible first
        | assumption | apply onSec_keeps
    | exact fun h => h | exact fun h => Mem.writeN_wf _ _ _ h | exact fun h => Mem.zero_wf _ _ _ h
    | exact fun h => Mem.foldWrite_wf _ (fun p _ hp => Mem.write_wf p.1 _ _ hp) _ _ h | (intro _; intros)

theorem specDebugClose_keeps {s0 : State} (o : Origin) (d : Desc) (k : Pick) (s : State) (hK : Keeps s0 s) : Keeps s0
    ((specDebugClose).eff o d k s) := by
  unfold specDebugClose
  try dsimp only
  repeat' first
    | with_reducible first
        | assumption | apply complete_keeps | apply closeSession_keeps
    | (intro _; intros)

theorem execDebugClose_keeps {s0 : State} (r : CmdRef) (d : Desc) (s : State) (hK : Keeps s0 s) : OutKeeps s0
    (execDebugClose r d s) := by
  unfold execDebugClose
  try dsimp only
  repeat' first
    | with_reducible first
        | assumption | apply OutKeeps.next | apply up_keeps | apply runRow_keeps | apply specDebugClose_keeps
    | (intro _; intros)

theorem execSecQuery_keeps {s0 : State} (r : CmdRef) (d : Desc) (s : State) (hK : Keeps s0 s) : OutKeeps s0
    (execSecQuery r d s) := by
  unfold execSecQuery
  try dsimp only
  repeat' first
    | with_reducible first
        | assumption | apply OutKeeps.next | apply up_keeps | apply runRow_keeps | apply specSecQuery_keeps
    | (intro _; intros)

theorem specDebugWrite_keeps {s0 : State} (o : Origin) (d : Desc) (k : Pick) (s : State) (hK : Keeps s0 s) : Keeps s0
    ((specDebugWrite).eff o d k s) := by
  unfold specDebugWrite
  try dsimp only
  repeat' first
    | with_reducible first
        | assumption | apply ite_keeps | apply iteP_keeps | apply dmaRead_keeps | apply complete_keeps
    | (intro _; intros) | split | refine fst_keeps (by with_reducible assumption) ?_

theorem execDebugWrite_keeps {s0 : State} (r : CmdRef) (d : Desc) (s : State) (hK : Keeps s0 s) : OutKeeps s0
    (execDebugWrite r d s) := by
  unfold execDebugWrite
  try dsimp only
  repeat' first
    | with_reducible first
        | assumption | apply OutKeeps.next | apply up_keeps | apply runRow_keeps | apply specDebugWrite_keeps
    | (intro _; intros)

theorem debugGot_keeps {s0 : State} (s : State) (o : Origin) (d : Desc) (ok : Bool) (bs : List Byte) (hK : Keeps s0 s)
    : Keeps s0 (debugGot s o d ok bs) := by
  unfold debugGot
  try dsimp only
  repeat' first
    | with_reducible first
        | assumption | apply ite_keeps | apply iteP_keeps | apply foldl_keeps | apply foldlP_keeps
        | apply complete_keeps | apply debugLine_keeps | apply onPool_keeps | apply onSec_keeps | apply command_keeps
    | exact fun h => h | exact fun h => Mem.writeN_wf _ _ _ h | exact fun h => Mem.zero_wf _ _ _ h
    | exact fun h => Mem.foldWrite_wf _ (fun p _ hp => Mem.write_wf p.1 _ _ hp) _ _ h | (intro _; intros) | split
    | refine fst_keeps (by with_reducible assumption) ?_

theorem execReportSigned_keeps {s0 : State} (t : Time) (s : State) (hK : Keeps s0 s) : OutKeeps s0 (execReportSigned t
    s) := by
  unfold execReportSigned
  try dsimp only
  repeat' first
    | with_reducible first
        | assumption | apply ite_outKeeps | apply ite_keeps | apply iteP_keeps | apply OutKeeps.next | apply up_keeps
        | apply at__keeps | apply onSec_keeps | apply complete_keeps | apply dmaWrite_keeps
    | exact fun h => h | exact fun h => Mem.writeN_wf _ _ _ h | exact fun h => Mem.zero_wf _ _ _ h
    | exact fun h => Mem.foldWrite_wf _ (fun p _ hp => Mem.write_wf p.1 _ _ hp) _ _ h | split | (intro _; intros)
    | split | refine fst_keeps (by with_reducible assumption) ?_

theorem execCoreFail_keeps {s0 : State} (core : Fin 4) (cause : Byte) (t : Time) (s : State) (hK : Keeps s0 s) :
    OutKeeps s0 (execCoreFail core cause t s) := by
  unfold execCoreFail
  try dsimp only
  repeat' first
    | with_reducible first
        | assumption | apply ite_outKeeps | apply ite_keeps | apply iteP_keeps | apply OutKeeps.next | apply up_keeps
        | apply at__keeps | apply coreRestart_keeps
    | (intro _; intros) | split | refine fst_keeps (by with_reducible assumption) ?_

theorem execFwCommit_keeps {s0 : State} (t : Time) (s : State) (hK : Keeps s0 s) : OutKeeps s0 (execFwCommit t s) :=
    by
  unfold execFwCommit
  try dsimp only
  repeat' first
    | with_reducible first
        | assumption | apply ite_outKeeps | apply ite_keeps | apply iteP_keeps | apply OutKeeps.next
        | apply foldl_keeps | apply foldlP_keeps | apply up_keeps | apply at__keeps | apply onSec_keeps
        | apply clearHeld_keeps | apply complete_keeps | apply fwEvent_keeps | apply stepFree_keeps
    | exact fun h => h | exact fun h => Mem.writeN_wf _ _ _ h | exact fun h => Mem.zero_wf _ _ _ h
    | exact fun h => Mem.foldWrite_wf _ (fun p _ hp => Mem.write_wf p.1 _ _ hp) _ _ h | split | (intro _; intros)
    | split | refine fst_keeps (by with_reducible assumption) ?_

theorem specDebugRead_keeps {s0 : State} (o : Origin) (d : Desc) (k : Pick) (s : State) (hK : Keeps s0 s) : Keeps s0
    ((specDebugRead).eff o d k s) := by
  unfold specDebugRead
  try dsimp only
  repeat' first
    | with_reducible first
        | assumption | apply ite_keeps | apply iteP_keeps | apply complete_keeps | apply dmaWrite_keeps
    | (intro _; intros) | split | refine fst_keeps (by with_reducible assumption) ?_

theorem execDebugRead_keeps {s0 : State} (r : CmdRef) (d : Desc) (s : State) (hK : Keeps s0 s) : OutKeeps s0
    (execDebugRead r d s) := by
  unfold execDebugRead
  try dsimp only
  repeat' first
    | with_reducible first
        | assumption | apply OutKeeps.next | apply up_keeps | apply runRow_keeps | apply specDebugRead_keeps
    | (intro _; intros)

theorem execMeasureDone_keeps {s0 : State} (region : BitVec 16) (t : Time) (faults : List ReadFault) (s : State) (hK :
    Keeps s0 s) : OutKeeps s0 (execMeasureDone region t faults s) := by
  unfold execMeasureDone
  try dsimp only
  repeat' first
    | with_reducible first
        | assumption | apply ite_outKeeps | apply ite_keeps | apply iteP_keeps | apply OutKeeps.next
        | apply foldl_keeps | apply foldlP_keeps | apply up_keeps | apply at__keeps | apply measureEnd_keeps
        | apply snoop_keeps | apply onCoh_keeps | apply measureRead_keeps | apply awaitPartner_keeps
        | apply partnerReadReq_keeps
    | split | (intro _; intros) | split | refine fst_keeps (by with_reducible assumption) ?_

theorem execFwRollback_keeps {s0 : State} (cause : Byte) (t : Time) (s : State) (hK : Keeps s0 s) : OutKeeps s0
    (execFwRollback cause t s) := by
  unfold execFwRollback
  try dsimp only
  repeat' first
    | with_reducible first
        | assumption | apply ite_outKeeps | apply ite_keeps | apply iteP_keeps | apply OutKeeps.next | apply up_keeps
        | apply at__keeps | apply rollBack_keeps
    | split | (intro _; intros) | split | refine fst_keeps (by with_reducible assumption) ?_

theorem execTenantScrubDone_keeps {s0 : State} (tenant : BitVec 12) (s : State) (hK : Keeps s0 s) : OutKeeps s0
    (execTenantScrubDone tenant s) := by
  unfold execTenantScrubDone
  try dsimp only
  repeat' first
    | with_reducible first
        | assumption | apply ite_outKeeps | apply ite_keeps | apply iteP_keeps | apply OutKeeps.next | apply up_keeps
        | apply onRgn_keeps | apply onSec_keeps | apply bothEvent_keeps
    | exact fun h => h | exact fun h => Mem.writeN_wf _ _ _ h | exact fun h => Mem.zero_wf _ _ _ h
    | exact fun h => Mem.foldWrite_wf _ (fun p _ hp => Mem.write_wf p.1 _ _ hp) _ _ h | split | (intro _; intros)
    | split | refine fst_keeps (by with_reducible assumption) ?_

theorem execHkControl_keeps {s0 : State} (r : CmdRef) (d : Desc) (s : State) (hK : Keeps s0 s) : OutKeeps s0
    (execHkControl r d s) := by
  unfold execHkControl
  try dsimp only
  repeat' first
    | with_reducible first
        | assumption | apply OutKeeps.next | apply up_keeps | apply runRow_keeps | apply specHkControl_keeps
    | (intro _; intros)

theorem fwGot_keeps {s0 : State} (s : State) (o : Origin) (d : Desc) (ok : Bool) (bs : List Byte) (hK : Keeps s0 s) :
    Keeps s0 (fwGot s o d ok bs) := by
  unfold fwGot
  try dsimp only
  repeat' first
    | with_reducible first
        | assumption | apply complete_keeps | apply onSec_keeps
    | exact fun h => h | exact fun h => Mem.writeN_wf _ _ _ h | exact fun h => Mem.zero_wf _ _ _ h
    | exact fun h => Mem.foldWrite_wf _ (fun p _ hp => Mem.write_wf p.1 _ _ hp) _ _ h | (intro _; intros) | split
    | refine fst_keeps (by with_reducible assumption) ?_

theorem execRegionMeasure_keeps {s0 : State} (r : CmdRef) (d : Desc) (s : State) (hK : Keeps s0 s) : OutKeeps s0
    (execRegionMeasure r d s) := by
  unfold execRegionMeasure
  try dsimp only
  repeat' first
    | with_reducible first
        | assumption | apply OutKeeps.next | apply up_keeps | apply runRow_keeps | apply specRegionMeasure_keeps
    | (intro _; intros)

theorem execCompartmentFail_keeps {s0 : State} (core : Fin 4) (comp : Fin 8) (cause : Byte) (t : Time) (s : State) (hK
    : Keeps s0 s) : OutKeeps s0 (execCompartmentFail core comp cause t s) := by
  unfold execCompartmentFail
  try dsimp only
  repeat' first
    | with_reducible first
        | assumption | apply ite_outKeeps | apply ite_keeps | apply iteP_keeps | apply OutKeeps.next | apply up_keeps
        | apply at__keeps | apply coreRestart_keeps | apply onCore_keeps | apply fwEvent_keeps
        | apply compResumes_keeps | apply updateFails_keeps
    | (intro _; intros) | split | refine fst_keeps (by with_reducible assumption) ?_

end Sys2Proof.Machine
end

