-- ==== Sys2Proof/Laws/KeepsDawn.lean ====
section
/-! SUPPORT. What the functions of Dawn keep. -/

namespace Sys2Proof.Machine

theorem resetSwitch_keeps {s0 : State} (s : State) (hK : Keeps s0 s) : Keeps s0 (resetSwitch s) := by
  exact ⟨hK.queue, fun _ => ⟨rfl, rfl, rfl⟩⟩

theorem lanesStop_keeps {s0 : State} (s : State) (hK : Keeps s0 s) : Keeps s0 (lanesStop s) := by
  unfold lanesStop
  try dsimp only
  repeat' first
    | with_reducible first
        | assumption | apply foldl_keeps | apply foldlP_keeps | apply emit_keeps
    | (intro _; intros)

theorem resetNow_keeps {s0 : State} (s : State) (hK : Keeps s0 s) : Keeps s0 (resetNow s) := by
  unfold resetNow
  try dsimp only
  repeat' first
    | with_reducible first
        | assumption | apply resetSwitch_keeps | apply lanesStop_keeps
    | (intro _; intros)

theorem execRefclkFLoss_keeps {s0 : State} (ns : Nat) (back : Bool) (s : State) (hK : Keeps s0 s) : OutKeeps s0
    (execRefclkFLoss ns back s) := by
  unfold execRefclkFLoss
  try dsimp only
  repeat' first
    | with_reducible first
        | assumption | apply ite_outKeeps | apply ite_keeps | apply iteP_keeps | apply OutKeeps.next
        | apply onDev_keeps | apply resetNow_keeps
    | (intro _; intros) | split | refine fst_keeps (by with_reducible assumption) ?_

theorem stepEnds_keeps {s0 : State} (s : State) (t : Nat) (next : Nat) (hK : Keeps s0 s) : Keeps s0 (stepEnds s t
    next) := by
  unfold stepEnds
  try dsimp only
  repeat' first
    | with_reducible first
        | assumption | apply ite_keeps | apply iteP_keeps | apply onDev_keeps | apply at__keeps | apply onPwr_keeps
    | (intro _; intros) | split | refine fst_keeps (by with_reducible assumption) ?_

theorem execDawnFarEndIdentity_keeps {s0 : State} (t : Nat) (s : State) (hK : Keeps s0 s) : OutKeeps s0
    (execDawnFarEndIdentity t s) := by
  unfold execDawnFarEndIdentity
  try dsimp only
  repeat' first
    | with_reducible first
        | assumption | apply ite_outKeeps | apply ite_keeps | apply iteP_keeps | apply OutKeeps.next | apply up_keeps
        | apply onTn_keeps | apply stepEnds_keeps
    | (intro _; intros) | split | refine fst_keeps (by with_reducible assumption) ?_

theorem execDawnElectionAndLock_keeps {s0 : State} (t : Nat) (s : State) (hK : Keeps s0 s) : OutKeeps s0
    (execDawnElectionAndLock t s) := by
  unfold execDawnElectionAndLock
  try dsimp only
  repeat' first
    | with_reducible first
        | assumption | apply ite_outKeeps | apply ite_keeps | apply iteP_keeps | apply OutKeeps.next | apply up_keeps
        | apply stepEnds_keeps
    | (intro _; intros) | split | refine fst_keeps (by with_reducible assumption) ?_

theorem applyPresets_keeps {s0 : State} (s : State) (b : List Byte) (hK : Keeps s0 s) : Keeps s0 (applyPresets s b) :=
    by
  unfold applyPresets
  try dsimp only
  repeat' first
    | with_reducible first
        | assumption | apply foldl_keeps | apply foldlP_keeps | apply onEngine_keeps | apply onPool_keeps
        | apply onPwr_keeps
    | exact fun h => h | exact fun h => Mem.writeN_wf _ _ _ h | exact fun h => Mem.zero_wf _ _ _ h
    | exact fun h => Mem.foldWrite_wf _ (fun p _ hp => Mem.write_wf p.1 _ _ hp) _ _ h | (intro _; intros)

theorem applyImage_keeps {s0 : State} (s : State) (bs : List Byte) (l : List ImgRec) (hK : Keeps s0 s) : Keeps s0
    (applyImage s bs l) := by
  unfold applyImage
  try dsimp only
  repeat' first
    | with_reducible first
        | assumption | apply ite_keeps | apply iteP_keeps | apply foldl_keeps | apply foldlP_keeps | apply onDev_keeps
        | apply onSwc_keeps | apply onSec_keeps | apply applyPresets_keeps
    | exact fun h => h | exact fun h => Mem.writeN_wf _ _ _ h | exact fun h => Mem.zero_wf _ _ _ h
    | exact fun h => Mem.foldWrite_wf _ (fun p _ hp => Mem.write_wf p.1 _ _ hp) _ _ h | (intro _; intros) | split
    | refine fst_keeps (by with_reducible assumption) ?_ | with_reducible apply mk_keeps

theorem execDawnNvm_keeps {s0 : State} (image : List Byte) (deviceBytes : Nat) (t : Nat) (s : State) (hK : Keeps s0 s)
    : OutKeeps s0 (execDawnNvm image deviceBytes t s) := by
  unfold execDawnNvm
  try dsimp only
  repeat' first
    | with_reducible first
        | assumption | apply ite_outKeeps | apply ite_keeps | apply iteP_keeps | apply OutKeeps.next | apply up_keeps
        | apply stepEnds_keeps | apply onSec_keeps | apply applyImage_keeps
    | exact fun h => h | exact fun h => Mem.writeN_wf _ _ _ h | exact fun h => Mem.zero_wf _ _ _ h
    | exact fun h => Mem.foldWrite_wf _ (fun p _ hp => Mem.write_wf p.1 _ _ hp) _ _ h | split | (intro _; intros)
    | split | refine fst_keeps (by with_reducible assumption) ?_

theorem startImage_keeps {s0 : State} (s : State) (o : Origin) (d : Desc) (k : Pick) (push : Bool) (hK : Keeps s0 s) :
    Keeps s0 (startImage s o d k push) := by
  unfold startImage
  try dsimp only
  repeat' first
    | with_reducible first
        | assumption | apply ite_keeps | apply iteP_keeps | apply complete_keeps | apply dmaRead_keeps
        | apply onSec_keeps
    | exact fun h => h | exact fun h => Mem.writeN_wf _ _ _ h | exact fun h => Mem.zero_wf _ _ _ h
    | exact fun h => Mem.foldWrite_wf _ (fun p _ hp => Mem.write_wf p.1 _ _ hp) _ _ h | (intro _; intros) | split
    | refine fst_keeps (by with_reducible assumption) ?_

theorem specFlashWrite_keeps {s0 : State} (o : Origin) (d : Desc) (k : Pick) (s : State) (hK : Keeps s0 s) : Keeps s0
    ((specFlashWrite).eff o d k s) := by
  unfold specFlashWrite
  try dsimp only
  repeat' first
    | with_reducible first
        | assumption | apply startImage_keeps
    | (intro _; intros)

theorem execSysResetNAssert_keeps {s0 : State} (ns : Nat) (taken : Bool) (released : Bool) (s : State) (hK : Keeps s0
    s) : OutKeeps s0 (execSysResetNAssert ns taken released s) := by
  unfold execSysResetNAssert
  try dsimp only
  repeat' first
    | with_reducible first
        | assumption | apply ite_outKeeps | apply ite_keeps | apply iteP_keeps | apply OutKeeps.next
        | apply onDev_keeps | apply resetNow_keeps
    | (intro _; intros) | split | refine fst_keeps (by with_reducible assumption) ?_

theorem specImagePush_keeps {s0 : State} (o : Origin) (d : Desc) (k : Pick) (s : State) (hK : Keeps s0 s) : Keeps s0
    ((specImagePush).eff o d k s) := by
  unfold specImagePush
  try dsimp only
  repeat' first
    | with_reducible first
        | assumption | apply startImage_keeps
    | (intro _; intros)

theorem programFlash_keeps {s0 : State} (s : State) (n : Nat) (hK : Keeps s0 s) : Keeps s0 (programFlash s n) := by
  unfold programFlash
  try dsimp only
  repeat' first
    | with_reducible first
        | assumption | apply emit_keeps
    | (intro _; intros)

theorem imageGot_keeps {s0 : State} (s : State) (o : Origin) (d : Desc) (ok : Bool) (bs : List Byte) (hK : Keeps s0 s)
    : Keeps s0 (imageGot s o d ok bs) := by
  unfold imageGot
  try dsimp only
  repeat' first
    | with_reducible first
        | assumption | apply ite_keeps | apply iteP_keeps | apply complete_keeps | apply onSec_keeps
        | apply applyImage_keeps | apply programFlash_keeps | apply onDev_keeps
    | exact fun h => h | exact fun h => Mem.writeN_wf _ _ _ h | exact fun h => Mem.zero_wf _ _ _ h
    | exact fun h => Mem.foldWrite_wf _ (fun p _ hp => Mem.write_wf p.1 _ _ hp) _ _ h | (intro _; intros) | split
    | refine fst_keeps (by with_reducible assumption) ?_

theorem tap_keeps {s0 : State} (s : State) (k : State → State) (h_k : ∀ y0, Keeps s0 y0 → Keeps s0 (k y0)) (hK : Keeps
    s0 s) : OutKeeps s0 (tap s k) := by
  unfold tap
  try dsimp only
  repeat' first
    | with_reducible first
        | assumption | apply h_k | apply ite_outKeeps | apply ite_keeps | apply iteP_keeps | apply OutKeeps.next
    | (intro _; intros) | split | refine fst_keeps (by with_reducible assumption) ?_

theorem pinsOut_keeps {s0 : State} (s : State) (ir : String) (hK : Keeps s0 s) : Keeps s0 (pinsOut s ir) := by
  unfold pinsOut
  try dsimp only
  repeat' first
    | with_reducible first
        | assumption | apply ite_keeps | apply iteP_keeps | apply foldl_keeps | apply foldlP_keeps | apply onDev_keeps
        | apply openSession_keeps | apply failLink_keeps | apply stayOut_keeps | apply hostGone_keeps
        | apply onHp_keeps
    | (intro _; intros) | split | refine fst_keeps (by with_reducible assumption) ?_

theorem execHighz_keeps {s0 : State} (s : State) (hK : Keeps s0 s) : OutKeeps s0 (execHighz s) := by
  unfold execHighz
  try dsimp only
  repeat' first
    | with_reducible first
        | assumption | apply OutKeeps.next | apply tap_keeps | apply pinsOut_keeps
    | (intro _; intros)

theorem execClamp_keeps {s0 : State} (s : State) (hK : Keeps s0 s) : OutKeeps s0 (execClamp s) := by
  unfold execClamp
  try dsimp only
  repeat' first
    | with_reducible first
        | assumption | apply OutKeeps.next | apply tap_keeps | apply pinsOut_keeps
    | (intro _; intros)

theorem tapQuiet_keeps {s0 : State} (s : State) (ir : String) (hK : Keeps s0 s) : Keeps s0 (tapQuiet s ir) := by
  unfold tapQuiet
  try dsimp only
  repeat' first
    | with_reducible first
        | assumption | apply onDev_keeps
    | (intro _; intros)

theorem execBypass_keeps {s0 : State} (s : State) (hK : Keeps s0 s) : OutKeeps s0 (execBypass s) := by
  unfold execBypass
  try dsimp only
  repeat' first
    | with_reducible first
        | assumption | apply OutKeeps.next | apply tap_keeps | apply onDev_keeps | apply tapQuiet_keeps
    | (intro _; intros)

theorem execIdcode_keeps {s0 : State} (s : State) (hK : Keeps s0 s) : OutKeeps s0 (execIdcode s) := by
  unfold execIdcode
  try dsimp only
  repeat' first
    | with_reducible first
        | assumption | apply OutKeeps.next | apply tap_keeps | apply emit_keeps | apply onDev_keeps
        | apply tapQuiet_keeps
    | (intro _; intros)

theorem flashDone_keeps {s0 : State} (s : State) (hK : Keeps s0 s) : Keeps s0 (flashDone s) := by
  unfold flashDone
  try dsimp only
  repeat' first
    | with_reducible first
        | assumption | apply ite_keeps | apply iteP_keeps | apply complete_keeps | apply onSec_keeps
    | exact fun h => h | exact fun h => Mem.writeN_wf _ _ _ h | exact fun h => Mem.zero_wf _ _ _ h
    | exact fun h => Mem.foldWrite_wf _ (fun p _ hp => Mem.write_wf p.1 _ _ hp) _ _ h | (intro _; intros) | split
    | refine fst_keeps (by with_reducible assumption) ?_

theorem execDawnModeEntered_keeps {s0 : State} (t : Nat) (s : State) (hK : Keeps s0 s) : OutKeeps s0
    (execDawnModeEntered t s) := by
  unfold execDawnModeEntered
  try dsimp only
  repeat' first
    | with_reducible first
        | assumption | apply ite_outKeeps | apply ite_keeps | apply iteP_keeps | apply OutKeeps.next | apply up_keeps
        | apply onFlt_keeps | apply flashDone_keeps | apply onDev_keeps | apply stepEnds_keeps
    | (intro _; intros) | split | refine fst_keeps (by with_reducible assumption) ?_

theorem execDawnLinks_keeps {s0 : State} (t : Nat) (s : State) (hK : Keeps s0 s) : OutKeeps s0 (execDawnLinks t s) :=
    by
  unfold execDawnLinks
  try dsimp only
  repeat' first
    | with_reducible first
        | assumption | apply ite_outKeeps | apply ite_keeps | apply iteP_keeps | apply OutKeeps.next
        | apply foldl_keeps | apply foldlP_keeps | apply up_keeps | apply startBringup_keeps | apply stepEnds_keeps
    | (intro _; intros) | split | refine fst_keeps (by with_reducible assumption) ?_

theorem execImagePush_keeps {s0 : State} (r : CmdRef) (d : Desc) (s : State) (hK : Keeps s0 s) : OutKeeps s0
    (execImagePush r d s) := by
  unfold execImagePush
  try dsimp only
  repeat' first
    | with_reducible first
        | assumption | apply OutKeeps.next | apply up_keeps | apply runRow_keeps | apply specImagePush_keeps
    | (intro _; intros)

theorem execFlashWriteEnd_keeps {s0 : State} (ok : Bool) (s : State) (hK : Keeps s0 s) : OutKeeps s0
    (execFlashWriteEnd ok s) := by
  unfold execFlashWriteEnd
  try dsimp only
  repeat' first
    | with_reducible first
        | assumption | apply ite_outKeeps | apply ite_keeps | apply iteP_keeps | apply OutKeeps.next | apply up_keeps
        | apply flashDone_keeps | apply onSec_keeps
    | exact fun h => h | exact fun h => Mem.writeN_wf _ _ _ h | exact fun h => Mem.zero_wf _ _ _ h
    | exact fun h => Mem.foldWrite_wf _ (fun p _ hp => Mem.write_wf p.1 _ _ hp) _ _ h | split | (intro _; intros)
    | split | refine fst_keeps (by with_reducible assumption) ?_

theorem execDapAccess_keeps {s0 : State} (level : Fin 3) (s : State) (hK : Keeps s0 s) : OutKeeps s0 (execDapAccess
    level s) := by
  unfold execDapAccess
  try dsimp only
  repeat' first
    | with_reducible first
        | assumption | apply ite_outKeeps | apply ite_keeps | apply iteP_keeps | apply OutKeeps.next | apply tap_keeps
        | apply tapQuiet_keeps | apply closeSession_keeps | apply openSession_keeps
    | (intro _; intros) | split | refine fst_keeps (by with_reducible assumption) ?_

theorem execFlashWrite_keeps {s0 : State} (r : CmdRef) (d : Desc) (s : State) (hK : Keeps s0 s) : OutKeeps s0
    (execFlashWrite r d s) := by
  unfold execFlashWrite
  try dsimp only
  repeat' first
    | with_reducible first
        | assumption | apply OutKeeps.next | apply up_keeps | apply runRow_keeps | apply specFlashWrite_keeps
    | (intro _; intros)

theorem execDawnDram_keeps {s0 : State} (stackFail : BitVec 16) (t : Nat) (s : State) (hK : Keeps s0 s) : OutKeeps s0
    (execDawnDram stackFail t s) := by
  unfold execDawnDram
  try dsimp only
  repeat' first
    | with_reducible first
        | assumption | apply ite_outKeeps | apply ite_keeps | apply iteP_keeps | apply OutKeeps.next
        | apply foldl_keeps | apply foldlP_keeps | apply up_keeps | apply stepEnds_keeps | apply onDev_keeps
        | apply onPool_keeps | apply declareStackLost_keeps | apply onFlt_keeps
    | exact fun h => h | exact fun h => Mem.writeN_wf _ _ _ h | exact fun h => Mem.zero_wf _ _ _ h
    | exact fun h => Mem.foldWrite_wf _ (fun p _ hp => Mem.write_wf p.1 _ _ hp) _ _ h | (intro _; intros) | split
    | refine fst_keeps (by with_reducible assumption) ?_

theorem execTrstNAssert_keeps {s0 : State} (s : State) (hK : Keeps s0 s) : OutKeeps s0 (execTrstNAssert s) := by
  unfold execTrstNAssert
  try dsimp only
  repeat' first
    | with_reducible first
        | assumption | apply OutKeeps.next | apply tap_keeps | apply closeSession_keeps | apply tapQuiet_keeps
    | (intro _; intros)

theorem execRailOutOfRange_keeps {s0 : State} (rail : Rail) (ns : Nat) (back : Bool) (s : State) (hK : Keeps s0 s) :
    OutKeeps s0 (execRailOutOfRange rail ns back s) := by
  unfold execRailOutOfRange
  try dsimp only
  repeat' first
    | with_reducible first
        | assumption | apply ite_outKeeps | apply ite_keeps | apply iteP_keeps | apply OutKeeps.next
        | apply onDev_keeps | apply resetNow_keeps
    | (intro _; intros) | split | refine fst_keeps (by with_reducible assumption) ?_

theorem execDawnPuf_keeps {s0 : State} (raw : List Byte) (helper : List Byte) (t : Nat) (s : State) (hK : Keeps s0 s)
    : OutKeeps s0 (execDawnPuf raw helper t s) := by
  unfold execDawnPuf
  try dsimp only
  repeat' first
    | with_reducible first
        | assumption | apply ite_outKeeps | apply ite_keeps | apply iteP_keeps | apply OutKeeps.next | apply up_keeps
        | apply onSec_keeps | apply stepEnds_keeps | apply onDev_keeps
    | exact fun h => h | exact fun h => Mem.writeN_wf _ _ _ h | exact fun h => Mem.zero_wf _ _ _ h
    | exact fun h => Mem.foldWrite_wf _ (fun p _ hp => Mem.write_wf p.1 _ _ hp) _ _ h | (intro _; intros) | split
    | refine fst_keeps (by with_reducible assumption) ?_

theorem execExtest_keeps {s0 : State} (s : State) (hK : Keeps s0 s) : OutKeeps s0 (execExtest s) := by
  unfold execExtest
  try dsimp only
  repeat' first
    | with_reducible first
        | assumption | apply OutKeeps.next | apply tap_keeps | apply pinsOut_keeps
    | (intro _; intros)

theorem execDawnBootRom_keeps {s0 : State} (quadsPass : BitVec 4) (sfdp : Bool) (t : Nat) (s : State) (hK : Keeps s0
    s) : OutKeeps s0 (execDawnBootRom quadsPass sfdp t s) := by
  unfold execDawnBootRom
  try dsimp only
  repeat' first
    | with_reducible first
        | assumption | apply ite_outKeeps | apply ite_keeps | apply iteP_keeps | apply OutKeeps.next | apply up_keeps
        | apply stepEnds_keeps | apply onDev_keeps | apply onSec_keeps
    | exact fun h => h | exact fun h => Mem.writeN_wf _ _ _ h | exact fun h => Mem.zero_wf _ _ _ h
    | exact fun h => Mem.foldWrite_wf _ (fun p _ hp => Mem.write_wf p.1 _ _ hp) _ _ h | (intro _; intros) | split
    | refine fst_keeps (by with_reducible assumption) ?_

theorem execSamplePreload_keeps {s0 : State} (s : State) (hK : Keeps s0 s) : OutKeeps s0 (execSamplePreload s) := by
  unfold execSamplePreload
  try dsimp only
  repeat' first
    | with_reducible first
        | assumption | apply OutKeeps.next | apply tap_keeps | apply tapQuiet_keeps
    | (intro _; intros)

end Sys2Proof.Machine
end

