-- ==== Sys2Proof/Laws/KeepsFlags.lean ====
section
/-! SUPPORT. What the functions of Flags keep. -/

namespace Sys2Proof.Machine

theorem execBar0BadAccess_keeps {s0 : State} (host : Fin 2) (offset : BitVec 28) (size : Nat) (_isWrite : Bool) (s :
    State) (hK : Keeps s0 s) : OutKeeps s0 (execBar0BadAccess host offset size _isWrite s) := by
  unfold execBar0BadAccess
  try dsimp only
  repeat' first
    | with_reducible first
        | assumption | apply ite_outKeeps | apply ite_keeps | apply iteP_keeps | apply OutKeeps.next | apply up_keeps
        | apply throughPort_keeps | apply emit_keeps
    | (intro _; intros) | split | refine fst_keeps (by with_reducible assumption) ?_

theorem writeHostCtrl_keeps {s0 : State} (s : State) (p : Nat) (v : BitVec 64) (hK : Keeps s0 s) : Keeps s0
    (writeHostCtrl s p v) := by
  unfold writeHostCtrl
  try dsimp only
  repeat' first
    | with_reducible first
        | assumption | apply ite_keeps | apply iteP_keeps | apply detachHost_keeps | apply attachHost_keeps
        | apply beatHost_keeps
    | (intro _; intros) | split | refine fst_keeps (by with_reducible assumption) ?_

theorem writeHif_keeps {s0 : State} (s : State) (p : Fin 2) (o : Nat) (v : BitVec 64) (lo : Bool) (hi : Bool) (hK :
    Keeps s0 s) : Keeps s0 (writeHif s p o v lo hi) := by
  unfold writeHif
  try dsimp only
  repeat' first
    | with_reducible first
        | assumption | apply ite_keeps | apply iteP_keeps | apply writeHostCtrl_keeps | apply onHp_keeps
        | apply faultConsWrite_keeps | apply eventConsWrite_keeps | apply cmdProd_keeps | apply cplCons_keeps
    | (intro _; intros) | split | refine fst_keeps (by with_reducible assumption) ?_

theorem writeReg_keeps {s0 : State} (s : State) (off : Nat) (v : BitVec 64) (lo : Bool) (hi : Bool) (hK : Keeps s0 s)
    : Keeps s0 (writeReg s off v lo hi) := by
  unfold writeReg
  try dsimp only
  repeat' first
    | with_reducible first
        | assumption | apply ite_keeps | apply iteP_keeps | apply restartLow_keeps | apply restartEvents_keeps
        | apply writePortCtrl_keeps | apply slipWrite_keeps
    | (intro _; intros) | split | refine fst_keeps (by with_reducible assumption) ?_

theorem execRegisterWrite_keeps {s0 : State} (host : Fin 2) (offset : BitVec 28) (size8 : Bool) (value : BitVec 64) (s
    : State) (hK : Keeps s0 s) : OutKeeps s0 (execRegisterWrite host offset size8 value s) := by
  unfold execRegisterWrite
  try dsimp only
  repeat' first
    | with_reducible first
        | assumption | apply ite_outKeeps | apply ite_keeps | apply iteP_keeps | apply OutKeeps.next | apply up_keeps
        | apply throughPort_keeps | apply emit_keeps | apply writeHif_keeps | apply writeReg_keeps
    | (intro _; intros) | split | refine fst_keeps (by with_reducible assumption) ?_

end Sys2Proof.Machine
end

