-- ==== Sys2Proof/Laws/KeepsPackets.lean ====
section
/-! SUPPORT. What the functions of Packets keep. -/

namespace Sys2Proof.Machine

theorem execGiveUp_keeps {s0 : State} (part : Part) (dst : Node) (seq : BitVec 24) (t : Time) (s : State) (hK : Keeps
    s0 s) : OutKeeps s0 (execGiveUp part dst seq t s) := by
  unfold execGiveUp
  try dsimp only
  repeat' first
    | with_reducible first
        | assumption | apply OutKeeps.next | apply up_keeps | apply at__keeps | apply settle_keeps
        | apply zsGiveUp_keeps | apply epAt_keeps | apply atEp_keeps | apply epGiveUp_keeps
    | split | (intro _; intros) | split | refine fst_keeps (by with_reducible assumption) ?_

theorem atDest_keeps {s0 : State} (a : Arrival) (own : Bool) (zs : State → State) (ze : State → State) (s : State)
    (h_zs : ∀ y0, Keeps s0 y0 → Keeps s0 (zs y0)) (h_ze : ∀ y0, Keeps s0 y0 → Keeps s0 (ze y0)) (hK : Keeps s0 s) :
    OutKeeps s0 (atDest a own zs ze s) := by
  unfold atDest
  try dsimp only
  repeat' first
    | with_reducible first
        | assumption | apply h_zs | apply h_ze | apply ite_outKeeps | apply ite_keeps | apply iteP_keeps
        | apply OutKeeps.next | apply up_keeps | apply settle_keeps | apply receive_keeps | apply atEp_keeps
        | apply epReceive_keeps
    | split | (intro _; intros) | split | refine fst_keeps (by with_reducible assumption) ?_

theorem atZe_keeps {s0 : State} (a : Arrival) (msg : Nat) (ze : State → State) (s : State) (h_ze : ∀ y0, Keeps s0 y0 →
    Keeps s0 (ze y0)) (hK : Keeps s0 s) : OutKeeps s0 (atZe a msg ze s) := by
  unfold atZe
  try dsimp only
  repeat' first
    | with_reducible first
        | assumption | apply h_ze | apply OutKeeps.next | apply atDest_keeps | apply refuse_keeps
    | (intro _; intros)

theorem execEpcRead_keeps {s0 : State} (a : Arrival) (s : State) (hK : Keeps s0 s) : OutKeeps s0 (execEpcRead a s) :=
    by
  unfold execEpcRead
  try dsimp only
  repeat' first
    | with_reducible first
        | assumption | apply OutKeeps.next | apply atZe_keeps | apply epcReadZe_keeps
    | (intro _; intros)

theorem atSource_keeps {s0 : State} (a : Arrival) (ok : Bool) (s : State) (hK : Keeps s0 s) : OutKeeps s0 (atSource a
    ok s) := by
  unfold atSource
  try dsimp only
  repeat' first
    | with_reducible first
        | assumption | apply ite_outKeeps | apply ite_keeps | apply iteP_keeps | apply OutKeeps.next | apply up_keeps
        | apply settle_keeps | apply zsResponse_keeps | apply atEp_keeps | apply epResponse_keeps
    | split | (intro _; intros) | split | refine fst_keeps (by with_reducible assumption) ?_

theorem execHold_keeps {s0 : State} (a : Arrival) (s : State) (hK : Keeps s0 s) : OutKeeps s0 (execHold a s) := by
  unfold execHold
  try dsimp only
  repeat' first
    | with_reducible first
        | assumption | apply OutKeeps.next | apply atSource_keeps
    | (intro _; intros)

theorem execRead_keeps {s0 : State} (a : Arrival) (faults : List ReadFault) (s : State) (hK : Keeps s0 s) : OutKeeps
    s0 (execRead a faults s) := by
  unfold execRead
  try dsimp only
  repeat' first
    | with_reducible first
        | assumption | apply OutKeeps.next | apply atDest_keeps | apply serveRead_keeps | apply epServe_keeps
    | (intro _; intros)

theorem execSnoopResp_keeps {s0 : State} (a : Arrival) (s : State) (hK : Keeps s0 s) : OutKeeps s0 (execSnoopResp a s)
    := by
  unfold execSnoopResp
  try dsimp only
  repeat' first
    | with_reducible first
        | assumption | apply ite_outKeeps | apply ite_keeps | apply iteP_keeps | apply OutKeeps.next | apply up_keeps
        | apply consume_keeps | apply snoopDone_keeps
    | split | (intro _; intros) | split | refine fst_keeps (by with_reducible assumption) ?_

theorem execTableData_keeps {s0 : State} (a : Arrival) (s : State) (hK : Keeps s0 s) : OutKeeps s0 (execTableData a s)
    := by
  unfold execTableData
  try dsimp only
  repeat' first
    | with_reducible first
        | assumption | apply OutKeeps.next | apply atSource_keeps
    | (intro _; intros)

theorem execEpcWrite_keeps {s0 : State} (a : Arrival) (s : State) (hK : Keeps s0 s) : OutKeeps s0 (execEpcWrite a s)
    := by
  unfold execEpcWrite
  try dsimp only
  repeat' first
    | with_reducible first
        | assumption | apply OutKeeps.next | apply atZe_keeps | apply epcWriteZe_keeps
    | (intro _; intros)

theorem execNack_keeps {s0 : State} (a : Arrival) (s : State) (hK : Keeps s0 s) : OutKeeps s0 (execNack a s) := by
  unfold execNack
  try dsimp only
  repeat' first
    | with_reducible first
        | assumption | apply OutKeeps.next | apply atSource_keeps
    | (intro _; intros)

theorem execGraceClose_keeps {s0 : State} (part : Part) (region : BitVec 16) (t : Time) (s : State) (hK : Keeps s0 s)
    : OutKeeps s0 (execGraceClose part region t s) := by
  unfold execGraceClose
  try dsimp only
  repeat' first
    | with_reducible first
        | assumption | apply OutKeeps.next | apply up_keeps | apply graceCloseZs_keeps | apply epAt_keeps
        | apply onEp_keeps
    | split | (intro _; intros) | split | refine fst_keeps (by with_reducible assumption) ?_

theorem atEndPoint_keeps {s0 : State} (a : Arrival) (ok : Bool) (ze : State → State) (s : State) (h_ze : ∀ y0, Keeps
    s0 y0 → Keeps s0 (ze y0)) (hK : Keeps s0 s) : OutKeeps s0 (atEndPoint a ok ze s) := by
  unfold atEndPoint
  try dsimp only
  repeat' first
    | with_reducible first
        | assumption | apply h_ze | apply ite_outKeeps | apply ite_keeps | apply iteP_keeps | apply OutKeeps.next
        | apply up_keeps | apply consume_keeps | apply atEp_keeps
    | split | (intro _; intros) | split | refine fst_keeps (by with_reducible assumption) ?_

theorem execClosingWriteDiscard_keeps {s0 : State} (part : Part) (src : Node) (stream : Byte) (t : Time) (s : State)
    (hK : Keeps s0 s) : OutKeeps s0 (execClosingWriteDiscard part src stream t s) := by
  unfold execClosingWriteDiscard
  try dsimp only
  repeat' first
    | with_reducible first
        | assumption | apply OutKeeps.next | apply up_keeps | apply at__keeps | apply settle_keeps
        | apply refuse_keeps | apply onXp_keeps | apply epAt_keeps | apply atEp_keeps | apply epRefuse_keeps
        | apply onEpXp_keeps
    | split | (intro _; intros) | split | refine fst_keeps (by with_reducible assumption) ?_

theorem execWriteback_keeps {s0 : State} (a : Arrival) (s : State) (hK : Keeps s0 s) : OutKeeps s0 (execWriteback a s)
    := by
  unfold execWriteback
  try dsimp only
  repeat' first
    | with_reducible first
        | assumption | apply OutKeeps.next | apply atDest_keeps | apply serveWrite_keeps | apply epServe_keeps
    | (intro _; intros)

theorem execReduceResult_keeps {s0 : State} (a : Arrival) (s : State) (hK : Keeps s0 s) : OutKeeps s0
    (execReduceResult a s) := by
  unfold execReduceResult
  try dsimp only
  repeat' first
    | with_reducible first
        | assumption | apply OutKeeps.next | apply atEndPoint_keeps | apply epResult_keeps
    | (intro _; intros)

theorem atSwitch_keeps {s0 : State} (a : Arrival) (msg : Nat) (zs : State → State) (s : State) (h_zs : ∀ y0, Keeps s0
    y0 → Keeps s0 (zs y0)) (hK : Keeps s0 s) : OutKeeps s0 (atSwitch a msg zs s) := by
  unfold atSwitch
  try dsimp only
  repeat' first
    | with_reducible first
        | assumption | apply h_zs | apply OutKeeps.next | apply atDest_keeps | apply epRefuse_keeps
    | (intro _; intros)

theorem execPartnerWrite_keeps {s0 : State} (a : Arrival) (s : State) (hK : Keeps s0 s) : OutKeeps s0
    (execPartnerWrite a s) := by
  unfold execPartnerWrite
  try dsimp only
  repeat' first
    | with_reducible first
        | assumption | apply OutKeeps.next | apply atSwitch_keeps | apply partnerWriteZs_keeps
    | (intro _; intros)

theorem execPartnerRead_keeps {s0 : State} (a : Arrival) (faults : List ReadFault) (s : State) (hK : Keeps s0 s) :
    OutKeeps s0 (execPartnerRead a faults s) := by
  unfold execPartnerRead
  try dsimp only
  repeat' first
    | with_reducible first
        | assumption | apply OutKeeps.next | apply atSwitch_keeps | apply partnerReadZs_keeps
    | (intro _; intros)

theorem execReadOwn_keeps {s0 : State} (a : Arrival) (faults : List ReadFault) (s : State) (hK : Keeps s0 s) :
    OutKeeps s0 (execReadOwn a faults s) := by
  unfold execReadOwn
  try dsimp only
  repeat' first
    | with_reducible first
        | assumption | apply OutKeeps.next | apply atDest_keeps | apply serveRead_keeps | apply epServe_keeps
    | (intro _; intros)

theorem execTableReq_keeps {s0 : State} (a : Arrival) (s : State) (hK : Keeps s0 s) : OutKeeps s0 (execTableReq a s)
    := by
  unfold execTableReq
  try dsimp only
  repeat' first
    | with_reducible first
        | assumption | apply OutKeeps.next | apply atSwitch_keeps | apply serveTableReq_keeps
    | (intro _; intros)

theorem execReadReply_keeps {s0 : State} (a : Arrival) (s : State) (hK : Keeps s0 s) : OutKeeps s0 (execReadReply a s)
    := by
  unfold execReadReply
  try dsimp only
  repeat' first
    | with_reducible first
        | assumption | apply OutKeeps.next | apply atSource_keeps
    | (intro _; intros)

theorem execRetransmit_keeps {s0 : State} (part : Part) (dst : Node) (seq : BitVec 24) (t : Time) (s : State) (hK :
    Keeps s0 s) : OutKeeps s0 (execRetransmit part dst seq t s) := by
  unfold execRetransmit
  try dsimp only
  repeat' first
    | with_reducible first
        | assumption | apply OutKeeps.next | apply up_keeps | apply at__keeps | apply zsRetransmit_keeps
        | apply epAt_keeps | apply atEp_keeps | apply epRetransmit_keeps
    | split | (intro _; intros) | split | refine fst_keeps (by with_reducible assumption) ?_

theorem execCarryCpl_keeps {s0 : State} (a : Arrival) (s : State) (hK : Keeps s0 s) : OutKeeps s0 (execCarryCpl a s)
    := by
  unfold execCarryCpl
  try dsimp only
  repeat' first
    | with_reducible first
        | assumption | apply OutKeeps.next | apply atSwitch_keeps | apply carryCplGot_keeps | apply ackReq_keeps
    | (intro _; intros)

theorem execAck_keeps {s0 : State} (a : Arrival) (s : State) (hK : Keeps s0 s) : OutKeeps s0 (execAck a s) := by
  unfold execAck
  try dsimp only
  repeat' first
    | with_reducible first
        | assumption | apply OutKeeps.next | apply atSource_keeps
    | (intro _; intros)

theorem execGrantReq_keeps {s0 : State} (a : Arrival) (k : Pick) (s : State) (hK : Keeps s0 s) : OutKeeps s0
    (execGrantReq a k s) := by
  unfold execGrantReq
  try dsimp only
  repeat' first
    | with_reducible first
        | assumption | apply OutKeeps.next | apply atSwitch_keeps | apply grantReqZs_keeps
    | (intro _; intros)

theorem execRateRaise_keeps {s0 : State} (part : Part) (dst : Node) (t : Time) (s : State) (hK : Keeps s0 s) :
    OutKeeps s0 (execRateRaise part dst t s) := by
  unfold execRateRaise
  try dsimp only
  repeat' first
    | with_reducible first
        | assumption | apply OutKeeps.next | apply up_keeps | apply at__keeps | apply pump_keeps | apply onXp_keeps
        | apply epAt_keeps | apply atEp_keeps | apply onEpXp_keeps
    | split | (intro _; intros) | split | refine fst_keeps (by with_reducible assumption) ?_

theorem execClosingWriteRelease_keeps {s0 : State} (part : Part) (src : Node) (stream : Byte) (s : State) (hK : Keeps
    s0 s) : OutKeeps s0 (execClosingWriteRelease part src stream s) := by
  unfold execClosingWriteRelease
  try dsimp only
  repeat' first
    | with_reducible first
        | assumption | apply OutKeeps.next | apply up_keeps | apply settle_keeps | apply resumePacket_keeps
        | apply onXp_keeps | apply atEp_keeps | apply epRerun_keeps | apply onEpXp_keeps
    | split | (intro _; intros) | split | refine fst_keeps (by with_reducible assumption) ?_

theorem execCounterRead_keeps {s0 : State} (a : Arrival) (s : State) (hK : Keeps s0 s) : OutKeeps s0 (execCounterRead
    a s) := by
  unfold execCounterRead
  try dsimp only
  repeat' first
    | with_reducible first
        | assumption | apply OutKeeps.next | apply atDest_keeps | apply serveCounterRead_keeps
        | apply epCounterRead_keeps
    | (intro _; intros)

theorem execAtomic_keeps {s0 : State} (a : Arrival) (faults : List ReadFault) (s : State) (hK : Keeps s0 s) : OutKeeps
    s0 (execAtomic a faults s) := by
  unfold execAtomic
  try dsimp only
  repeat' first
    | with_reducible first
        | assumption | apply OutKeeps.next | apply atDest_keeps | apply serveAtomic_keeps | apply epServe_keeps
    | (intro _; intros)

theorem execGrant_keeps {s0 : State} (a : Arrival) (s : State) (hK : Keeps s0 s) : OutKeeps s0 (execGrant a s) := by
  unfold execGrant
  try dsimp only
  repeat' first
    | with_reducible first
        | assumption | apply OutKeeps.next | apply atSource_keeps
    | (intro _; intros)

theorem execCapSet_keeps {s0 : State} (a : Arrival) (s : State) (hK : Keeps s0 s) : OutKeeps s0 (execCapSet a s) := by
  unfold execCapSet
  try dsimp only
  repeat' first
    | with_reducible first
        | assumption | apply OutKeeps.next | apply atSwitch_keeps | apply serveCapSet_keeps
    | (intro _; intros)

theorem execCounterReply_keeps {s0 : State} (a : Arrival) (s : State) (hK : Keeps s0 s) : OutKeeps s0
    (execCounterReply a s) := by
  unfold execCounterReply
  try dsimp only
  repeat' first
    | with_reducible first
        | assumption | apply OutKeeps.next | apply atSource_keeps
    | (intro _; intros)

theorem execWrite_keeps {s0 : State} (a : Arrival) (s : State) (hK : Keeps s0 s) : OutKeeps s0 (execWrite a s) := by
  unfold execWrite
  try dsimp only
  repeat' first
    | with_reducible first
        | assumption | apply OutKeeps.next | apply atDest_keeps | apply serveWrite_keeps | apply epServe_keeps
    | (intro _; intros)

theorem execStore_keeps {s0 : State} (a : Arrival) (s : State) (hK : Keeps s0 s) : OutKeeps s0 (execStore a s) := by
  unfold execStore
  try dsimp only
  repeat' first
    | with_reducible first
        | assumption | apply OutKeeps.next | apply atDest_keeps | apply serveWrite_keeps | apply epServe_keeps
    | (intro _; intros)

theorem execClosingWrite_keeps {s0 : State} (a : Arrival) (s : State) (hK : Keeps s0 s) : OutKeeps s0
    (execClosingWrite a s) := by
  unfold execClosingWrite
  try dsimp only
  repeat' first
    | with_reducible first
        | assumption | apply OutKeeps.next | apply atDest_keeps | apply serveClosing_keeps | apply epClosing_keeps
    | (intro _; intros)

theorem execHoldTimer_keeps {s0 : State} (part : Part) (src : Node) (seq : BitVec 24) (t : Time) (s : State) (hK :
    Keeps s0 s) : OutKeeps s0 (execHoldTimer part src seq t s) := by
  unfold execHoldTimer
  try dsimp only
  repeat' first
    | with_reducible first
        | assumption | apply OutKeeps.next | apply up_keeps | apply at__keeps | apply respond_keeps | apply onXp_keeps
        | apply epAt_keeps | apply atEp_keeps | apply epRespond_keeps | apply onEpXp_keeps
    | split | (intro _; intros) | split | refine fst_keeps (by with_reducible assumption) ?_

theorem execEpochWaitExpire_keeps {s0 : State} (part : Part) (dst : Node) (stream : Byte) (t : Time) (s : State) (hK :
    Keeps s0 s) : OutKeeps s0 (execEpochWaitExpire part dst stream t s) := by
  unfold execEpochWaitExpire
  try dsimp only
  repeat' first
    | with_reducible first
        | assumption | apply OutKeeps.next | apply up_keeps | apply at__keeps | apply pump_keeps | apply onXp_keeps
        | apply epAt_keeps | apply atEp_keeps | apply onEpXp_keeps
    | split | (intro _; intros) | split | refine fst_keeps (by with_reducible assumption) ?_

theorem execEpcData_keeps {s0 : State} (a : Arrival) (s : State) (hK : Keeps s0 s) : OutKeeps s0 (execEpcData a s) :=
    by
  unfold execEpcData
  try dsimp only
  repeat' first
    | with_reducible first
        | assumption | apply OutKeeps.next | apply atSource_keeps
    | (intro _; intros)

theorem execPartnerData_keeps {s0 : State} (a : Arrival) (s : State) (hK : Keeps s0 s) : OutKeeps s0 (execPartnerData
    a s) := by
  unfold execPartnerData
  try dsimp only
  repeat' first
    | with_reducible first
        | assumption | apply OutKeeps.next | apply atSource_keeps
    | (intro _; intros)

theorem execSnoopInv_keeps {s0 : State} (a : Arrival) (s : State) (hK : Keeps s0 s) : OutKeeps s0 (execSnoopInv a s)
    := by
  unfold execSnoopInv
  try dsimp only
  repeat' first
    | with_reducible first
        | assumption | apply OutKeeps.next | apply atEndPoint_keeps | apply epSnoop_keeps
    | (intro _; intros)

theorem execPartnerFree_keeps {s0 : State} (a : Arrival) (s : State) (hK : Keeps s0 s) : OutKeeps s0 (execPartnerFree
    a s) := by
  unfold execPartnerFree
  try dsimp only
  repeat' first
    | with_reducible first
        | assumption | apply OutKeeps.next | apply atSwitch_keeps | apply partnerFreeZs_keeps
    | (intro _; intros)

theorem execSnoopRecall_keeps {s0 : State} (a : Arrival) (s : State) (hK : Keeps s0 s) : OutKeeps s0 (execSnoopRecall
    a s) := by
  unfold execSnoopRecall
  try dsimp only
  repeat' first
    | with_reducible first
        | assumption | apply OutKeeps.next | apply atEndPoint_keeps | apply epSnoop_keeps
    | (intro _; intros)

theorem execAtomicReply_keeps {s0 : State} (a : Arrival) (s : State) (hK : Keeps s0 s) : OutKeeps s0 (execAtomicReply
    a s) := by
  unfold execAtomicReply
  try dsimp only
  repeat' first
    | with_reducible first
        | assumption | apply OutKeeps.next | apply atSource_keeps
    | (intro _; intros)

end Sys2Proof.Machine
end

