-- ==== Sys2Proof/Laws/KeepsCommands.lean ====
section
/-! SUPPORT. What the functions of Commands keep. -/

namespace Sys2Proof.Machine

theorem specOf_keeps {s0 : State} {op : Nat} {c : CmdSpec} (h : specOf op = some c) (o : Origin) (d : Desc) (k : Pick)
    (s : State) (hK : Keeps s0 s) : Keeps s0 (c.eff o d k s) := by
  have hm := List.mem_of_find?_eq_some h
  clear h
  simp only [specs, List.mem_append, List.mem_cons, List.not_mem_nil, or_false] at hm
  repeat' (rcases hm with hm | hm)
  all_goals first
    | with_reducible apply entrySpec_keeps | with_reducible apply specAttestReport_keeps
    | with_reducible apply specCastPublish_keeps | with_reducible apply specCounterAlloc_keeps
    | with_reducible apply specCounterFree_keeps | with_reducible apply specCounterQuery_keeps
    | with_reducible apply specCounterSet_keeps | with_reducible apply specDebugClose_keeps
    | with_reducible apply specDebugOpen_keeps | with_reducible apply specDebugRead_keeps
    | with_reducible apply specDebugWrite_keeps | with_reducible apply specEpBind_keeps
    | with_reducible apply specEpKeyRevoke_keeps | with_reducible apply specEpKeyRotate_keeps
    | with_reducible apply specEpQuery_keeps | with_reducible apply specEpRangeCreate_keeps
    | with_reducible apply specEpRangeDestroy_keeps | with_reducible apply specEpReduceBind_keeps
    | with_reducible apply specFlashWrite_keeps | with_reducible apply specFltQuery_keeps
    | with_reducible apply specFwUpdate_keeps | with_reducible apply specGroupCreate_keeps
    | with_reducible apply specGroupDestroy_keeps | with_reducible apply specGroupQuery_keeps
    | with_reducible apply specGroupRearm_keeps | with_reducible apply specHkControl_keeps
    | with_reducible apply specImagePush_keeps | with_reducible apply specKeyRevoke_keeps
    | with_reducible apply specKeyRotate_keeps | with_reducible apply specLinkDisable_keeps
    | with_reducible apply specLinkRetrain_keeps | with_reducible apply specMcastClear_keeps
    | with_reducible apply specMcastSet_keeps | with_reducible apply specMgr_keeps
    | with_reducible apply specNop_keeps | with_reducible apply specPageFaultClear_keeps
    | with_reducible apply specPageIn_keeps | with_reducible apply specPageOut_keeps
    | with_reducible apply specPartnerAdopt_keeps | with_reducible apply specPartnerRelease_keeps
    | with_reducible apply specProgramLoad_keeps | with_reducible apply specProgramPost_keeps
    | with_reducible apply specProgramQuery_keeps | with_reducible apply specProgramStart_keeps
    | with_reducible apply specProgramStop_keeps | with_reducible apply specPwrCap_keeps
    | with_reducible apply specPwrMode_keeps | with_reducible apply specRangeMap_keeps
    | with_reducible apply specRangeUnmap_keeps | with_reducible apply specRegionCreate_keeps
    | with_reducible apply specRegionDestroy_keeps | with_reducible apply specRegionMeasure_keeps
    | with_reducible apply specRegionQuery_keeps | with_reducible apply specRegionSetRights_keeps
    | with_reducible apply specRingBind_keeps | with_reducible apply specRouteSet_keeps
    | with_reducible apply specRunnerClear_keeps | with_reducible apply specRunnerSet_keeps
    | with_reducible apply specScheduleMode_keeps | with_reducible apply specSecQuery_keeps
    | with_reducible apply specStepMark_keeps | with_reducible apply specSupplyCtrl_keeps
    | with_reducible apply specSupplyDump_keeps | with_reducible apply specSwcQuery_keeps
    | with_reducible apply specTenantCreate_keeps | with_reducible apply specTenantQuery_keeps
    | with_reducible apply specTenantRelease_keeps | with_reducible apply specTenantSetOwner_keeps
    | with_reducible apply specTenantSetQuota_keeps | with_reducible apply specTraceCtrl_keeps
    | with_reducible apply specTraceDump_keeps
  all_goals assumption

theorem dmaGot_keeps {s0 : State} (s : State) (r : DmaRead) (ok : Bool) (data : List Byte) (hK : Keeps s0 s) : Keeps
    s0 (dmaGot s r ok data) := by
  unfold dmaGot
  try dsimp only
  repeat' first
    | with_reducible first
        | assumption | apply ite_keeps | apply iteP_keeps | apply pageInData_keeps | apply programLoadGot_keeps
        | apply programStartGot_keeps | apply groupCreateGot_keeps | apply fwGot_keeps | apply debugGot_keeps
        | apply imageGot_keeps
    | (intro _; intros) | split | refine fst_keeps (by with_reducible assumption) ?_

theorem landRead_keeps {s0 : State} (s : State) (r : DmaRead) (ok : Bool) (data : List Byte) (hK : Keeps s0 s) : Keeps
    s0 (landRead s r ok data) := by
  unfold landRead
  try dsimp only
  repeat' first
    | with_reducible first
        | assumption | apply ite_keeps | apply iteP_keeps | apply onHp_keeps | apply dmaGot_keeps
    | (intro _; intros) | split | refine fst_keeps (by with_reducible assumption) ?_

theorem readDone_keeps {s0 : State} (s : State) (r : DmaRead) (ok : Bool) (data : List Byte) (hK : Keeps s0 s) : Keeps
    s0 (readDone s r ok data) := by
  unfold readDone
  try dsimp only
  repeat' first
    | with_reducible first
        | assumption | apply ite_keeps | apply iteP_keeps | apply onRgn_keeps | apply landRead_keeps
    | (intro _; intros) | split | refine fst_keeps (by with_reducible assumption) ?_

theorem dropDma_keeps {s0 : State} (s : State) (p : Nat) (r : DmaRead) (hK : Keeps s0 s) : Keeps s0 (dropDma s p r) :=
    by
  unfold dropDma
  try dsimp only
  repeat' first
    | with_reducible first
        | assumption | apply onHp_keeps | apply dmaPump_keeps
    | (intro _; intros)

theorem execDmaReadCompletion_keeps {s0 : State} (port : Fin 2) (id : Nat) (ok : Bool) (data : List Byte) (s : State)
    (hK : Keeps s0 s) : OutKeeps s0 (execDmaReadCompletion port id ok data s) := by
  unfold execDmaReadCompletion
  try dsimp only
  repeat' first
    | with_reducible first
        | assumption | apply ite_outKeeps | apply ite_keeps | apply iteP_keeps | apply OutKeeps.next | apply up_keeps
        | apply settle_keeps | apply readDone_keeps | apply dropDma_keeps
    | split | (intro _; intros) | split | refine fst_keeps (by with_reducible assumption) ?_

theorem execDmaTimeout_keeps {s0 : State} (port : Fin 2) (id : Nat) (t : Time) (s : State) (hK : Keeps s0 s) :
    OutKeeps s0 (execDmaTimeout port id t s) := by
  unfold execDmaTimeout
  try dsimp only
  repeat' first
    | with_reducible first
        | assumption | apply OutKeeps.next | apply up_keeps | apply at__keeps | apply settle_keeps
        | apply dmaGot_keeps | apply dropDma_keeps
    | split | (intro _; intros) | split | refine fst_keeps (by with_reducible assumption) ?_

theorem beginCarried_keeps {s0 : State} (s : State) (f : CarriedIn) (hK : Keeps s0 s) : Keeps s0 (beginCarried s f) :=
    by
  unfold beginCarried
  have h1 := onHif_keeps (fun h => { h with carriedIn := h.carriedIn.map fun g => if g = f then { f with begun := true } else g }) hK
  generalize s.onHif _ = s1 at h1 ⊢
  dsimp only
  split
  · exact complete_keeps _ _ _ _ _ h1
  · next c hc =>
    exact runCmd_keeps _ _ _ _ _ _ (fun _ _ _ _ h => specOf_keeps hc _ _ _ _ h) (effectBegins_keeps _ _ h1)

theorem carriedInGo_keeps {s0 : State} (x0 : Nat) (x1 : State) (hK : Keeps s0 x1) : Keeps s0 (carriedInGo x0 x1) := by
  induction x0 generalizing x1
  case zero =>
    unfold carriedInGo
    try dsimp only
    repeat' first
      | with_reducible first
          | assumption | apply beginCarried_keeps
      | (intro _; intros) | split | refine fst_keeps (by with_reducible assumption) ?_
  case succ n ih =>
    unfold carriedInGo
    try dsimp only
    repeat' first
      | with_reducible first
          | assumption | apply ih | apply beginCarried_keeps
      | (intro _; intros) | split | refine fst_keeps (by with_reducible assumption) ?_

theorem runCarried_keeps {s0 : State} (s : State) (o : Origin) (d : Desc) (k : Pick) (hK : Keeps s0 s) : Keeps s0
    (runCarried s o d k) := by
  unfold runCarried
  try dsimp only
  repeat' first
    | with_reducible first
        | assumption | apply ite_keeps | apply iteP_keeps | apply runMgr_keeps | apply onHif_keeps | apply onRgn_keeps
        | apply carriedInGo_keeps
    | (intro _; intros) | split | refine fst_keeps (by with_reducible assumption) ?_

theorem loadsGo_keeps {s0 : State} (s : State) (hK : Keeps s0 s) : Keeps s0 (loadsGo s) := by
  unfold loadsGo
  try dsimp only
  repeat' first
    | with_reducible first
        | assumption | apply foldl_keeps | apply foldlP_keeps | apply dmaGot_keeps | apply dropDma_keeps
    | (intro _; intros)

theorem activateOne_keeps {s0 : State} (s : State) (x : Staged) (hK : Keeps s0 s) : Keeps s0 (activateOne s x) := by
  unfold activateOne
  have h1 := effectBegins_keeps _ x.origin (onRgn_keeps (fun g => { g with staged := g.staged.erase x }) hK)
  generalize effectBegins _ _ = s1 at h1 ⊢
  dsimp only
  split
  · exact addMgr_keeps _ _ _ h1
  · split
    · split
      · exact complete_keeps _ _ _ _ _ h1
      · exact landRead_keeps _ _ _ _ h1
    · exact h1
    · next c _ hc =>
      split
      · exact complete_keeps _ _ _ _ _ h1
      · exact specOf_keeps hc _ _ _ _ h1

theorem stagedGo_keeps {s0 : State} (s : State) (hK : Keeps s0 s) : Keeps s0 (stagedGo s) := by
  unfold stagedGo
  try dsimp only
  repeat' first
    | with_reducible first
        | assumption | apply foldl_keeps | apply foldlP_keeps | apply runnersGo_keeps | apply activateOne_keeps
        | apply rebuildsGo_keeps | apply rowCapsDone_keeps | apply rowCapsGo_keeps
    | (intro _; intros)

theorem execCommandTake_keeps {s0 : State} (port : Fin 2) (s : State) (hK : Keeps s0 s) : OutKeeps s0 (execCommandTake
    port s) := by
  unfold execCommandTake
  try dsimp only
  repeat' first
    | with_reducible first
        | assumption | apply ite_outKeeps | apply ite_keeps | apply iteP_keeps | apply OutKeeps.next | apply up_keeps
        | apply takeCommand_keeps
    | (intro _; intros) | split | refine fst_keeps (by with_reducible assumption) ?_

theorem execCarryCmd_keeps {s0 : State} (a : Arrival) (k : Pick) (s : State) (hK : Keeps s0 s) : OutKeeps s0
    (execCarryCmd a k s) := by
  unfold execCarryCmd
  try dsimp only
  repeat' first
    | with_reducible first
        | assumption | apply OutKeeps.next | apply atSwitch_keeps | apply runCarried_keeps | apply ackReq_keeps
    | (intro _; intros)

theorem execStagedActivate_keeps {s0 : State} (t : Time) (s : State) (hK : Keeps s0 s) : OutKeeps s0
    (execStagedActivate t s) := by
  unfold execStagedActivate
  try dsimp only
  repeat' first
    | with_reducible first
        | assumption | apply ite_outKeeps | apply ite_keeps | apply iteP_keeps | apply OutKeeps.next | apply up_keeps
        | apply reachTick_keeps | apply epReachTick_keeps | apply stagedGo_keeps | apply settle_keeps
        | apply atEp_keeps | apply pump_keeps | apply carriedInGo_keeps | apply epStagedGo_keeps
    | (intro _; intros) | split | refine fst_keeps (by with_reducible assumption) ?_

theorem idle_keeps {s0 : State} (s : State) (hK : Keeps s0 s) : Keeps s0 (idle s) := by
  unfold idle
  dsimp only
  apply atEp_keeps
  · intro s h; exact verdictsGo_keeps _ _ (epStagedGo_keeps _ h)
  apply countTick_keeps
  split
  · exact settle_keeps _ (carriedInGo_keeps _ _ (loadsGo_keeps _ (pump_keeps _ (drainsGo_keeps _ (verdictsGo_keeps _ _
      (stagedGo_keeps _ (countTick_keeps _ _ hK)))))))
  · exact hK

end Sys2Proof.Machine
end

