-- ==== Sys2Proof/Laws/Rows.lean ====
section
/-! SUPPORT. When a command's effect is reached: the switch runs, the port is open, the request arrives, the group issues,
the ring command has its turn. -/

namespace Sys2Proof.Machine

theorem up_run {s : State} {k : State → State} (h : Running s) : up s k = .next (k s) := by
  unfold up; rw [if_pos]; exact ⟨h.1, by rw [h.2]; rfl⟩

theorem up_off {s : State} {k : State → State} (h : s.dev.vio = false ∨ s.dev.held = true) : up s k = .next s := by
  unfold up; rw [if_neg]; rintro ⟨a, b⟩; rcases h with h | h <;> simp [h] at a b

theorem dest_run {a : Arrival} {ok : Bool} {zs ze : State → State} {s : State} (h : Running s) (hp : a.part = .zs)
    (hk : ok = true) : atDest a ok zs ze s = .next (settle (receive s a zs)) := by
  unfold atDest; rw [hp]; dsimp only; rw [up_run h, hk]; rfl

theorem not_ze {p : Part} (h : (p == Part.ze) = false) : p = .zs := by cases p; rfl; cases h

theorem dest_off {a : Arrival} {ok : Bool} {zs ze : State → State} {s : State}
    (h : s.dev.vio = false ∨ s.dev.held = true) (hp : (a.part == Part.ze) = false) : atDest a ok zs ze s = .next s := by
  unfold atDest; rw [not_ze hp]; exact up_off h

theorem src_off {a : Arrival} {ok : Bool} {s : State} (h : s.dev.vio = false ∨ s.dev.held = true)
    (hp : (a.part == Part.ze) = false) : atSource a ok s = .next s := by
  unfold atSource; rw [not_ze hp]; exact up_off h

theorem ep_off {a : Arrival} {ok : Bool} {ze : State → State} {s : State} (h : s.dev.vio = false ∨ s.dev.held = true)
    (hp : (a.part == Part.ze) = false) : atEndPoint a ok ze s = .next s := by
  unfold atEndPoint; rw [not_ze hp]; exact up_off h

theorem part_off {p : Part} {k : State → State} {s : State} (h : s.dev.vio = false ∨ s.dev.held = true)
    (hp : (p == Part.ze) = false) : onPart p s k = .next s := by
  unfold onPart; rw [not_ze hp]; exact up_off h

theorem port_run {s : State} {p : Fin 2} {k : State → State} (h : PortOpen s p) : throughPort s p k = k s := by
  obtain ⟨h0, h1, h2, h3, h4⟩ := h
  unfold throughPort; rw [if_neg (by simp [h1, h2, h3])]
  rw [if_neg]; rintro ⟨a, b⟩; rcases h4 with h | h <;> simp [h] at a b

/-- An instruction that its group issues has its effect. -/
theorem issue_run {s : State} {g : GroupId} {op : Nat} {c : Ctx} {k : Ctx → State → State} (h : Issues s g op c) :
    up s (fun s => issue s g op k) = .next (k c (served s c)) := by
  obtain ⟨p, gi, pr, gr, i⟩ := c
  obtain ⟨h0, h1, h2, h3, h4, h5, h6, h7, h8⟩ := h
  dsimp only at h1 h2 h3 h4 h5 h6 h7
  subst h1 h2 h4
  rw [up_run h0]
  unfold issue
  dsimp only
  rw [h3]
  dsimp only
  rw [h5, if_neg (by simp)]
  cases hw : pr.code[(cruGroup pr g.grp).pc]? with
  | none => simp [hw] at h6
  | some w =>
    rw [hw] at h6
    cases h6
    dsimp only
    rw [if_pos ⟨h7, by rw [h8.1]; rfl, h8.2⟩]

/-! ### Groups of threads -/

theorem onGr_onGr (s : State) (c : Ctx) (f h : Group → Group) (pr : Program) (hp : prog? s c.p = some pr)
    (hc : c.gr = cruGroup pr c.g) : onGr (onGr s c f) c h = onGroup s c.p c.g fun _ => h (f c.gr) := by
  unfold onGr onGroup onProg State.onCru Tbl.modify
  have hp' : Tbl.get? s.cru.progs c.p = some pr := hp
  simp only [hp', Tbl.get?_set, Tbl.set_set, cruGroup, Tbl.getD]
  simp [Option.getD, hc, cruGroup, Tbl.getD]

theorem getT_setT (g : Group) (th r th' r' : Nat) (v : BitVec 64) (h : r < 32) (h' : r' < 32) :
    getT (setT g th r v) th' r' = if th' = th ∧ r' = r ∧ r ≠ 0 then v else getT g th' r' := by
  unfold getT setT
  by_cases hr : r = 0
  · simp [hr]
  · by_cases hr' : r' = 0
    · simp [hr, hr']; omega
    · simp [hr, hr', Tbl.getD]
      by_cases e : 32 * th' + r' = 32 * th + r
      · rw [e, Tbl.get?_set]; have : th' = th ∧ r' = r := by omega
        simp [this]
      · rw [Tbl.get?_set_ne _ _ _ _ e]; have : ¬ (th' = th ∧ r' = r) := by omega
        rw [if_neg (by omega)]

theorem fold_setT (l : List Nat) (hl : l.Nodup) (g : Group) (r r' th' : Nat) (f : Nat → BitVec 64) (h : r < 32)
    (h' : r' < 32) : getT (l.foldl (fun g th => setT g th r (f th)) g) th' r' =
      if th' ∈ l ∧ r' = r ∧ r ≠ 0 then f th' else getT g th' r' := by
  induction l generalizing g with
  | nil => simp
  | cons x l ih =>
    simp only [List.foldl_cons]
    rw [ih (List.nodup_cons.mp hl).2, getT_setT _ _ _ _ _ _ h h']
    have := (List.nodup_cons.mp hl).1
    by_cases e : th' = x <;> by_cases e2 : r' = r ∧ r ≠ 0 <;> simp [e, e2, this]

theorem activeThreads_nodup (g : Group) : (activeThreads g).Nodup := by
  unfold activeThreads bitList; exact List.nodup_range.sublist List.filter_sublist

theorem Ins.of_d_lt (w : BitVec 64) : (Ins.of w).d < 32 := by
  unfold Ins.of bitsOf; exact Nat.mod_lt _ (by decide)

/-! ### Ring commands -/

theorem markBegun_barred (s : State) (r : CmdRef) (f : InFlight) (d : Desc) : barred (markBegun s r f) d = barred s d := rfl

theorem markBegun_now (s : State) (r : CmdRef) (f : InFlight) : (markBegun s r f).now = s.now := rfl

theorem opcode_of_mayBegin {s : State} {op : Nat} {r : CmdRef} {d : Desc} {f : InFlight}
    (h : mayBegin s op r d = some f) : Desc.opcode d = op := by
  unfold mayBegin at h; rw [Option.filter_eq_some_iff] at h; have := h.2; simp at this; grind

/-- A ring command that has its turn runs. -/
theorem runRow_turn {c : CmdSpec} {r : CmdRef} {d : Desc} {k : Pick} {s : State} {f : InFlight}
    (h : mayBegin s c.op r d = some f) : runRow c r d k s = runCmd (markBegun s r f) (.ring r) d k f.order c := by
  unfold runRow; rw [h]

/-- A command of a ring ends with the status of its own checks (R198 is about carried ones). -/
theorem failure_ring (c : CmdSpec) (r : CmdRef) (d : Desc) (s : State) : failure c (.ring r) d s = c.chk (.ring r) d s := by
  unfold failure; rw [if_neg]; rintro ⟨h, -⟩; cases h

/-- A ring command that has its turn and passes its checks has its effect. -/
theorem runRow_eff {c : CmdSpec} {r : CmdRef} {d : Desc} {k : Pick} {s : State} {f : InFlight} (h : RingTurn s c.op r d f)
    (h1 : c.dest d (markBegun s r f) = none) (h2 : c.chk (.ring r) d (markBegun s r f) = none)
    (h3 : Desc.staged d = false ∨ c.early = true ∨ Desc.activate d ≤ s.now) :
    up s (runRow c r d k) = .next (c.eff (.ring r) d k (markBegun s r f)) := by
  rw [up_run h.1, runRow_turn h.2.1]; unfold runCmd
  rw [if_neg (by rw [markBegun_barred, h.2.2]; simp), h1]
  dsimp only; rw [failure_ring, h2]; dsimp only
  rw [if_neg]
  rw [markBegun_now]; rintro ⟨a, b, c'⟩
  rcases h3 with h | h | h
  · simp [h] at a
  · simp [h] at b
  · exact absurd c' (Nat.not_lt.2 h)

/-- A ring command that has its turn and fails a check completes with that check's status. -/
theorem runRow_fail {c : CmdSpec} {r : CmdRef} {d : Desc} {k : Pick} {s : State} {f : InFlight} {st : Status}
    (h : RingTurn s c.op r d f) (h1 : c.dest d (markBegun s r f) = none)
    (h2 : c.chk (.ring r) d (markBegun s r f) = some st) : up s (runRow c r d k) =
      .next (complete (markBegun s r f) (.ring r) d st (c.info (.ring r) d st (markBegun s r f))) := by
  rw [up_run h.1, runRow_turn h.2.1]; unfold runCmd
  rw [if_neg (by rw [markBegun_barred, h.2.2]; simp), h1]
  dsimp only; rw [failure_ring, h2]

end Sys2Proof.Machine
end

