-- ==== Sys2Proof/Tests/Slice0.lean ====
section
/-! SUPPORT. Tests: ill-formed commands, a state and operands that meet the hypotheses of each statement, and a few
steps whose result the manual gives. -/

open Sys2Proof Sys2Proof.Machine

namespace Sys2Proof.Tests

set_option maxRecDepth 100000
set_option Elab.async false

/-! ### States to test on -/

/-- A port that is up. -/
def portOn : LinkSt := { (default : LinkSt) with state := lnkUP, epReady := true }

/-- A host port with its link up, IDE secure and a live host. -/
def hostOn : HostPort :=
  { (default : HostPort) with
    linkUp := true, cxlMem := true, bme := true, biEnable := true, host := .live, beat := 10 ^ 9
    ide := [(0, ⟨true, false, 0, [(0, 1), (1, 2)]⟩), (2, ⟨true, false, 0, []⟩)] }

/-- A switch past Dawn: every quadrant, core and stack in service, ports 0 and 17 up, both hosts live, the time
locked; and a ZE-208 with both its ports up. -/
def base : State :=
  { State.reset with
    now := 10 ^ 9
    dev := { Dev.reset with quadUp := 0xF, dawnDone := true, step := 9, nodeId := 0x8000, sfdp := true }
    cfg := { (default : Cfg) with plan := [(0, ⟨.down, 0, 0, 0, 0, 0⟩), (17, ⟨.peer, 1, 0, 0, 0, 0⟩)] }
    sec := { (default : Sec) with owned := true, keyReady := true
                                  cores := (List.range 4).map fun n => (n, { (default : Core) with running := true }) }
    pool := { Pool.reset with trained := 0xFFFF }
    flt := { Flt.reset with tn := { TimeNode.reset with lock := .locked } }
    lnk := { (default : Lnk) with ports := [(0, portOn), (17, portOn)] }
    hif := { (default : Hif) with ports := [(0, hostOn), (1, hostOn)] }
    ep := { Ep.reset with now := 10 ^ 9, nodeId := 5, configured := true, ep0 := true, ep1 := true, m0 := true, m1 := true
                          tn := { TimeNode.reset with lock := .locked } } }

/-- A tick at which every timer of `base` is due. -/
def late : Time := 10 ^ 10

/-! ### Ill-formed commands -/

/-- An ill-formed command for each check of WellFormed, and a well-formed one beside it. -/
theorem test_wellFormed_opcode : Instr.wellFormed (.nop ⟨0, 0, 0⟩ 2) = false ∧ Instr.wellFormed (.nop ⟨0, 0, 0⟩ 1) = true := by
  decide

theorem test_wellFormed_alignment :
    Instr.wellFormed (.registerWrite 0 4 true 0) = false ∧ Instr.wellFormed (.registerWrite 0 4 false 0) = true ∧
    Instr.wellFormed (.bar0BadAccess 0 8 8 true) = false ∧ Instr.wellFormed (.bar0BadAccess 0 8 2 true) = true ∧
    Instr.wellFormed (.hdmDecoderCommit 0 0 1 0 1) = false ∧ Instr.wellFormed (.winRd 4 0) = false := by decide

theorem test_wellFormed_lines :
    Instr.wellFormed (.memrd 0 65 .any []) = false ∧ Instr.wellFormed (.memrd 0 64 .any [⟨0, 4, none⟩]) = false ∧
    Instr.wellFormed (.memwr 0 64 []) = false ∧ Instr.wellFormed (.memwrptl 0 64 1 [7]) = false ∧
    Instr.wellFormed (.bisnpResponse 0 0 (some [])) = false ∧ Instr.wellFormed (.memrd 0 64 .any []) = true := by decide

theorem test_wellFormed_packets :
    let p : Packet := { (default : Packet) with opcode := 0x08 }
    Instr.wellFormed (.read ⟨.zs, 0, p⟩ []) = false ∧ Instr.wellFormed (.write ⟨.ze, 2, p⟩) = false ∧
    Instr.wellFormed (.closingWrite ⟨.zs, 0, p⟩) = false ∧ Instr.wellFormed (.write ⟨.zs, 0, p⟩) = true ∧
    Instr.wellFormed (.grant ⟨.zs, 0, { p with opcode := 0x28, payload := [0xB5] }⟩) = false ∧
    Instr.wellFormed (.multicastForward 0 p) = false ∧ Instr.wellFormed (.runnerBurst 0 [] 0) = false ∧
    Instr.wellFormed (.flitReceive ⟨.zs, 0⟩ default) = false := by decide

theorem test_wellFormed_sizes :
    Instr.wellFormed (.packetForward 0 0 { (default : Packet) with payload := List.replicate 2049 0 }) = false ∧
    Instr.wellFormed (.prodDoorbell 0 0 (List.replicate 257 0)) = false ∧
    Instr.wellFormed (.compartmentFail 0 0 4 0) = false ∧ Instr.wellFormed (.coreFail 0 4 0) = false ∧
    Instr.wellFormed (.hostLinkUp 0 16 3 true true true) = false ∧ Instr.wellFormed (.hostLinkUp 0 24 8 true true true) = false := by
  decide +kernel

/-! ### A state and operands for every statement with hypotheses -/

theorem witness_HostRegisterCommandsAnswer :
    PortOpen base 0 ∧ hostAttached (base.hp 0) = true ∧
    (let s := base.onHp 1 fun h => { h with host := .detached, decoders := [(0, ⟨0, 2 ^ 40, true, false⟩)] }
     PortOpen s 1 ∧ hostAttached (s.hp 1) = false ∧ windowClaimed (s.hp 1) = true) := by decide +kernel

/-- Tenant 1 belongs to host 0. -/
def owned0 : State := base.onRgn fun g => { g with tenants := [(1, { (default : Tenant) with state := .active })] }

theorem witness_HostLivenessTimersAnswer :
    (Running owned0 ∧ (owned0.hp 0).host = .live ∧ due (owned0.at_ late).now (owned0.hp 0).beat (ms 20) = true) ∧
    (let s := (owned0.onHp 0 fun h => { h with host := .silent, silentAt := some 5 }).onHp 1 fun h => { h with beat := late }
     Running s ∧ hostLive (s.at_ late) 0 = false ∧ due (s.at_ late).now (notLiveSince (s.hp 0)) (ms 50) = true ∧
       hostLive (s.at_ late) 1 = true ∧ ownedTenants (s.at_ late) 0 ≠ []) ∧
    (Running base ∧ due (base.at_ late).now (notLiveSince (base.hp 1)) (ms 50) = true ∧
       hostLive (base.at_ late) 0 = false ∧ hostLive (base.at_ late) 1 = false ∧ (base.hp 1).overdue = false) ∧
    (let s := base.onHp 1 fun h => { h with msixPend := [63] }
     Running s ∧ hostLive s 1 = true ∧ (s.hp 1).msixPend.contains 63 = true) := by decide +kernel

/-- A DMA read of host port 1 for a command of an opcode and ACTIVATE, issued at tick 0. -/
def reading (op activate : Nat) : State := base.onHp 1 fun h => { h with
  dma := [⟨7, 0x1000, 64, 0, .ring ⟨1, 0, 0⟩, BitVec.ofNat 512 (op + (if activate = 0 then 0 else 256) + activate * 2 ^ 64), default, 0, [], true⟩] }

/-- The outstanding read of `reading`. -/
def theRead (s : State) : DmaRead := ((s.hp 1).dma.find? fun r => r.id == 7 && dmaOut r).getD default

theorem witness_DmaReadsEnd :
    ([(0x25, 0), (0x60, 0), (0x60, 5), (0x70, late)].all fun o =>
      let s := reading o.1 o.2
      let r := theRead s
      decide (Running s ∧ ((s.hp 1).dma.find? fun r => r.id == 7 && dmaOut r) = some r ∧ ioFailed (s.hp 1) = false) &&
      (Desc.opcode r.desc == o.1) && loaderOn (dropDma s 1 r) r.desc &&
      ((s.hp 1).dma.find? fun r => r.id == 7 && dmaOut r && due (s.at_ late).now r.issued (ms 10)) == some r) = true ∧
    (let r := theRead (reading 0x60 0)
     lastRead r = true ∧ Desc.staged r.desc = false) ∧
    (let s := reading 0x60 5
     let r := theRead s
     lastRead r = true ∧ Desc.staged r.desc = true ∧ Desc.activate r.desc ≤ (dropDma s 1 r).now) ∧
    (let s := reading 0x70 late
     let r := theRead s
     lastRead r = true ∧ Desc.staged r.desc = true ∧ (dropDma s 1 r).now < Desc.activate r.desc) := by decide +kernel

theorem witness_CxlRequestsAnswer :
    (let s := base.onCoh fun c => { c with recalls := [⟨3, 1, true, 0, false, 0, 0⟩] }
     Running s ∧ ((s.at_ late).coh.recalls.find? fun r => decide (r.line = 3 ∧ r.holder.val = 1)).any (fun r =>
      due (s.at_ late).now r.since (ms 1)) = true) ∧
    hpPresent base 1 = true ∧ ((base.hp 1).ide.getD 2 default).failed = false ∧
    ((base.hp 0).ide.getD (ideKey .link) default).keys.has (1 - ((base.hp 0).ide.getD (ideKey .link) default).txSet.val)
      = true ∧ base.sec.keyReady = true ∧
    (let s := base.onSec fun c => { c with keyReady := false }
     Running s ∧ s.sec.keyReady = false ∧ (s.hp 0).spdm = none) := by decide +kernel

theorem witness_MailboxCommandsAnswer : PortOpen base 0 ∧ PortOpen base 1 := by decide +kernel

theorem witness_RegisterWritesAnswer :
    Running base ∧ PortOpen base 0 ∧ (0xFFFF8 : BitVec 28).toNat % 8 = 0 ∧ (base.hp 0).biEnable = true ∧
    (((base.hp 0).decoders.filter fun d => d.1 != 7 && d.2.committed).map fun d => d.2.size).sum + 2 ^ 40 ≤ 2 ^ 40 ∧
    quadUp base 3 = true ∧ quadUp base (63 / 16) = true := by decide +kernel

/-- A request from node 3 on this row's switch 0x8000. -/
def request (op : Byte) (n : Nat) (pay : List Byte) : Packet :=
  Packet.sealed { (default : Packet) with
    opcode := op, dst := 0x8000, src := 3, seq := 9, len := BitVec.ofNat 16 n, payload := pay, time := 10 ^ 9 }

/-- The window that an admitted packet leaves. -/
def goOf : Admit → DstSrc
  | .go d => d
  | _ => default

/-- A management message of its own length (R192). -/
def message (m : Nat) : Packet :=
  let n := if m = 0x90 then 84 else if m = 0xB1 ∨ m = 0xB2 then 80 else if m = 0xA0 then 24 else 16
  request opMGMT n (padTo n [BitVec.ofNat 8 m, 1, 8])

/-- A write to offset 64 with CLOSE. -/
def closing : Packet := Packet.sealed { request opWRITE 1 [7] with flags := 1, offset := 64 }

theorem witness_RequestsAreServed :
    (∀ p ∈ [request opREAD 2048 [], request opREADOWN 64 [], request opCOUNTERREAD 0 [], request opWRITE 1 [7], closing,
        request opSTORE 1 [7], request opWRITEBACK 72 (List.replicate 72 1), request opATOMIC 8 (List.replicate 8 1),
        request opCONTRIB 1 [7]],
      Admitted base ⟨.zs, 63, p⟩ (goOf (admission base p))) ∧
    (request opWRITE 1 [7]).close = false ∧ closing.close = true ∧ base.xp.cw.length < 4096 := by decide +kernel

theorem witness_MessagesAreServed :
    ∀ m ∈ [0x90, 0x91, 0xB0, 0xB1, 0xB2, 0xB3, 0xB5, 0xB6],
      Admitted base ⟨.zs, 0, message m⟩ (goOf (admission base (message m))) ∧ isMsg ⟨.zs, 0, message m⟩ m = true := by decide +kernel

/-- The same requests, at the ZE-208 with node ID 5. -/
def atEnd (p : Packet) : Packet := Packet.sealed { p with dst := 5 }

theorem witness_EndPointRequestsAreServed :
    (∀ p ∈ [request opREAD 2048 [], request opWRITE 1 [7], request opSTORE 1 [7], request opATOMIC 8 (List.replicate 8 1),
        request opCOUNTERREAD 0 [], closing, message 0xA0, message 0xA1],
      EpAdmitted base ⟨.ze, 1, atEnd p⟩ (goOf (epAdmit base (atEnd p)))) ∧
    isMsg ⟨.ze, 1, atEnd (message 0xA0)⟩ 0xA0 = true ∧ isMsg ⟨.ze, 1, atEnd (message 0xA1)⟩ 0xA1 = true ∧
    (atEnd closing).close = true ∧ base.ep.xp.cw.length < 256 ∧ epArrives base ⟨.ze, 0, atEnd closing⟩ = true := by
  decide +kernel

/-- The snoop of line 3 of region 2 outstanding at the end point on port 0. -/
def snooping : State := base.onCoh fun c => { c with recalls := [⟨3, 2, true, 0, false, 2, 128⟩] }

theorem witness_ResponsesResolveRequests :
    Running base ∧ epArrives base ⟨.ze, 1, default⟩ = true ∧
    (let a : Arrival := ⟨.zs, 0, Packet.sealed { (default : Packet) with opcode := opSNOOPRESP, region := 2, offset := 128 }⟩
     Running snooping ∧ (snoopAnswered (consume snooping a.pkt) a).isSome = true) := by decide +kernel

/-- A stream of node 3, and two closing writes held at each part: one whose stream is complete, one that is not. -/
def holding : State :=
  let open_ : Packet := Packet.sealed { closing with stream := 2, w20 := 0, tag := 0, seq := 10, offset := 64 }
  let x : Xport := { (default : Xport) with
    cw := [(⟨.zs, 0, closing⟩, 0), (⟨.zs, 0, open_⟩, 0)]
    dst := [(3, { (default : DstSrc) with streams := [(2, ⟨7, 0, 0⟩)] })] }
  { base with xp := x, ep := { base.ep with xp := x } }

theorem witness_ClosingWritesEnd :
    Running holding ∧
    (heldClose holding.xp 3 0 (fun c => mayClose holding.xp c.1)).isSome = true ∧
    (heldClose holding.ep.xp 3 0 (fun c => mayClose holding.ep.xp c.1)).isSome = true ∧
    (heldClose holding.xp 3 2 (fun c => due (holding.at_ late).now c.2 (ms 1))).isSome = true ∧
    (heldClose holding.ep.xp 3 2 (fun c => due (holding.epAt late).ep.now c.2 (ms 1))).isSome = true := by decide +kernel

/-- Requests of node 3 in progress, and requests of this switch unresolved: sent once, sent seven times, held. -/
def timing : State :=
  let p := request opREAD 64 []
  let op (seq : BitVec 24) (sent : Nat) (held : Option Time) : Op := ⟨{ p with dst := 3, seq := seq }, 0, none, 0, 0, sent, held, .none⟩
  let x : Xport := { (default : Xport) with
    busy := [⟨⟨.zs, 0, p⟩, 0, none⟩, ⟨⟨.zs, 0, { p with seq := 10 }⟩, 0, some 0⟩]
    ops := [op 1 1 none, op 2 7 none, op 3 2 (some 0)] }
  { (base.onHif fun h => { h with carries := [⟨4, .ring ⟨0, 1, 0⟩, 0xB8, some 0, 0, none⟩] }) with
    xp := x
    ep := { base.ep with xp := x, ranges := [(6, { (default : EpEntry) with graceOpen := true })] } }

theorem witness_TransportTimersAct :
    Running timing ∧
    (([9, 10] : List (BitVec 24)).all fun seq =>
      (busyOf timing.xp 3 seq (timing.at_ late).now).isSome &&
      (busyOf timing.ep.xp 3 seq (timing.epAt late).ep.now).isSome) = true ∧
    ((timing.xp.opFor 3 1).filter (fun o => retransDue o (timing.at_ late).now)).isSome = true ∧
    ((timing.ep.xp.opFor 3 1).filter (fun o => retransDue o (timing.epAt late).ep.now)).isSome = true ∧
    (([2, 3] : List (BitVec 24)).all fun seq =>
      ((timing.xp.opFor 3 seq).filter (fun o => giveUpDue o (timing.at_ late).now)).isSome &&
      ((timing.ep.xp.opFor 3 seq).filter (fun o => giveUpDue o (timing.epAt late).ep.now)).isSome) = true ∧
    ((timing.hif.carries.find? fun c => c.id == 4).any fun c =>
      c.done.isNone && c.acked.any fun w => due (timing.at_ late).now w (ms 20)) = true ∧
    ((timing.ep.ranges.get? 6).any fun e => epGraceDue (timing.epAt late).ep 6 e) = true := by decide +kernel

/-- A group of 2 members with a chunk complete and a result that waits for both, one of them held. -/
def reducing : State :=
  { (base.onCol fun c => { c with groups := [(1023, { (default : RGroup) with
      members := 2, slots := 1, table := [3, 4], elements := 64
      combine := [⟨0, [(0, []), (1, [])], []⟩]
      results := [⟨5, 0, 0, [], [⟨0, 0, 1, none⟩, ⟨1, 0, 6, some 0⟩, ⟨2, 0, 6, none⟩], 0⟩] })] }) with
    ep := { base.ep with
      ops := [{ (default : EpOp) with i := 40, desc := 0x12 + 63 * 2 ^ 16 }]
      binds := [(63, { (default : RBinding) with sent := 1, elements := 64, slots := 1 })] } }

theorem witness_ReductionCommandsAnswer :
    Running reducing ∧
    ((rgroup? reducing 1023).any fun g =>
      g.state == .armed && decide (g.results.length < 2 * g.slots) && (completeChunk g).isSome) = true ∧
    ((rgroup? reducing 1023).any fun g => (g.results.find? fun r => r.g == 5).any fun r =>
      ((r.waiting.find? fun w => w.rank == 0).any fun w =>
        w.held.isNone && due (reducing.at_ late).now w.last (us 20) && decide (w.sent < 6)) &&
      ((r.waiting.find? fun w => w.rank == 2).any fun w =>
        w.held.isNone && due (reducing.at_ late).now w.last (us 20) && decide (6 ≤ w.sent)) &&
      (r.waiting.find? fun w => w.rank == 1).any fun w =>
        w.held.any fun h => due (reducing.at_ late).now h (us 300)) = true := by decide +kernel

theorem witness_ReductionCommandsAnswer_probe :
    ((reducing.ep.ops.any fun o => (contribOp reducing.ep (contribBinding o.desc)).isSome)
      && (reducing.ep.binds.get? 63).any fun b =>
        decide (b.done < b.sent) && due (reducing.epAt late).ep.now b.lastLand (ms 1)) = true := by decide +kernel

/-- A packet of one cell, stored with number 3. -/
def storedPkt : Packet := { (default : Packet) with dst := 0xC001 }

/-- Port 0 with a packet held, one to be enqueued, one in an egress queue, and a Runner into port 17. -/
def moving : State :=
  (base.onSwc fun c => { c with
    voq := [⟨3, 0, 5, none⟩]
    stored := [⟨3, storedPkt, 0, none, 5, 1, 1⟩]
    egress := [(8 * 17 + 2, [⟨3, storedPkt, 1, 1⟩])]
    deficit := [(8 * 17 + 2, 9)]
    runners := [(4095, { (default : Runner) with ingress := 0, egress := 17, slots := 0xFFFF })] }).onPwr
      fun p => { p with rate := 1024 }

theorem witness_PacketsAreForwarded :
    Running moving ∧ portUp moving 0 = true ∧ portUp moving 17 = true ∧
    (moving.onLnk fun l => { l with rx := [(63, 7, storedPkt)] }).lnk.rx.contains (63, 7, storedPkt) = true ∧
    egressCells moving 0 5 < (limitsOf moving (quadOf 0)).cap ∧
    ((moving.swc.voq.find? fun v => decide (v.port = 0 ∧ v.vc = 5)).any fun v =>
      (moving.swc.stored.find? fun x => x.id == v.id).isSome) = true ∧
    bitsOf storedPkt.dst.toNat 14 2 = 3 ∧
    moving.swc.suspended = false := by decide +kernel

/-- A burst of one STORE of 8 bytes in one flit, and an idle flit. -/
def burst : List Flit :=
  let p := request opSTORE 8 (List.replicate 8 7)
  [Flit.sealed { (default : Flit) with data := padTo 240 p.bytes, first := true, last := true, fill := 47 },
   Flit.sealed { (default : Flit) with data := List.replicate 240 0, idle := true }]

theorem witness_PacketsAreForwarded_burst :
    let t := 2 ^ 32 - 143
    ((burstEntry (moving.at_ t) 0 t burst).any fun x =>
      let b := burstOf burst
      let u := burstIn (moving.at_ t) 0 b
      (u.2.length == b.length) && ((burstPackets u.2 []).any fun pkts => burstOk x.2 pkts t) && !u.1.swc.suspended &&
        portUp u.1 (runnerEgress x.2) && !x.2.lost) = true := by decide +kernel

theorem witness_PacketsAreForwarded_restore :
    (let s := moving.onSwc fun c => { c with suspended := true }
     Running s ∧ s.swc.suspended = true ∧ rateFull (s.at_ (4096 * 10 ^ 6)) = true ∧ 4096 * 10 ^ 6 % 4096 = 0) ∧
    base.ep.configured = true ∧ epPortUp base.ep (1 - (1 : Fin 64).val) = true ∧
    epStopped base.ep 0 2 = false ∧ (let s := base.onEp fun e => { e with xoff := [(0, 4)] }
     s.ep.configured = true ∧ epPortUp s.ep 0 = true ∧ epStopped s.ep 0 2 = true) ∧ isSwitch 0x8010 = true ∧
    isSwitch 0x8000 = true ∧ planeOf 0x8010 ≠ planeOf 0x8000 := by decide +kernel

/-- Link 17 with a replay and a wait to end, and link 0 with nothing to send. -/
def linking : State := (moving.onSwc fun c => { c with runners := [] }).onLnk fun l => { l with
  ports := [(0, portOn), (17, { portOn with replayDue := true, wait := some 0 })] }

theorem witness_FlitsMoveOnLinks :
    Running linking ∧ quadUp linking (0 / 16) = true ∧ flitsRun (linkOf linking 0) = true ∧
    (linkOf linking 0).sleepTx = false ∧ nextVc (linking.at_ late) 0 late = none ∧
    quadUp linking (17 / 16) = true ∧ flitsRun (linkOf linking 17) = true ∧ (linkOf linking 17).sleepTx = false ∧
    portUp linking 17 = true ∧ replayWaits (linking.at_ late) 17 = true ∧
    (let s := linking.onLnk fun l => { l with ports := [(17, portOn)] }
     Running s ∧ portUp s 17 = true ∧ (linkOf s 17).held.length < 512 ∧ replayWaits (s.at_ late) 17 = false ∧
       (s.swc.bursts.find? fun b => decide (b.port = 17 ∧ b.at_ ≤ late)) = none ∧ (linkOf s 17).sleepTx = false ∧
       flitsRun (linkOf s 17) = true ∧ (nextVc (s.at_ late) 17 late).isSome = true) ∧
    (linkOf linking 17).replayDue = true ∧
    ((linkOf linking 17).wait.any fun w => due (linking.at_ late).now w (us 2)) = true ∧
    (linkOf linking 0).sleepRx = false ∧ due (linking.at_ late).now (linkOf linking 0).lastGood (us 1) = true ∧
    maySleep (linking.at_ late) 0 (linking.at_ late).now = true ∧ flitWaits linking 17 = true ∧
    (linking.swc.bursts.find? fun b => decide (b.port = 17 ∧ b.at_ ≤ late)) = none ∧
    (let s := linking.onSwc fun c => { c with bursts := [⟨17, 5, 2, true, true, [1]⟩] }
     Running s ∧ portUp s 17 = true ∧ (s.swc.bursts.find? fun b => decide (b.port = 17 ∧ b.at_ ≤ late)).isSome = true) ∧
    portUp linking 5 = false ∧ (let s := linking.onLnk fun l => { l with ports := [(5, { (default : LinkSt) with step := 5 })] }
     portUp s 5 = false ∧ flitsRun (linkOf s 5) = true ∧ (linkOf s 5).sleepTx = false) := by decide +kernel

/-- A link in a step of its bring-up. -/
def bringing (n pos : Nat) (pending : List (Fin 256)) : State := base.onLnk fun l => { l with
  ports := [(5, { (default : LinkSt) with step := n, pos := pos, pending := pending })]
  lanes := [(0, { (default : LaneSt) with lock := true })] }

theorem witness_LinksComeUp :
    Running (bringing 3 0 []) ∧
    linkServed (bringing 3 0 []) 5 = true ∧ (linkOf (bringing 3 0 []) 5).step = 3 ∧ (linkOf (bringing 3 0 []) 5).pending = [] ∧
    (linkOf (bringing 3 0 [0]) 5).pending ≠ [] ∧ (linkOf (bringing 3 0 [0]) 5).step = 3 ∧ (linkOf (bringing 3 0 [0]) 5).searchOwner = false ∧
    ((linkOf (bringing 3 0 [0]) 5).pending.filter fun n => !(laneOf (bringing 3 0 [0]) n).lock) = [] ∧
    ((linkOf (bringing 3 254 [255]) 5).pending.filter fun n => !(laneOf (bringing 3 254 [255]) n).lock) ≠ [] ∧
    (linkOf (bringing 3 254 [255]) 5).pos + 1 < 256 ∧ 256 ≤ (linkOf (bringing 3 255 [255]) 5).pos + 1 ∧
    (linkOf (bringing 6 0 []) 5).step = 6 ∧ farAgrees (planOf (bringing 6 0 []) 5) default = true ∧
    farAgrees (planOf (bringing 6 0 []) 5) { (default : FarId) with part := 0x6476 } = false ∧
    flitsRun (linkOf (bringing 7 0 []) 5) = true ∧ (linkOf (bringing 7 0 []) 5).step = 7 ∧
    (linkOf (bringing 7 0 []) 5).trips.length < 16 := by decide +kernel

/-- An instruction word from its fields (R350). -/
def word (op d a b c f imm : Nat) : BitVec 64 :=
  BitVec.ofNat 64 ((((((op * 32 + d) * 32 + a) * 32 + b) * 32 + c) * 16 + f) * 2 ^ 32 + imm)

/-- Program 0 of engine 0 on that word, with group 1 running on 32 threads. -/
def runs (w : BitVec 64) : State :=
  base.onCru fun c => { c with
    engines := [(0, { (default : Engine) with gather := 4096, duty := 16 })]
    progs := [(0, { (default : Program) with
      state := .running, code := [w], groupsN := 2, scratchBytes := 65536, handles := [0x8000000000000000], slots := [0]
      accums := 64, outstanding := 64, live := some ⟨6, []⟩
      groups := [(0, { (default : Group) with ended := true }), (1, { (default : Group) with mask := 0xFFFFFFFF })] })] }

/-- What that group's instruction sees. -/
def sees (s : State) : Ctx :=
  let pr := (prog? s 0).getD default
  ⟨0, 1, pr, cruGroup pr 1, Ins.of (pr.code.headD 0)⟩

/-- The group of the tests. -/
def grp : GroupId := ⟨0, 1⟩

theorem witness_ScalarInstructionsCompute :
    (scalarRows.all fun row =>
      decide (Issues (runs (word row.2.1 31 1 2 0 0 0)) grp row.2.1 (sees (runs (word row.2.1 31 1 2 0 0 0))))) = true := by
  decide +kernel

theorem witness_ControlInstructionsRun :
    ([0x0C, 0x0D, 0x0E, 0x18, 0x19, 0x1A, 0x1B, 0x1C, 0x1D, 0x1E, 0x27, 0x28, 0x29].all fun op =>
      decide (Issues (runs (word op 7 1 2 0 0 0)) grp op (sees (runs (word op 7 1 2 0 0 0))))) = true ∧
    ((runs 0).cru.reqs.any fun q => q.prog == 0 && q.grp == 1 && q.status.isNone) = false ∧
    (let s := (runs (word 0x28 7 0 0 0 0 0)).onCoh fun c => { c with counters := [(0, default)] }
     Issues s grp 0x28 (sees s) ∧
       ((activeThreads (sees s).gr).all fun th => counterHeld s (sees s).pr.tenant ((tA (sees s) th).toNat % 65536)) = true) := by
  decide +kernel

/-- The group can issue that instruction word, and a condition on what it sees holds. -/
def can (op d a b c f imm : Nat) (ok : State → Ctx → Bool) : Bool :=
  let s := runs (word op d a b c f imm)
  decide (Issues s grp op (sees s)) && ok s (sees s)

theorem witness_MemoryInstructionsRun :
    (can 0x20 7 1 0 0 0 0 fun _ c => scratchFault c (addrA c) 8 8 == none) = true ∧
    (can 0x21 0 1 2 0 0 65528 fun _ c => scratchFault c (addrA c) 8 1 == none) = true ∧
    (can 0x22 0 1 0 3 0 (2 ^ 31 + 64) fun s c => activeThreads c.gr != [] && !handleBad s c true && rawMode c
      && scratchFault c (fun th => (tC c th).toNat) (rowSize c) 64 == none) = true ∧
    (let s := (runs (word 0x22 0 1 0 3 6 64)).onCru fun c => { c with progs := c.progs.map fun e =>
        (e.1, { e.2 with groups := [(0, { (default : Group) with ended := true }), (1, { (default : Group) with mask := 1, slots := [(0, ⟨true, 0, 32, false⟩)] })] }) }
     Issues s grp 0x22 (sees s) ∧ activeThreads (sees s).gr ≠ [] ∧ handleBad s (sees s) true = false ∧
       rawMode (sees s) = false ∧ gatherBad (sees s) = false) ∧
    (can 0x23 7 1 0 0 0 0 fun s c => activeThreads c.gr != [] && !handleBad s c true) = true ∧
    (can 0x24 7 1 0 2 0 8 fun s c => activeThreads c.gr != [] && !handleBad s c true) = true ∧
    (can 0x25 0 1 0 2 0 2048 fun s c => activeThreads c.gr != [] && !handleBad s c false
      && scratchFault c (fun th => (tC c th).toNat) c.i.uimm 1 == none) = true ∧
    (can 0x26 7 1 0 2 0 0 fun s c => activeThreads c.gr != [] && !handleBad s c false) = true := by decide +kernel

theorem witness_AccumulatorInstructionsRun :
    (can 0x30 8 7 0 0 1 64 fun _ c => !c.gr.slots.has c.i.a && !targetTaken c (poolSlotOf c.i)) = true ∧
    (can 0x31 0 7 0 0 0 0 fun s c => !slotPending s c.p c.g c.i.a) = true ∧
    ([0x32, 0x33, 0x34, 0x39].all fun op => can op 1 2 0 0 6 64 fun _ _ => true) = true ∧
    ([0x35, 0x36].all fun op => can op 1 2 0 0 0 64 fun _ c => scratchOk c.pr (uni c.gr c.i.b).toNat (48 * c.i.uimm)) = true ∧
    (can 0x38 0 1 0 0 9 0 fun _ c => scratchOk c.pr (uni c.gr c.i.a).toNat (vecsSize c.i.f 128)) = true ∧
    (can 0x3A 0 1 2 0 6 64 fun s c => (c.pr.live.any fun t => t.fmt == c.i.f)
      && scratchOk c.pr (uni c.gr c.i.a).toNat (vecsSize c.i.f (c.i.uimm % 65536))
      && scratchOk c.pr (uni c.gr c.i.b).toNat (512 * (c.i.uimm % 65536)) && (engineOf s (c.p / 16)).duty != 0) = true := by
  decide +kernel

theorem witness_VectorInstructionsRun :
    (can 0x40 15 1 0 0 0 65280 fun _ c => scratchOk c.pr (uniAddr c c.i.a) 256) = true ∧
    (can 0x41 0 15 1 0 0 65280 fun _ c => scratchOk c.pr (uniAddr c c.i.b) 256) = true ∧
    ([0x42, 0x43, 0x44, 0x45, 0x46, 0x47, 0x48, 0x49, 0x4C, 0x4D].all fun op => can op 15 1 2 3 6 0 fun _ _ => true) = true ∧
    (can 0x4A 0 15 1 0 2 0 fun _ c => scratchOk c.pr (uni c.gr c.i.b).toNat (8 * fmtBits c.i.f + 2)) = true := by
  decide +kernel

/-- Program 255 of an engine paused from tick 0 on, with a request issued. -/
def pausedProg (st : ProgState) : State := base.onCru fun c => { c with
  engines := [(15, { (default : Engine) with pausedAt := some 0 })]
  progs := [(255, { (default : Program) with state := st, groupsN := 1 })]
  reqs := [{ (default : LineReq) with id := 1, prog := 255, issued := true, lines := 1 }] }

theorem witness_ProgramsEndAndRequestsReturn :
    (let s := pausedProg .running
     Running s ∧
     ((lineReq? s 1).any fun q => (prog? s q.prog).isSome && q.issued && q.status.isNone && decide (q.lines ≠ 0)) = true ∧
     lineWaits s 1 = false ∧ paused s 15 = true ∧
     ((prog? s 255).any fun pr => (engineOf s 15).pausedAt.any fun t0 =>
      pr.state == .running && due (s.at_ late).now (Nat.max t0 (pr.launchAt.getD 0)) (ms 100)) = true) ∧
    (let s := (pausedProg .ending).onCru fun c => { c with reqs := [] }
     ((prog? s 255).any fun pr => pr.state == .ending) = true ∧ progQuiet s 255 = true) := by decide +kernel

/-- The ZE-208 with a descriptor in slot 0 of queue `i`. -/
def queued (i : Nat) (d : Desc) : State := base.onEp fun e => { e with
  queues := [(i, { (default : EpQueue) with state := .enabled, prod := 1, slots := [(0, d)] })]
  binds := [(0, { (default : RBinding) with host := 0x8000 })] }

/-- That queue can take its operation, which passes its checks (`pass`) or fails one. -/
def starts (i op : Nat) (d : Desc) (pass : Bool) : Bool :=
  let s := queued i d
  let k := (epQ s.ep i).taken
  let s1 := (onEpQ s i fun q => { q with taken := q.taken + 1 }).onEp fun e => { e with ops := e.ops ++ [EpOp.fresh i k d] }
  epTakeable s.ep i && EpDesc.op (epNext s.ep i) == op && epOp? s.ep i k == none
    && (decide (op ≠ 0x12) || contribOp s.ep (contribBinding (epNext s.ep i)) == none)
    && ((epCheck s1.ep i d).isNone == pass)

/-- A descriptor of that opcode: LEN or ROWS 8, and rows of 64 bytes. -/
def epDesc (op handle : Nat) : Desc :=
  BitVec.ofNat 512 (op + 8 * 2 ^ 32 + handle * 2 ^ 64 + 64 * 2 ^ 256 + 64 * 2 ^ 320 + 64 * 2 ^ 384)

/-- The commands of a queue and of a channel, with their opcodes and HANDLE. -/
def epRows : List (Instr × Nat × Nat × Nat) :=
  [(.opRead 31, 31, 0x01, 2 ^ 63), (.opWrite 31, 31, 0x02, 2 ^ 63), (.opAtomic 31, 31, 0x03, 2 ^ 63), (.opFence 31, 31, 0x04, 0),
   (.opFlush 31, 31, 0x05, 2 ^ 63), (.opInval 31, 31, 0x06, 2 ^ 63), (.opCounterRead 31, 31, 0x07, 2 ^ 63),
   (.copyOut 63, 95, 0x10, 2 ^ 63), (.copyIn 63, 95, 0x11, 2 ^ 63), (.contrib 63, 95, 0x12, 0), (.tileFence 63, 95, 0x14, 0)]

theorem witness_EndPointOperationsStart :
    (epRows.all fun x => starts x.2.1 x.2.2.1 (epDesc x.2.2.1 x.2.2.2) true
      && starts x.2.1 x.2.2.1 (epDesc x.2.2.1 x.2.2.2 ||| BitVec.ofNat 512 (2 ^ 13)) false) = true := by decide +kernel

theorem witness_EndPointOperationsStart_rows : ∀ x ∈ epRows, EpOperation x.1 x.2.1 x.2.2.1 := by
  simp only [epRows, List.forall_mem_cons]
  refine ⟨?_, ?_, ?_, ?_, ?_, ?_, ?_, ?_, ?_, ?_, ?_, by simp⟩ <;>
    first
      | exact .inl ⟨31, rfl, by decide +kernel⟩
      | exact .inr ⟨63, rfl, by decide +kernel⟩

/-- Accesses of the accelerator outstanding since tick 0, and an operation that has been aborted. -/
def accessing : State := (queued 0 0).onEp fun e => { e with
  d2d := [{ (default : D2d) with tag := 1, isRead := true, len := 8, sent := true, use := .record 0 0 false },
          { (default : D2d) with tag := 2, sent := true, use := .record 0 0 false }] }

/-- Queue 0 with PROD 2, one operation taken and in `o`'s state. -/
def aborting (taken : BitVec 32) (os : List EpOp) : State := base.onEp fun e => { e with
  queues := [(0, { (default : EpQueue) with state := .enabled, prod := 2, taken := taken, slots := [(0, epDesc 1 0)] })]
  ops := os }

/-- The operation of slot 0 of queue 0. -/
def op0 : EpOp := EpOp.fresh 0 0 (epDesc 1 0)

theorem witness_EndPointWindowAndDoorbells_abort :
    ([aborting 0 [], aborting 1 [], aborting 1 [{ op0 with written := true }], aborting 1 [{ op0 with toSend := [(0, 0, 8, 0)] }],
        aborting 1 [{ op0 with status := some 0 }], aborting 1 [op0]].all fun s =>
      (epQ s.ep 0).state != .disabled &&
      !(s.ep.d2d.any (fun d => d.use == .abortRec 0) || s.ep.ops.any fun o => o.i == 0 && o.abortTag.isSome) &&
      decide (1 ≤ ((epQ s.ep 0).prod - 0).toNat ∧ ((epQ s.ep 0).prod - 0).toNat ≤ epDepth 0)) = true ∧
    (epOp? (aborting 0 []).ep 0 0 = none ∧
      ((epQ (aborting 0 []).ep 0).prod - 0).toNat ≤ ((epQ (aborting 0 []).ep 0).prod - (epQ (aborting 0 []).ep 0).taken).toNat) ∧
    (epOp? (aborting 1 []).ep 0 0 = none ∧
      ((epQ (aborting 1 []).ep 0).prod - (epQ (aborting 1 []).ep 0).taken).toNat < ((epQ (aborting 1 []).ep 0).prod - 0).toNat) ∧
    ((epOp? (aborting 1 [{ op0 with written := true }]).ep 0 0).any fun o =>
      recordOut (aborting 1 [{ op0 with written := true }]).ep o) = true ∧
    ((epOp? (aborting 1 [{ op0 with toSend := [(0, 0, 8, 0)] }]).ep 0 0).any fun o =>
      !recordOut (aborting 1 [{ op0 with toSend := [(0, 0, 8, 0)] }]).ep o && o.status.isNone &&
        (firstRow (aborting 1 [{ op0 with toSend := [(0, 0, 8, 0)] }]).ep o).isSome) = true ∧
    ([aborting 1 [{ op0 with status := some 0 }], aborting 1 [op0]].all fun s => (epOp? s.ep 0 0).any fun o =>
      !recordOut s.ep o && (o.status.isSome || firstRow s.ep o == none)) = true ∧
    ((aborting 1 [{ op0 with abortTag := some 0 }]).ep.ops.any fun o => o.i == 0 && o.abortTag.isSome) = true := by
  decide +kernel

theorem witness_EndPointWindowAndDoorbells :
    (epQ (onEpQ accessing 0 fun q => writeSlots q (epDepth 0) q.prod []).ep 0).state ≠ .disabled ∧
    (epQ accessing.ep 95).state = .disabled ∧ (epQ accessing.ep 0).state ≠ .disabled ∧
    (accessing.ep.d2d.any (fun d => d.use == .abortRec 0) || accessing.ep.ops.any fun o => o.i == 0 && o.abortTag.isSome)
      = false ∧
    ((epQ accessing.ep 0).prod - 1).toNat < 1 ∧ ((epQ accessing.ep 0).prod - 2).toNat > epDepth 0 ∧
    (d2dOf accessing.ep 1 true).isSome = true ∧ (d2dOf accessing.ep 2 false).isSome = true ∧
    ([1, 2].all fun tag => (accessing.ep.d2d.find? fun d =>
      d.tag == tag && d.sent && due (accessing.epAt late).ep.now d.issued (us 10)).isSome) = true := by decide +kernel

/-- The ZE-208 before it is configured, its ports enabled. -/
def fresh : State := base.onEp fun e => { e with configured := false, enable := 3, trip := false }

theorem witness_EndPointComesAndGoes :
    fresh.ep.trip = false ∧ fresh.ep.enable ≠ 0 ∧ isSwitch 5 = false ∧ fresh.ep.configured = false ∧
    (fresh.ep.m0 = true ∨ fresh.ep.m1 = true) := by decide +kernel

/-- Region 2 at granule 0, with a line rebuilt, and a line of no region rebuilt. -/
def rebuilt : State :=
  (base.onRgn fun g => { g with regions := [(2, { (default : Region) with length := 1, tenant := 1 })] }).onPool fun p =>
    { p with rebuildWb := [⟨1023, 0, 0⟩, ⟨1073741824, 0, 0⟩] }

theorem witness_PoolCommandsAnswer :
    Running rebuilt ∧ stackUp rebuilt 15 = true ∧ quadUp rebuilt (15 / 4) = true ∧
    (rebuilt.pool.rebuildWb.find? fun w => w.line == 1023) = some ⟨1023, 0, 0⟩ ∧
    (rebuilt.pool.rebuildWb.find? fun w => w.line == 1073741824) = some ⟨1073741824, 0, 0⟩ := by decide +kernel

/-- Quadrant 1 alone in service, region 2 in stack 4. -/
def scrubbing : State :=
  (rebuilt.onDev fun d => { d with quadUp := 2 }).onRgn fun g => { g with
    regions := [(2, { (default : Region) with base := BitVec.ofNat 24 (mkGranule 4 0), length := 1, tenant := 1 })] }

/-- Sorting a list of at most one element. -/
theorem sort_one {α : Type} {l : List α} {le : α → α → Bool} (h : l.length ≤ 1) : l.mergeSort le = l := by
  match l, h with
  | [], _ => simp
  | [x], _ => simp

theorem witness_PoolCommandsAnswer_scrub :
    stackUp scrubbing 4 = true ∧ (nthGranule (patrolSpans scrubbing 4) ((scrubbing.stack 4).cursor / 1024)).isSome = true ∧
    stackUp scrubbing 7 = true ∧ nthGranule (patrolSpans scrubbing 7) ((scrubbing.stack 7).cursor / 1024) = none := by
  refine ⟨by decide +kernel, ?_, by decide +kernel, ?_⟩ <;>
    (simp only [patrolSpans]; rw [sort_one (by decide +kernel)]; decide +kernel)

/-- What REBUILD_WRITEBACK of a line leaves first. -/
def rebuiltLess (s : State) (line : Nat) : State :=
  bumpCorrected ((s.onPool fun p => { p with rebuildWb := p.rebuildWb.erase ⟨line, 0, 0⟩ }).onStack (lineStack line)
    fun t => { t with rebuilt := bump t.rebuilt })

/-- The same without the quadrants of the hosts, so without a ring region. -/
def ringless : State := rebuilt.onDev fun d => { d with quadUp := 2 }

theorem witness_PoolCommandsAnswer_rebuild :
    Running ringless ∧ (ringless.pool.rebuildWb.find? fun w => w.line == 1073741824) = some ⟨1073741824, 0, 0⟩ ∧
    protectedHome (rebuiltLess ringless 1073741824) 1073741824 = none ∧
    ((protectedHome (rebuiltLess rebuilt 1023) 1023).any fun h =>
      ((rebuiltLess rebuilt 1023).region? h.ri).any fun r => r.lastRebuild.isNone) = true := by decide +kernel

/-- Cast region 1 in publication from region 2; region 3 destroyed; tenant 4095 in scrub; scratch region 4 in measurement. -/
def ending : State :=
  (((base.onRgn fun g => { g with regions :=
      [(1, { (default : Region) with length := 1, modes := 0x02, base := 8 }), (2, { (default : Region) with length := 1, place := BitVec.ofNat 8 2, stacks_ := 1, base := 1 }),
       (3, { (default : Region) with destroying := true, length := 1 }),
       (4, { (default : Region) with length := 1, place := BitVec.ofNat 8 2, stacks_ := 1 })] }).onCoh fun c => { c with
    publishes := [⟨1, 2, 1, .ring ⟨0, 0, 0⟩, 0x30, 0⟩] }).onSec fun c => { c with
    scrubs := [(4095, default)], measures := [(4, { (default : Measure) with running := [0] })] })

theorem witness_RegionsAndPublicationsEnd :
    Running ending ∧
    ((ending.coh.publishes.find? fun p => p.region == 1).any fun p =>
      ((ending.region? p.region).any fun r => !r.destroying && !bankRead (ending.at_ late) p.region r (p.version % 2))
        && ((ending.region? p.source).any fun q => !q.destroying) && !Desc.staged p.desc
        && (ownedOf (ending.at_ late) p.source).isEmpty) = true ∧
    ending.coh.blocked = [] ∧ ending.partnerW = [] ∧ ((ending.region? 2).any Region.isScratch) = true ∧
    ((ending.region? 3).any Region.destroying) = true ∧ regionIdle ending 3 = true ∧
    (∀ j ∈ ending.rgn.pageJobs, j.region ≠ 3) ∧ (∀ p ∈ ending.coh.publishes, p.region ≠ 3 ∧ p.source ≠ 3) ∧
    ((ending.sec.scrubs.get? 4095).any fun b => scrubDone ending 4095 b) = true ∧
    ((measureOf? ending 4).any fun m => decide (m.running ≠ [])) = true ∧
    homedOn ending compATTEST 1 = true ∧ ((ending.region? 4).any Region.isScratch) = true := by decide +kernel

theorem witness_RegionsAndPublicationsEnd_read (s : State) (q : Region) (fs : List ReadFault)
    (h : q.isScratch = true) : wantsOf (sourceRead s 2 q fs []).2 = [] := by
  simp [sourceRead, h, wantsOf]

/-- A report in the queue, an update past its checks, and a flash write. -/
def securing : State := base.onSec fun c => { c with
  queue := [⟨.ring ⟨0, 0, 0⟩, 0xC0, []⟩]
  update := some ⟨.ring ⟨0, 0, 0⟩, 0xC2, [], 1, 3, 0⟩
  flash := some { (default : FlashJob) with writing := true } }

theorem witness_SecurityCommandsAnswer :
    Running securing ∧ (securing.sec.queue.any fun q => dmaOk securing (originPort q.origin)) = true ∧
    homedOn securing compATTEST 1 = true ∧ homedOn securing compUPDATE 1 = true ∧
    ((updating securing).any fun u => due (securing.at_ late).now u.began (ms 500)
      && decide ((securing.at_ 0).now ≤ u.began + ms 500)) = true ∧
    (compPlaced securing 0 3 = true ∧ compOn securing 0 3 = true) ∧
    (compPlaced securing 7 1 = true ∧ compOn securing 7 1 = true) ∧
    (coreRuns securing 3 = true ∧ (coreOf securing 3).halted = false) ∧
    (securing.sec.flash.any fun j => j.writing) = true := by decide +kernel

theorem witness_JtagInstructionsAnswer : base.dev.vio = true ∧ base.dev.held = false := by decide +kernel

/-- A switch that may become the manager and has counted itself live at its present tick. -/
def electing (lock : LockSt) : State :=
  let n : TimeNode := { TimeNode.reset with
    lock := lock, parent := some 0, exchanges := 64, live := [(9, (1, 0)), (0x8000, (1, 10 ^ 9))], manager := 9 }
  (base.onFlt fun f => { f with
    tn := n, candSince := some 0, tables := tableParts, window := some 0
    probes := [(17, 0)], mgr := [⟨1, .ring ⟨0, 0, 0⟩, 0xAB, 0, false⟩] }).onEp fun e => { e with tn := n }

theorem witness_TimeAndElectionMessagesAct :
    (let s := { electing .locked with cfg := { (default : Cfg) with eligible := true } }
     Running s ∧ hears s .zs 0 0 = true ∧ hears s .zs 17 s.dev.nodeId = true ∧ hears s .ze 1 0 = true ∧
     nodeLinkUp s .ze 1 = true ∧ nodeLinkUp s .zs 17 = true ∧ (tnOf s .zs).nbrs.get? 17 = none ∧ (tnOf s .ze).nbrs.get? 1 = none ∧
     eligible s = true ∧
     ((s.flt.tn.live.get? 0x8000).any fun e => due (s.at_ late).now e.2 (us 10)) = true ∧
     ((s.flt.tn.live.get? 9).any fun e => !isLive (s.at_ late).now e) = true ∧ s.flt.tn.manager = 9 ∧ s.flt.role = false ∧
     ((refreshCand (s.at_ (10 ^ 9))).flt.candSince.any fun c => due (s.at_ (10 ^ 9)).now c (us 300)) = true ∧
     s.flt.tn.lock ≠ .unlocked ∧ (0x8010 : Node) ≠ s.dev.nodeId) ∧
    (let s := electing .locked
     let s := (s.onLnk fun l => { l with ports := [] }).onEp fun e => { e with ep0 := false }
     (tnOf s .zs).parent = some 0 ∧ nodeLinkUp s .zs 0 = false ∧ (tnOf s .ze).parent = some 0 ∧ nodeLinkUp s .ze 0 = false) := by
  decide +kernel

theorem witness_TimeAndElectionMessagesAct_lock :
    lockReady (electing .unlocked) .ze = true ∧ lockReady (electing .unlocked) .zs = true := by decide +kernel

theorem witness_FaultMessagesAct :
    (let s := { ((electing .unlocked).onFlt fun f => { f with role := true }) with
        cfg := { (default : Cfg) with switches := 1 } }
     Running s ∧ hears s .zs 63 0 = false ∧ hears s .zs 17 0 = true ∧ hears s .ze 0 5 = true ∧
     seenKey s .zs (reportKey default) = false ∧ seenKey s .ze (reportKey default) = false ∧
     s.flt.probes.has 17 = true ∧ ((s.flt.probes.get? 17).any fun x => due (s.at_ late).now x (us 100)) = true ∧
     (s.flt.window.any fun w => due (s.at_ late).now w (ms 1)) = true ∧ s.flt.role = true ∧ quorum (s.at_ late) = true ∧
     s.ep.tn.term ≤ (default : Verdict).term ∧
     seenKey (adoptTerm s .ze (default : Verdict).term 0) .ze (verdictKey default) = false ∧
     (let u := traceTimefault s 0 0x10 false 0 0
      u.flt.tn.term ≤ (default : Verdict).term ∧
        seenKey (adoptTerm u .zs (default : Verdict).term 0) .zs (verdictKey default) = false) ∧
     ((s.flt.mgr.find? fun m => m.id == 1 && !m.decided).any fun m => due (s.at_ late).now m.began (ms 10)) = true) := by
  decide +kernel

/-- A drain whose second instant is near at the switch, and at the ZE-208 where `both`. -/
def drainingAt (both : Bool) : State :=
  ((electing .locked).onFlt fun f => { f with drains := [⟨5, 0, default⟩] }).onEp fun e =>
    { e with tn := { e.tn with applied := if both then [{ (default : Verdict) with kind := 3, subject := 5 }] else [] } }

theorem witness_FaultMessagesAct_drain :
    ([false, true].all fun both =>
      let s := drainingAt both
      decide (Running s) && (s.flt.drains.find? fun d => decide (d.subject = 5 ∧ d.second ≤ (s.reachTick late).now)).any fun d =>
        let u := endDrain (s.reachTick late) d
        drainDueZe (if u.ep.tn.lock = .unlocked then u else u.epAt late) 5 == both) = true := by decide +kernel

/-- The governor with a demand window and the limits of a fixed setpoint running since tick 0. -/
def powered : State := base.onPwr fun p => { p with
  capSince := some 0, limitsSince := some 0, fixed := true, vrSilent := false, ramping := false }

theorem witness_PowerCommandsAnswer :
    (let s := base.onPwr fun p => { p with openS := some default }
     Running s ∧ s.pwr.openS.isSome = true) ∧
    (Running base ∧ base.pwr.openS = none ∧ (lowSensors (base.at_ late) [] 1).length < 4) ∧
    (let s := base.onPwr fun p => { p with windows := [List.replicate 64 1000] }
     s.pwr.openS = none ∧ 4 ≤ (lowSensors (s.at_ late) [] 1).length) ∧
    (let s := base.onPwr fun p => { p with standby := true, ramping := true }
     governs s = false ∧ s.pwr.ramping = true) ∧
    ((powered.pwr.capSince.any fun t => due (powered.at_ late).now t (us 100)) = true ∧ governs powered = true) ∧
    (governs base = true ∧ base.pwr.ramping = false ∧ base.pwr.capSince = none ∧ base.pwr.fixedLeft = false) ∧
    ((powered.pwr.limitsSince.any fun t => due (powered.at_ late).now t (ms 1)) = true ∧ powered.pwr.fixed = true ∧
      powered.pwr.fixedLeft = false) ∧
    (4 ≤ base.dev.step ∧ (⟨some 1, none, none⟩ : RegReading).current.isSome = true) ∧
    (base.pwr.vrSilent = false ∧ due (base.at_ late).now base.pwr.vrLast (ms 10) = true) ∧
    base.pwr.pfw = false ∧
    (let s := base.onPwr fun p => { p with pfw := true }
     s.pwr.pfw = true ∧ governs ((s.at_ late).onPwr fun p => { p with pfw := false }) = true) ∧
    ([base.pwr.logicLimit].any fun x => decide (base.pwr.logicLimit ≤ x)) = true ∧
    base.pwr.tripped = false ∧ ([115].any fun x => decide (115 ≤ x)) = true := by decide +kernel

theorem witness_ResetPinsAnswer :
    base.dev.vio = true ∧ base.dev.railsOut.contains .vsdT = false ∧ longPulse 1001 = true ∧
    (let s := base.onDev fun d => { d with railsOut := [.vcore] }
     s.dev.vio = true ∧ Rail.vcore ≠ .vio ∧ s.dev.railsOut.contains .vcore = true) ∧
    (base.onDev fun d => { d with vio := false }).dev.vio = false ∧
    (base.onDev fun d => { d with refOut := true }).dev.refOut = true := by decide +kernel

theorem witness_DawnStepsAnswer :
    ((List.range 8).all fun k => let s := base.onDev fun d => { d with step := k + 1 }
      decide (Running s) && s.dev.step == k + 1) = true ∧
    (base.onDev fun d => { d with step := 2, sfdp := false }).dev.sfdp = false ∧ base.dev.sfdp = true ∧
    base.sec.owned = true ∧
    (let s := base.onDev fun d => { d with step := 6 }
     ((usedPorts s).all fun p => decide ((linkOf s p).step = 0)) = true) ∧
    base.flt.tn.lock ≠ .unlocked := by decide +kernel

/-- A descriptor of an opcode with fields: byte offset and value. -/
def desc (op : Nat) (fields : List (Nat × Nat)) : Desc :=
  BitVec.ofNat 512 (op + (fields.map fun x => x.2 * 2 ^ (8 * x.1)).sum)

/-- A switch with something of every kind: tenants 1 and 3; a plain, a page-backed and a cast region; a window and a
page; counters, a multicast group, a Runner, programs, a group, a copy of a lost partner, debug sessions. -/
def full : State :=
  let t : Tenant := { (default : Tenant) with
    state := .active, poolQuota := 1000, regionQuota := 100, rangeQuota := 100, counterQuota := 100, mcastQuota := 10
    reduceQuota := 10, cruGroups := 64, cruScratch := 64, cruAccum := 1024 }
  let p (st : ProgState) : Program := { (default : Program) with state := st, tenant := 1, groupsN := 1, handlesN := 1 }
  let s := base.onRgn fun g => { g with
    tenants := [(1, t), (3, t)]
    regions :=
      [(5, { (default : Region) with length := 1, tenant := 1, rights := 0x1F, attested := true }),
       (6, { (default : Region) with length := 2, tenant := 1, rights := 0x1F, place := 0x23 }),
       (7, { (default : Region) with length := 1, tenant := 1, modes := 0x08, base := 64 }),
       (8, { (default : Region) with length := 1, tenant := 1, base := 128 })]
    ranges := [⟨.window, 0, 2 ^ 33, 4096, 5, 1, 0, 0⟩, ⟨.page, 0, 0, 65536, 6, 1, 100, 0⟩]
    pendingPages := [(6, 1)] }
  let s := s.onCoh fun c => { c with counters := [(9, ⟨1, 0⟩)] }
  let s := s.onSwc fun c => { c with
    mcast := [(2, ⟨1, 1, false⟩)], runners := [(2, { (default : Runner) with ingress := 17, egress := 0, slots := 1 })] }
  let s := s.onCru fun c => { c with progs := [(16, p .loaded), (17, p .running)] }
  let s := s.onCol fun c => { c with groups := [(3, { (default : RGroup) with tenant := 1, state := .broken })] }
  let s := s.onPool fun q => { q with copies := [⟨0x8010, 4, 4096, 1, 1, 1, true⟩] }
  s.onSec fun c => { c with sessions := [(1, (2, some 0)), (2, (1, some 0))] }

/-- A descriptor for the row of every ring command that its checks let pass in `full`. -/
def ringDescs : List Desc :=
  [desc 0x20 [(18, 1), (24, 1), (30, 4)], desc 0x21 [(16, 5)], desc 0x22 [(16, 5), (28, 1)], desc 0x23 [(16, 5), (20, 2 ^ 30)],
   desc 0x24 [(16, 5)], desc 0x25 [(16, 5)], desc 0x26 [(16, 6), (48, 65536)], desc 0x27 [(16, 6)],
   desc 0x28 [(16, 6), (48, 65536)], desc 0x29 [(16, 2 ^ 32 + 1), (24, 4096), (32, 5), (34, 1)], desc 0x2A [(16, 2 ^ 33 + 1)],
   desc 0x2B [(16, 2)], desc 0x2C [(16, 3)], desc 0x2D [(16, 1)], desc 0x2E [(16, 1)]] ++
  [desc 0x31 [(16, 1), (20, 1)], desc 0x32 [(16, 1), (18, 9), (20, 1)], desc 0x33 [(16, 1), (18, 9), (20, 1), (24, 7)],
   desc 0x34 [(16, 1), (18, 9), (20, 1)], desc 0x30 [(16, 7), (18, 8), (32, 1)], desc 0x50 [(16, 1), (24, 1), (26, 1)],
   desc 0x51 [(24, 2), (26, 1)], desc 0x52 [(16, 1), (18, 17), (20, 2), (24, 1)], desc 0x53 [(16, 2), (24, 1)],
   desc 0x54 [(20, 0x80)], desc 0x55 [(16, 1)], desc 0x56 []] ++
  [desc 0x60 [(16, 0), (18, 1), (20, 72)], desc 0x61 [(16, 16)], desc 0x62 [(16, 16), (24, 5)], desc 0x63 [(16, 17)],
   desc 0x64 [(16, 17)], desc 0x70 [(16, 4), (18, 1), (20, 1), (24, 1), (28, 6), (29, 6), (33, 1), (36, 1)],
   desc 0x71 [(16, 3), (18, 1)], desc 0x72 [(16, 3), (18, 1)], desc 0x73 [(16, 3), (18, 1)],
   desc 0x80 [(16, 0x8010), (18, 1), (24, 4096)], desc 0x81 [(16, 0x8010), (18, 1), (24, 4096)], desc 0x88 [(16, 63)],
   desc 0x89 [(16, 17)], desc 0x01 [], desc 0x02 [(16, 5), (18, 0x8000)], desc 0x03 [(16, 1), (18, 1)]] ++
  [desc 0x98 [(24, 4096), (30, 1)], desc 0x99 [], desc 0x9A [(16, 1)], desc 0x9B [], desc 0x9C [(16, 1), (50, 32)],
   desc 0x9D [(16, 0x8010)], desc 0x9E [], desc 0xA8 [(16, 1)], desc 0xAD [(16, 1), (17, 0x80)], desc 0xAE [(16, 3)],
   desc 0xAF [], desc 0xB9 [(16, 1), (18, 550), (20, 850)], desc 0xBA [], desc 0xBB [(16, 40)]] ++
  [desc 0xC0 [(48, 1), (52, 2 ^ 20)], desc 0xC1 [(16, 5)], desc 0xC2 [(20, 1)], desc 0xC3 [(16, 2)], desc 0xC4 [(16, 1)],
   desc 0xC5 [(16, 2), (17, 3), (20, 8)], desc 0xC6 [(16, 1), (17, 2), (20, 8)], desc 0xC7 [(16, 1), (17, 1)], desc 0xC8 [],
   desc 0xD0 [(20, 4096)], desc 0xD1 [(20, 4096)]]

/-- The state with the command in flight on the operator's ring 1 of host 0. -/
def flying (s : State) (cred : Tag) (d : Desc) : State :=
  s.onHp 0 fun h => { h with inflight := [⟨1, 0, d, 0, false, cred, false⟩] }

/-- A row's command has its turn and passes its checks. -/
def passes (s : State) (x : CmdSpec) (d : Desc) : Bool :=
  let s := flying s opTag d
  let f : InFlight := ⟨1, 0, d, 0, false, opTag, false⟩
  let u := markBegun s ⟨0, 1, 0⟩ f
  decide (RingTurn s x.op ⟨0, 1, 0⟩ d f) && (x.dest d u).isNone && (x.chk (.ring ⟨0, 1, 0⟩) d u).isNone && !Desc.staged d

/-- Rows and descriptors, all but the last: IMAGE_PUSH is for a switch that no owner's image has been accepted in. -/
def ringTests : List (CmdSpec × Desc) := (List.zip (ringRows.map Prod.fst) ringDescs).dropLast

theorem witness_RingCommandsRun_a : ((ringTests.take 15).all fun x => passes full x.1 x.2) = true := by decide +kernel
theorem witness_RingCommandsRun_b : (((ringTests.drop 15).take 15).all fun x => passes full x.1 x.2) = true := by decide +kernel
theorem witness_RingCommandsRun_c : (((ringTests.drop 30).take 20).all fun x => passes full x.1 x.2) = true := by decide +kernel
theorem witness_RingCommandsRun_d : ((ringTests.drop 50).all fun x => passes full x.1 x.2) = true := by decide +kernel

theorem witness_RingCommandsRun_imagePush :
    passes ((full.onSec fun c => { c with owned := false }).onDev fun d => { d with step := 0xD }) specImagePush (desc 0xD1 [(20, 4096)]) = true ∧
    ringTests.length + 1 = ringRows.length := by decide +kernel


theorem witness_ManagerCommandsAndCapsRun :
    ([desc 0xA9 [(16, 1)], desc 0xAA [(16, 5), (18, 1)], desc 0xAB [(16, 4), (18, 7)], desc 0xAC [(16, 5), (18, 6)],
        desc 0xB8 [(16, 600), (18, 1)]].all fun d =>
      let s := flying base opTag d
      let f : InFlight := ⟨1, 0, d, 0, false, opTag, false⟩
      decide (RingTurn s (Desc.opcode d) ⟨0, 1, 0⟩ d f)
        && (firstFail (mgrFormat (markBegun s ⟨0, 1, 0⟩ f) (.ring ⟨0, 1, 0⟩) d)).isNone
        && (Desc.opcode d != 0xB8 || forManager d)) = true ∧
    (let d := desc 0xB8 [(16, 600)]
     passes base specPwrCap d && !forManager d && (targetAt 48 d base).isNone) = true := by decide +kernel

theorem witness_StepRunsFrontCommand :
    { base with pending := [.bypass, .idcode] }.pending = .bypass :: [.idcode] := rfl

theorem witness_EmptyQueueIdles :
    (State.reset.pending = [] ∧ Running State.reset) ∧
    (let s := State.reset.onDev fun d => { d with vio := false }
     s.pending = [] ∧ s.dev.vio = false) ∧
    (let s := State.reset.onDev fun d => { d with resetLow := true }
     s.pending = [] ∧ s.dev.held = true) ∧
    slewOf State.reset.flt.tn = 0 ∧ (∀ t ∈ State.reset.heldTicks, State.reset.now < t) := by decide +kernel

theorem witness_QueueUntouched : ∃ t, exec .bypass base = .next t := ⟨_, rfl⟩

theorem witness_QueueUntouched_step : ∃ t, step { base with pending := [.bypass] } = .next t := ⟨_, rfl⟩

theorem witness_MemoryStaysCanonical :
    let s := { (base.onPool fun p => { p with mem := [(7, 1), (9, 2)] }) with pending := [.bypass] }
    MemOk s ∧ ∃ t, step s = .next t :=
  ⟨⟨by decide +kernel, by decide +kernel, by decide +kernel⟩, _, rfl⟩

/-- Ring 61 of host 0 holds a command. -/
def ringing : State := base.onHp 0 fun h => { h with
  host := .live, rings := [(61, { (default : Ring) with state := .enabled, binding := opTag, prod := 1 })] }

theorem witness_CommandIsTaken :
    (Running base ∧ hpPresent base 0 = true ∧ ringServed base 0 = true ∧ nextRing base 0 = none) ∧
    (Running ringing ∧ hpPresent ringing 0 = true ∧ ringServed ringing 0 = true ∧ nextRing ringing 0 = some 61) ∧
    ((lineHome ringing (ringIndex 0) (cmdRingOff 61 0)).any fun h =>
      (prepare ringing [h] .read none false).2.isEmpty) = true := by decide +kernel

theorem witness_UnalignedAccessesAbort :
    PortOpen base 0 ∧ PortOpen base 1 ∧
    ¬ ((2 = 4 ∨ 2 = 8) ∧ 2 ∣ (0 : BitVec 28).toNat) ∧ ¬ ((8 = 4 ∨ 8 = 8) ∧ 8 ∣ (0xFFFFFFC : BitVec 28).toNat) ∧
    ((4 = 4 ∨ 4 = 8) ∧ 4 ∣ (0xFFFFFFC : BitVec 28).toNat) ∧ ¬ 8 ∣ (0xFFFFFFC : BitVec 28).toNat ∧
    ¬ 4 ∣ (0xFFFFFFF : BitVec 28).toNat := by decide +kernel

/-- A switch in which no owner's image has been accepted. -/
def unowned : State := full.onSec fun c => { c with owned := false }

/-- A command may begin. -/
def begins (s : State) (op : Nat) (cred : Tag) (d : Desc) : Bool :=
  mayBegin (flying s cred d) op ⟨0, 1, 0⟩ d == some ⟨1, 0, d, 0, false, cred, false⟩

theorem witness_UnverifiedRefusesOtherCommands :
    Running unowned ∧ unowned.sec.owned = false ∧
    (ringTests.all fun x => begins unowned x.1.op opTag x.2 && (x.1.dest x.2 (flying unowned opTag x.2)).isNone) = true ∧
    ([0xA9, 0xAA, 0xAB, 0xAC].all fun op => begins unowned op opTag (desc op [])) = true := by decide +kernel

theorem witness_UnverifiedRefusesOtherCommands_rows :
    (ringTests.any fun x => !openOps.contains x.1.op && x.1.op != 0xC1 && x.1.op != 0xC2) = true ∧
    (ringTests.any fun x => openOps.contains x.1.op) = true ∧ (ringTests.any fun x => x.1.op == 0xC1) = true ∧
    (ringTests.any fun x => x.1.op == 0xC2) = true := by decide +kernel

theorem witness_TenantsMayNotRunOperatorCommands :
    (ringTests.all fun x => !operatorOps.contains x.1.op ||
      let s := flying full 1 x.2
      let f : InFlight := ⟨1, 0, x.2, 0, false, 1, false⟩
      let u := markBegun s ⟨0, 1, 0⟩ f
      decide (RingTurn s x.1.op ⟨0, 1, 0⟩ x.2 f) && (x.1.dest x.2 u).isNone && !isOperator u (.ring ⟨0, 1, 0⟩)) = true := by
  decide +kernel

theorem witness_HeldSwitchIgnoresCommands :
    (base.onDev fun d => { d with vio := false }).dev.vio = false ∧
    (base.onDev fun d => { d with refOut := true }).dev.held = true ∧
    pinOrJtag (.hostLost 0) = false ∧ ofEndPoint (.hostLost 0) = false ∧ timeOfEndPoint (.hostLost 0) = false := by
  decide +kernel

theorem witness_EndPointLeavesSwitchAlone :
    ofEndPoint (.winRd 0 5) = true ∧ ∃ t, exec (.winRd 0 5) base = .next t := ⟨rfl, _, rfl⟩

theorem witness_SumsDoNotDependOnOrder :
    [Machine.Num.fin false 1 0, .fin true (2 ^ 128 - 1) (-160)].Perm [.fin true (2 ^ 128 - 1) (-160), .fin false 1 0] ∧
    [Machine.Num.fin false 1 0].length ≤ 2 ^ 31 ∧ ∀ s m e, Machine.Num.fin s m e ∈ [Machine.Num.fin false (2 ^ 128 - 1) 0] → m < 2 ^ 128 := by
  refine ⟨List.Perm.swap .., by decide, ?_⟩
  simp +contextual

theorem witness_NanDeliveriesAreCanonical :
    (6, 0x7FC0) ∈ [(6, 0x7FC0), (7, 0x7E00), (8, 0x7FC00000)] ∧ Machine.Num.nan ∈ [Machine.Num.zero, .nan] ∧ Machine.Num.nan ∉ [Machine.Num.zero] := by
  decide +kernel

theorem witness_TimeStampsAreExtended :
    (2 ^ 32 + 7 : Int) % 2 ^ 32 = (7 : BitVec 32).toNat ∧ (10 : Nat) ≤ ms 858 + 10 ∧ ms 858 + 10 - 10 ≤ ms 858 := by
  decide +kernel

/-- A window of node 3 that has taken the test request as busy, as done, or has moved past it. -/
def again (h : BitVec 24) (st : SeqSt) : State :=
  { base with xp := { (default : Xport) with dst := [(3, { (default : DstSrc) with h := some h, st := [(9, st)] })] } }

/-- What a duplicate of a request on `s` meets. -/
def duplicate (s : State) (p : Packet) : Bool :=
  let u := consume s p
  decide (Running s) && u.flt.tn.lock != .unlocked && p.dst == u.dev.nodeId && (admitHead u.xp.inc u.now p).isNone

theorem witness_DuplicateRequestsAreNotRepeated :
    ([request opWRITE 1 [7], request opREAD 64 [], request opATOMIC 8 (List.replicate 8 1), request opSTORE 1 [7]].all fun p =>
      duplicate (again 9 .busy) p && duplicate (again 9 .done) p && duplicate (again (9 + 4096) .done) p) = true ∧
    seqNewer (9 : BitVec 24) 9 = false ∧ seqSub (9 : BitVec 24) 9 ≤ 4095 ∧
    seqNewer (9 : BitVec 24) (9 + 4096) = false ∧ 4095 < seqSub ((9 : BitVec 24) + 4096) 9 ∧
    ((again 9 .busy).xp.dstOf 3).st.get? 9 = some .busy ∧ ((again 9 .done).xp.dstOf 3).st.get? 9 = some .done ∧
    ((again 9 .busy).xp.dstOf 3).h = some 9 := by decide +kernel

theorem witness_DuplicateRequestsAreNotRepeated_discarded :
    ({ request opATOMIC 8 (List.replicate 8 1) with crc := 0 }).crcOk = false ∧
    (request opATOMIC 8 []).dst ≠ (5 : Node) ∧
    (us 130 : Int) < (2 * 10 ^ 9 : Nat) - extendTime (2 * 10 ^ 9) (BitVec.ofNat 32 (10 ^ 9)) := by decide +kernel

theorem witness_RefusedRequestsChangeNothing :
    ([request opREAD 64 [], request opATOMIC 8 (List.replicate 8 1), request opWRITE 1 [7], request opSTORE 1 [7]].all fun p =>
      let a : Arrival := ⟨.zs, 0, p⟩
      let d := goOf (admission base p)
      decide (Admitted base a d) &&
        (match checkAcc (admitted base a d) (fabricAcc (admitted base a d) p .read p.lenBytes),
            checkAcc (admitted base a d) (fabricAcc (admitted base a d) p .atomic (atomicSize p)), writeCheck (admitted base a d) p with
          | .fail _, .fail _, .fail _ => true
          | _, _, _ => false)) = true := by decide +kernel

theorem witness_StoredLinesReadBack :
    let s := base.onPool fun p => { p with mem := [(7, 1)] }
    s.pool.mem.wf = true ∧ (List.replicate 64 (7 : Byte)).length = 64 ∧ lineUp s 5 = true := by decide +kernel

theorem witness_SpreadGranulesStayApart :
    let r : Region := { (default : Region) with place := 1, stacks_ := 0xFFFF }
    (default : Region).placement = 0 ∧ r.placement = 1 ∧ gStack r.base.toNat ∈ stackList r.stacks_ ∧
    gSlot r.base.toNat + (2 ^ 24 - 1) / (stackList r.stacks_).length < 2 ^ 20 ∧ (0 : Nat) ≠ 2 ^ 24 - 1 := by decide +kernel

theorem witness_IdentityAndTimeRegisters : PortOpen base 0 ∧ PortOpen base 1 := by decide +kernel

theorem witness_PausedEngineIssuesNothing :
    (let s := pausedProg .running
     (prog? s 255).isSome = true ∧ paused s 15 = true) ∧
    ((prog? (pausedProg .ending) 255).any fun pr => pr.state != .running) = true ∧
    ofGroup ⟨255, 0⟩ (.rng ⟨255, 0⟩) = true := by decide +kernel

theorem witness_RegisterInstructionsFrame :
    let s := runs (word 0x01 31 1 2 0 0 0)
    ((prog? s 0).any fun pr => (pr.code[(cruGroup pr grp.grp).pc]?).isSome) = true ∧
    movesRegisters grp (.add grp) = true ∧ ∃ t, exec (.add grp) s = .next t := ⟨by decide +kernel, rfl, _, rfl⟩

/-! ### Small checks -/

/-- The state that a command leaves. -/
def after (c : Instr) (s : State) : State :=
  match exec c s with
  | .next t => t
  | _ => s

/-- The check value of CRC-32C: the digits 1 to 9 (RFC 3720). -/
theorem test_crc32c : crc32c [0x31, 0x32, 0x33, 0x34, 0x35, 0x36, 0x37, 0x38, 0x39] = 0xE3069283 := by decide +kernel

/-- SHAKE256 of no bytes (FIPS 202). -/
theorem test_shake256 :
    (shake256 []).take 8 = [0x46, 0xb9, 0xdd, 0x2b, 0x0b, 0xa8, 0x8d, 0x13] := by decide +kernel

/-- The test program with two registers of thread 31 set. -/
def withRegs (w : BitVec 64) (x y : BitVec 64) : State := (runs w).onCru fun c => { c with
  progs := c.progs.map fun e => (e.1, { e.2 with groups := e.2.groups.map fun g =>
    (g.1, setT (setT g.2 31 1 x) 31 2 y) }) }

/-- Register 7 of thread 31 after an instruction on two values. -/
def result (mk : GroupId → Instr) (op f imm : Nat) (x y : BitVec 64) : BitVec 64 :=
  ((prog? (after (mk grp) (withRegs (word op 7 1 2 0 f imm) x y)) 0).map fun pr => getT (cruGroup pr 1) 31 7).getD 0

/-- Sums and differences wrap; shifts take 6 bits; IMM is extended by its sign (R361). -/
theorem test_scalar :
    result .add 0x01 0 0 (2 ^ 64 - 1) 2 = 1 ∧ result .add 0x01 1 0xFFFFFFFF 5 0 = 4 ∧ result .sub 0x02 0 0 1 2 = 2 ^ 64 - 1 ∧
    result .mul 0x03 0 0 (2 ^ 63) 3 = 2 ^ 63 ∧ result .shl 0x07 0 0 1 65 = 2 ∧ result .shr 0x08 0 0 (2 ^ 63) 63 = 1 ∧
    result .sar 0x09 0 0 (2 ^ 63) 63 = 2 ^ 64 - 1 ∧ result .min 0x0A 0 0 (2 ^ 64 - 1) 1 = 2 ^ 64 - 1 ∧
    result .max 0x0B 0 0 (2 ^ 64 - 1) 1 = 1 := by decide +kernel

theorem test_logic_and_immediates :
    result .and 0x04 0 0 12 10 = 8 ∧ result .or 0x05 0 0 12 10 = 14 ∧ result .xor 0x06 0 0 12 10 = 6 ∧
    result .li 0x0C 0 0x80000000 0 0 = 0xFFFFFFFF80000000 ∧ result .cmp 0x0E 0 0 5 5 = 1 := by decide +kernel

/-- A store to scratch is loaded back in little-endian order (R362). -/
theorem test_scratch :
    let s := after (.sts grp) (withRegs (word 0x21 0 0 1 0 0 8) 0x0102030405060708 0)
    s.pool.scratch.map Prod.snd = [8, 7, 6, 5, 4, 3, 2, 1] := by decide +kernel

/-- A command with nothing to do completes: it leaves the commands in flight (R519). -/
theorem test_nop :
    ((after (.nop ⟨0, 1, 0⟩ (desc 0x01 [])) (flying base opTag (desc 0x01 []))).hp 0).inflight = [] := by decide +kernel

/-- A tenant's command that names another tenant changes nothing (R106). -/
theorem test_region_create_denied :
    (after (.regionCreate ⟨0, 1, 0⟩ (desc 0x20 [(18, 3), (24, 1), (30, 4)]) default)
      (flying full 1 (desc 0x20 [(18, 3), (24, 1), (30, 4)]))).rgn.regions = full.rgn.regions := by decide +kernel

theorem test_region_create :
    ((after (.regionCreate ⟨0, 1, 0⟩ (desc 0x20 [(18, 1), (24, 1), (30, 4)]) default)
      (flying full 1 (desc 0x20 [(18, 1), (24, 1), (30, 4)]))).region? 0).map Region.tenant = some 1 := by decide +kernel

theorem test_counter_set :
    ((after (.counterSet ⟨0, 1, 0⟩ (desc 0x33 [(16, 1), (18, 9), (20, 1), (24, 7)]))
      (flying full opTag (desc 0x33 [(16, 1), (18, 9), (20, 1), (24, 7)]))).coh.counters.get? 9).map Counter.value = some 7 := by
  decide +kernel

/-- A request on region 5 of tenant 1, whose key is 0. -/
def onRegion5 (p : Packet) : Arrival := ⟨.zs, 0, Packet.sealed { p with region := 5, tenant := 1, offset := 8 }⟩

/-- A write lands in the pool; an atomic addition adds to the little-endian word there (03_memory_model.md). -/
theorem test_write : (after (.write (onRegion5 (request opWRITE 1 [7]))) full).pool.mem = [(8, 7)] := by decide +kernel

theorem test_atomic_add :
    (after (.atomic (onRegion5 (request opATOMIC 8 [1, 0, 0, 0, 0, 0, 0, 0])) [])
      (full.onPool fun p => { p with mem := [(8, 255)] })).pool.mem = [(9, 1)] := by decide +kernel

/-- A request of another tenant's tag is refused (R82). -/
theorem test_write_denied :
    (after (.write ⟨.zs, 0, Packet.sealed { request opWRITE 1 [7] with region := 5, tenant := 3 }⟩) full).pool.mem = [] := by
  decide +kernel

theorem test_detach : ((after (.detach 1) base).hp 1).host = .detached := by decide +kernel

theorem test_linkFail : portUp (after (.linkFail 17 failSIGNAL) base) 17 = false := by decide +kernel

/-- A lost stack is out of service (R430). -/
theorem test_stackLost : stackUp (after (.stackLost 15) base) 15 = false := by decide +kernel

theorem test_winCounterWrite : (after (.winCounterWrite 4095 9) base).ep.counters.get? 4095 = some 9 := by decide +kernel

/-- A reset pulse clears the switch and keeps the ZE-208 (R773). -/
theorem test_sysReset :
    (after (.sysResetNAssert 1000 false true) base).now = 0 ∧ (after (.sysResetNAssert 1000 false true) base).ep.nodeId = 5 ∧
    (after (.sysResetNAssert 99 false true) base).now = 10 ^ 9 := by decide +kernel

theorem test_idcode : (after .idcode base).out.head? = some (.tdo idcodeValue) := by decide +kernel

/-- A binary32 one, and halves of its least value: ties go to the even code (06_crucible_engine.md). -/
theorem test_formats :
    decodeElem 8 0x3F800000 = .fin false (2 ^ 23) (-23) ∧ encode 8 (.fin false 1 (-150)) .rne = 0 ∧
    encode 8 (.fin false 3 (-150)) .rne = 2 := by decide +kernel

end Sys2Proof.Tests
end

section
/-! PROOFS. The statements of the architecture chapter: identity and alignment of BAR0, the idle tick, ring commands, the
life cycle of the ZE-208, and the ends of regions and publications. -/

namespace Sys2Proof.Machine

/-! ### Accesses to BAR0 (R51) -/

theorem exec_registerWrite (p : Fin 2) (o : BitVec 28) (size8 : Bool) (v : BitVec 64) (s : State) :
    exec (.registerWrite p o size8 v) s = execRegisterWrite p o size8 v s := rfl

theorem exec_bar0BadAccess (p : Fin 2) (o : BitVec 28) (size : Nat) (w : Bool) (s : State) :
    exec (.bar0BadAccess p o size w) s = execBar0BadAccess p o size w s := rfl

/-- An access is well formed when it has 4 or 8 bytes and its size divides its offset. -/
theorem accessOk_iff (off size : Nat) : accessOk off size = true ↔ (size = 4 ∨ size = 8) ∧ size ∣ off := by
  rw [accessOk, decide_eq_true_iff, Nat.dvd_iff_mod_eq_zero]

theorem accessOk_eq_false_iff (off size : Nat) :
    accessOk off size = false ↔ ¬ ((size = 4 ∨ size = 8) ∧ size ∣ off) := by
  rw [← accessOk_iff, Bool.not_eq_true]

/-- A register write that is not naturally aligned ends with Completer Abort, on an open port. -/
theorem registerWrite_unaligned {s : State} {p : Fin 2} {o : BitVec 28} {size8 : Bool} (v : BitVec 64) (h : PortOpen s p)
    (ho : ¬ (if size8 then 8 else 4) ∣ o.toNat) :
    exec (.registerWrite p o size8 v) s = .next (s.emit (.completerAbort p o)) := by
  have hbad : accessOk o.toNat (if size8 then 8 else 4) = false :=
    (accessOk_eq_false_iff _ _).2 fun hok => ho hok.2
  rw [exec_registerWrite, execRegisterWrite, up_run h.1, port_run h]
  simp only [hbad, Bool.not_false, if_true]

theorem bar0BadAccess_run {s : State} {p : Fin 2} (o : BitVec 28) (size : Nat) (w : Bool) (h : PortOpen s p) :
    exec (.bar0BadAccess p o size w) s =
      .next (if accessOk o.toNat size then s else s.emit (.completerAbort p o)) := by
  rw [exec_bar0BadAccess, execBar0BadAccess, up_run h.1, port_run h]

/-- Settles O45: each access runs through the open port, and whether it is answered with Completer Abort is whether it
is well formed. -/
theorem unalignedAccessesAbort : Obligations.UnalignedAccessesAbort := by
  intro s p o h
  refine ⟨fun size w hbad => ?_, fun size w hok => ?_, fun v ho => ?_, fun v ho => ?_⟩
  · rw [bar0BadAccess_run o size w h, (accessOk_eq_false_iff _ _).2 hbad, if_neg Bool.false_ne_true]
  · rw [bar0BadAccess_run o size w h, if_pos ((accessOk_iff _ _).2 hok)]
  · exact registerWrite_unaligned v h ho
  · exact registerWrite_unaligned v h ho

/-! ### DEV_IDENT (R53) -/

/-- DEV_IDENT in any state and through either port. -/
theorem regRead_devIdent (s : State) (p : Fin 2) : regRead s p 0 = 0x6476B000 := by
  have hfields : pack [(16, 16, 0x6476), (8, 8, 0xB0)] = 0x6476B000 := by decide
  rw [regRead, if_pos (by decide)]
  exact hfields

/-- No register of the DEV page can be written. -/
theorem writeReg_dev (s : State) (off : Nat) (v : BitVec 64) (lo hi : Bool) (h : off < 0x10000) :
    writeReg s off v lo hi = s := by
  unfold writeReg
  rw [if_neg (by omega), if_neg (by omega), if_neg (by omega), if_neg (by omega)]

/-- A well-formed register write of the DEV page is ignored. -/
theorem registerWrite_dev {s : State} {p : Fin 2} {o : BitVec 28} {size8 : Bool} (v : BitVec 64) (h : PortOpen s p)
    (hok : accessOk o.toNat (if size8 then 8 else 4) = true) (ho : o.toNat < 0x10000) :
    exec (.registerWrite p o size8 v) s = .next s := by
  rw [exec_registerWrite, execRegisterWrite, up_run h.1, port_run h]
  simp only [hok, Bool.not_true, Bool.false_eq_true, if_false]
  rw [if_neg (by omega), writeReg_dev _ _ _ _ _ (by omega)]

/-- Settles O57: the register reads as one constant, and its page ignores writes. -/
theorem identityRegister : Obligations.IdentityRegister := by
  refine ⟨fun s p => ?_, fun s p v size8 h => ?_⟩
  · rw [regRead_devIdent]; decide
  · exact registerWrite_dev v h (by cases size8 <;> rfl) (by decide)

/-! ### Idle ticks (R37, R603; log entry 1) -/

theorem step_idle {s : State} (h : s.pending = []) : step s = .next (idle s) := by
  rw [step, h]

/-- The lowest of a bound and a list of ticks none of which is below the bound is the bound. -/
theorem foldl_min_of_le {t : Time} : ∀ {l : List Time}, (∀ x ∈ l, t ≤ x) → l.foldl min t = t
  | [], _ => rfl
  | x :: l, h => by
    rw [List.foldl_cons, Nat.min_eq_left (h x List.mem_cons_self)]
    exact foldl_min_of_le fun y hy => h y (List.mem_cons_of_mem x hy)

/-- A slewed time base holds the same ticks. -/
theorem heldTicks_slewed (s : State) : (onTn s .zs slewed).heldTicks = s.heldTicks := rfl

/-- With nothing held before the reading it is moved to, the time base reaches that reading. -/
theorem reachTick_now_of_clear {s : State} {t : Time} (ht : s.now ≤ t) (h : ∀ x ∈ s.heldTicks, t ≤ x) :
    (s.reachTick t).now = t := by
  rw [State.reachTick_now, foldl_min_of_le h, Nat.max_eq_right ht]

/-- A tick with nothing to slew and nothing held adds one to the reading. -/
theorem countTick_now {s : State} (h : slewOf s.flt.tn = 0) (hs : ∀ x ∈ s.heldTicks, s.now < x) :
    (countTick s .zs).now = s.now + 1 := by
  have hd : (1 + slewOf (tnOf s .zs)).toNat = 1 := by rw [tnOf, h]; rfl
  rw [countTick, hd]
  refine reachTick_now_of_clear (Nat.le_succ s.now) ?_
  rw [heldTicks_slewed]
  exact hs

theorem on_of_running {s : State} (h : Running s) : s.dev.vio = true ∧ (!s.dev.held) = true := by
  simpa using h

theorem not_on_of_off {s : State} (h : s.dev.vio = false ∨ s.dev.held = true) :
    ¬ (s.dev.vio = true ∧ (!s.dev.held) = true) := by
  rintro ⟨hvio, hheld⟩
  rcases h with h | h
  · simp [h] at hvio
  · simp [h] at hheld

/-- The idle tick of a running switch. -/
theorem idle_run {s : State} (h : Running s) : idle s =
    let u := loadsGo (pump (drainsGo (verdictsGo (stagedGo (countTick s .zs)) .zs)))
    atEp (countTick (settle (carriedInGo u.hif.carriedIn.length u)) .ze) fun s => verdictsGo (epStagedGo s) .ze := by
  simp only [idle, if_pos (on_of_running h)]

/-- The idle tick while VIO is absent or the switch is held in reset: the ZE-208's alone. -/
theorem idle_off {s : State} (h : s.dev.vio = false ∨ s.dev.held = true) :
    idle s = atEp (countTick s .ze) fun s => verdictsGo (epStagedGo s) .ze := by
  simp only [idle, if_neg (not_on_of_off h)]

/-- Settles O38: an empty queue is the idle tick, whose two forms are those of a running switch and of one that is off. -/
theorem emptyQueueIdles : Obligations.EmptyQueueIdles := by
  refine ⟨fun s hq => ⟨fun hr => ?_, fun hoff => ?_⟩, fun s h hs => countTick_now h hs⟩
  · rw [step_idle hq, idle_run hr]
  · rw [step_idle hq, idle_off hoff]

/-! ### Ring commands (R37, R106, R517) -/

/-- The free choices that a ring command uses: those of REGION_CREATE, PAGE_OUT and PARTNER_ADOPT alone. -/
def pickOf (c : CmdSpec) (k : Pick) : Pick := if c.op = 0x20 ∨ c.op = 0x27 ∨ c.op = 0x80 then k else default

theorem pickOf_pickOf (c : CmdSpec) (k : Pick) : pickOf c (pickOf c k) = pickOf c k := by
  unfold pickOf; split <;> rfl

/-- Every ring command of the list is the row of its entry. -/
theorem exec_ringRow : ∀ x ∈ ringRows, ∀ (r : CmdRef) (d : Desc) (k : Pick) (s : State),
    exec (x.2 r d k) s = up s (runRow x.1 r d (pickOf x.1 k)) := by
  unfold ringRows
  simp only [List.forall_mem_append, List.forall_mem_cons, List.not_mem_nil, false_implies,
    implies_true, and_true]
  and_intros <;> exact fun _ _ _ _ => rfl

/-- Settles O35: each command is its row, and a row that has its turn and passes its checks has its effect. -/
theorem ringCommandsRun : Obligations.RingCommandsRun := by
  intro x hx s r d k f hturn _ _ hdest hchk htick
  change exec (x.2 r d (pickOf x.1 k)) s = .next (x.1.eff (.ring r) d (pickOf x.1 k) (markBegun s r f))
  rw [exec_ringRow x hx, pickOf_pickOf]
  exact runRow_eff hturn hdest hchk htick

end Sys2Proof.Machine
end

section
/-! PROOFS. The life cycle of the ZE-208, and the ends of regions, publications, scrubs and measurements. -/

namespace Sys2Proof.Machine

/-! ### The ZE-208 (R582 to R584, R595) -/

theorem exec_portEnable (on : EpOn) (o : BitVec 2) (regs : List (Nat × BitVec 64)) (s : State) :
    exec (.portEnable on o regs) s = execPortEnable on o regs s := rfl

theorem exec_epConfigure (node : Node) (inc : Byte) (locked : Bool) (s : State) :
    exec (.epConfigure node inc locked) s = execEpConfigure node inc locked s := rfl

theorem exec_d2dLinkDown (s : State) : exec .d2dLinkDown s = execD2dLinkDown s := rfl

theorem exec_epThermalTrip (temp : Nat) (s : State) : exec (.epThermalTrip temp) s = execEpThermalTrip temp s := rfl

/-- PORT_ENABLE of both ports trains both, when one of the modules has trained. -/
theorem portEnable_both (m o : BitVec 2) (regs : List (Nat × BitVec 64)) (s : State) :
    exec (.portEnable ⟨m, 3⟩ o regs) s =
      let u := s.onEp fun e => { regs.foldl epSideband e with
        enable := 3, override_ := o, m0 := m.getLsbD 0, m1 := m.getLsbD 1 }
      .next (if m = 0 then u else epTrain (epTrain u 0) 1) := by
  have h0 : (3 : BitVec 2).getLsbD 0 = true := rfl
  have h1 : (3 : BitVec 2).getLsbD 1 = true := rfl
  rw [exec_portEnable, execPortEnable]
  by_cases hm : m = 0 <;> simp only [h0, h1, hm, true_or, true_and, if_true, ne_eq, not_true, not_false_eq_true, if_false]

/-- EP_CONFIGURE of an enabled end point that is not configured gives it its identity. -/
theorem epConfigure_fresh {s : State} {node : Node} (inc : Byte) (locked : Bool) (ht : s.ep.trip = false)
    (he : s.ep.enable ≠ 0) (hn : isSwitch node = false) (hc : s.ep.configured = false) :
    exec (.epConfigure node inc locked) s = .next (s.onEp fun e => { if locked then epEmptied e else e with
      ep0 := e.enable.getLsbD 0, ep1 := e.enable.getLsbD 1, nodeId := node, incarnation := inc, configured := locked
      cellNode := BitVec.ofNat 16 (0x8000 + rackOf node * 256 + epSwOf node * 2)
      xp := setIncOf e.xp node inc
      tn := if locked then { e.tn with lock := .locked } else e.tn }) := by
  rw [exec_epConfigure, execEpConfigure]
  rw [if_neg (by simpa [ht, hn, hc] using he), if_neg (by simp [hc])]
  cases locked <;> rfl

theorem d2dLinkDown_up {s : State} (h : s.ep.m0 = true ∨ s.ep.m1 = true) :
    exec .d2dLinkDown s = .next (reportEpDown (s.onEp fun e => { e with m0 := false, m1 := false }) 2) := by
  rw [exec_d2dLinkDown, execD2dLinkDown, if_pos h]

/-- At 115 °C or more the end point reports, turns its lanes off and leaves service. -/
theorem epThermalTrip_hot {s : State} {temp : Nat} (h : 115 ≤ temp) :
    exec (.epThermalTrip temp) s = .next (atEp (epLosePort (epLosePort
      ((((reportEpDown (epTemp s temp) 3).emit (.lanesOff 64)).emit (.lanesOff 65)).onEp
        fun e => { e with trip := true }) 1) 0) id) := by
  rw [exec_epThermalTrip, execEpThermalTrip, if_neg (by omega)]; rfl

theorem epThermalTrip_cool {s : State} {temp : Nat} (h : temp < 115) :
    exec (.epThermalTrip temp) s = .next (epTemp s temp) := by
  rw [exec_epThermalTrip, execEpThermalTrip, if_pos h]

theorem epTemp_ep (s : State) (temp : Nat) :
    (epTemp s temp).ep = { s.ep with temp := temp, thermN := decide (105 ≤ temp) } := by
  unfold epTemp; dsimp only; split <;> rfl

/-- Settles O25: one lemma for each event of the life cycle; the two losses of ports are their definitions. -/
theorem endPointComesAndGoes : Obligations.EndPointComesAndGoes := by
  intro s
  refine ⟨fun m o regs => portEnable_both m o regs s, fun node inc locked ht he hn hc => ?_, rfl, rfl, d2dLinkDown_up,
    fun temp h => epThermalTrip_hot h, fun temp h => epThermalTrip_cool h, epTemp_ep s⟩
  exact epConfigure_fresh inc locked ht he hn hc

/-! ### Staged commands, publications, regions, scrubs, measurements (R37, R109, R175, R701, R706) -/

theorem exec_stagedActivate (t : Time) (s : State) : exec (.stagedActivate t) s = execStagedActivate t s := rfl

theorem exec_castCopyDone (ri : BitVec 16) (t : Time) (fs : List ReadFault) (s : State) :
    exec (.castCopyDone ri t fs) s = execCastCopyDone ri t fs s := rfl

theorem exec_regionFree (ri : BitVec 16) (s : State) : exec (.regionFree ri) s = execRegionFree ri s := rfl

theorem exec_tenantScrubDone (i : BitVec 12) (s : State) : exec (.tenantScrubDone i) s = execTenantScrubDone i s := rfl

theorem exec_measureDone (ri : BitVec 16) (t : Time) (fs : List ReadFault) (s : State) :
    exec (.measureDone ri t fs) s = execMeasureDone ri t fs s := rfl

theorem stagedActivate_run {s : State} (t : Time) (h : Running s) : exec (.stagedActivate t) s =
    let u := if s.ep.tn.lock = .unlocked then s.reachTick t else (s.reachTick t).epReachTick t
    let u := stagedGo u
    .next (settle (atEp (pump (carriedInGo u.hif.carriedIn.length u)) epStagedGo)) := by
  rw [exec_stagedActivate, execStagedActivate, up_run h]; rfl

/-- A command that is not staged, or whose tick has come, does not wait for its tick. -/
theorem not_staged_ahead {d : Desc} {now : Time} (h : Desc.staged d = false ∨ Desc.activate d ≤ now) :
    ¬ (Desc.staged d = true ∧ now < Desc.activate d) := by
  rintro ⟨hst, hlt⟩
  rcases h with h | h
  · simp [h] at hst
  · exact absurd hlt (Nat.not_lt.2 h)

/-- A publish that waits for nothing copies the lines read into the bank. -/
theorem castCopyDone_whole {s : State} {ri : BitVec 16} {t : Time} {p : Publish} {r q : Region} (fs : List ReadFault)
    (hrun : Running s) (hp : (s.coh.publishes.find? fun p => p.region == ri.toNat) = some p)
    (hr : s.region? p.region = some r) (hq : s.region? p.source = some q) (hrd : r.destroying = false)
    (hqd : q.destroying = false) (hbank : bankRead (s.at_ t) p.region r (p.version % 2) = false)
    (htick : Desc.staged p.desc = false ∨ Desc.activate p.desc ≤ (s.at_ t).now) (hown : ownedOf (s.at_ t) p.source = [])
    (hblk : ∀ b ∈ s.coh.blocked, b.who ≠ .publish p.region)
    (hw : ∀ m ∈ s.partnerW, m.who ≠ .publish p.region ∧ m.reg ≠ p.source)
    (hwant : wantsOf (sourceRead (publishWaits (s.at_ t) p.region) p.source q fs []).2 = []) :
    exec (.castCopyDone ri t fs) s =
      let x := sourceRead (publishWaits (s.at_ t) p.region) p.source q fs []
      .next (endPublish x.1 p r x.2) := by
  have hnb : ((s.at_ t).coh.blocked.find? fun b => b.who == .publish p.region) = none :=
    List.find?_eq_none.2 fun b hb => by simpa using hblk b hb
  have hnw : ((s.at_ t).partnerW.any fun m => m.who == .publish p.region || m.reg == p.source) = false :=
    List.any_eq_false.2 fun m hm => by simpa using hw m hm
  have hnt := not_staged_ahead htick
  have hp' : ((s.at_ t).coh.publishes.find? fun p => p.region == ri.toNat) = some p := hp
  have hr' : (s.at_ t).region? p.region = some r := hr
  have hq' : (s.at_ t).region? p.source = some q := hq
  rw [exec_castCopyDone, execCastCopyDone, up_run hrun]
  simp only [hp', hr', hq', hnb, hnw, hrd, hqd, hbank, hnt, hown, Bool.false_eq_true, or_self, if_false, ne_eq, not_true,
    Option.any_none, Option.map_none, Option.getD_none, hwant]

/-- An idle destroyed region that no page move and no publish concerns is freed. -/
theorem regionFree_idle {s : State} {ri : BitVec 16} {r : Region} (hrun : Running s)
    (hr : s.region? ri.toNat = some r) (hd : r.destroying = true) (hi : regionIdle s ri.toNat = true)
    (hj : ∀ j ∈ s.rgn.pageJobs, j.region ≠ ri.toNat)
    (hp : ∀ p ∈ s.coh.publishes, p.region ≠ ri.toNat ∧ p.source ≠ ri.toNat) :
    exec (.regionFree ri) s = .next (freeRegionNow s ri.toNat r) := by
  rw [exec_regionFree, execRegionFree, up_run hrun]
  simp only [hr]
  rw [if_pos]
  refine ⟨hd, hi, List.all_eq_true.2 fun j h => by simpa using hj j h, List.all_eq_true.2 fun p h => ?_⟩
  simpa using hp p h

theorem tenantScrubDone_done {s : State} {i : BitVec 12} {b : Scrub} (hrun : Running s)
    (hb : s.sec.scrubs.get? i.toNat = some b) (hd : scrubDone s (BitVec.ofNat 16 i.toNat) b = true) :
    exec (.tenantScrubDone i) s =
      let rcd := scrubRecord s (BitVec.ofNat 16 i.toNat) b
      let u := s.onRgn fun g => { g with tenants := g.tenants.modify i.toNat fun x => { x with state := .free } }
      .next (bothEvent (u.onSec fun c => { c with
        scrubs := c.scrubs.erase i.toNat, scrubN := (c.scrubN + 1) % 2 ^ 32
        scrubRecs := keepLast 64 (c.scrubRecs ++ [rcd]) }) rcd) := by
  rw [exec_tenantScrubDone, execTenantScrubDone, up_run hrun]
  simp only [hb, hd, if_true]

/-- The measurement of a scratchpad region digests its bytes. -/
theorem measureDone_scratch {s : State} {ri : BitVec 16} (t : Time) (fs : List ReadFault) {m : Measure} {r : Region}
    {v : Nat} {vs : List Nat} (hrun : Running s) (hm : measureOf? s ri.toNat = some m)
    (hr : s.region? ri.toNat = some r) (hv : m.running = v :: vs) (hat : homedOn s compATTEST 1 = true)
    (hs : r.isScratch = true) : exec (.measureDone ri t fs) s =
      .next (measureEnd (s.at_ t) ri.toNat v (some (shake256 (readScratch (s.at_ t) r 0 r.bytes)))) := by
  have hm' : measureOf? (s.at_ t) ri.toNat = some m := hm
  have hr' : (s.at_ t).region? ri.toNat = some r := hr
  have hat' : homedOn (s.at_ t) compATTEST 1 = true := hat
  rw [exec_measureDone, execMeasureDone, up_run hrun]
  simp only [hm', hr', hv, hat', hs, Bool.not_true, Bool.false_eq_true, if_false, if_true]

/-- Settles O27: one lemma for each of the five events, each with the conditions under which its effect is reached. -/
theorem regionsAndPublicationsEnd : Obligations.RegionsAndPublicationsEnd := by
  intro s hrun
  refine ⟨fun t => stagedActivate_run t hrun,
    fun ri t p r q hp hr hq hrd hqd hbank htick hown hblk hw fs hwant =>
      castCopyDone_whole fs hrun hp hr hq hrd hqd hbank htick hown hblk hw hwant,
    fun ri r hr hd hi hj hp => regionFree_idle hrun hr hd hi hj hp,
    fun i b hb hd => tenantScrubDone_done hrun hb hd,
    fun ri t fs m r v vs hm hr hv hat hs => measureDone_scratch t fs hrun hm hr hv hat hs⟩

end Sys2Proof.Machine
end

section
/-! PROOFS. The canonical form of the memories along every step and after reset, and where regions place their
granules. -/

namespace Sys2Proof.Machine

/-! ### Every step keeps the canonical form (R64, R69, R282) -/

/-- Each command has the lemma of its own meaning, so the cases are the arms of `exec`. -/
theorem exec_keeps (c : Instr) (s : State) : OutKeeps s (exec c s) :=
  match c with
  | .regionCreate r d k => execRegionCreate_keeps r d k s (.refl s)
  | .regionDestroy r d => execRegionDestroy_keeps r d s (.refl s)
  | .regionSetRights r d => execRegionSetRights_keeps r d s (.refl s)
  | .keyRotate r d => execKeyRotate_keeps r d s (.refl s)
  | .keyRevoke r d => execKeyRevoke_keeps r d s (.refl s)
  | .regionQuery r d => execRegionQuery_keeps r d s (.refl s)
  | .pageIn r d => execPageIn_keeps r d s (.refl s)
  | .pageOut r d k => execPageOut_keeps r d k s (.refl s)
  | .pageFaultClear r d => execPageFaultClear_keeps r d s (.refl s)
  | .rangeMap r d => execRangeMap_keeps r d s (.refl s)
  | .rangeUnmap r d => execRangeUnmap_keeps r d s (.refl s)
  | .tenantCreate r d => execTenantCreate_keeps r d s (.refl s)
  | .tenantSetQuota r d => execTenantSetQuota_keeps r d s (.refl s)
  | .tenantRelease r d => execTenantRelease_keeps r d s (.refl s)
  | .tenantQuery r d => execTenantQuery_keeps r d s (.refl s)
  | .counterAlloc r d => execCounterAlloc_keeps r d s (.refl s)
  | .counterFree r d => execCounterFree_keeps r d s (.refl s)
  | .counterSet r d => execCounterSet_keeps r d s (.refl s)
  | .counterQuery r d => execCounterQuery_keeps r d s (.refl s)
  | .castPublish r d => execCastPublish_keeps r d s (.refl s)
  | .castCopyDone region t faults => execCastCopyDone_keeps region t faults s (.refl s)
  | .mcastSet r d => execMcastSet_keeps r d s (.refl s)
  | .mcastClear r d => execMcastClear_keeps r d s (.refl s)
  | .runnerSet r d => execRunnerSet_keeps r d s (.refl s)
  | .runnerClear r d => execRunnerClear_keeps r d s (.refl s)
  | .routeSet r d => execRouteSet_keeps r d s (.refl s)
  | .scheduleMode r d => execScheduleMode_keeps r d s (.refl s)
  | .swcQuery r d => execSwcQuery_keeps r d s (.refl s)
  | .programLoad r d => execProgramLoad_keeps r d s (.refl s)
  | .programStart r d => execProgramStart_keeps r d s (.refl s)
  | .programPost r d => execProgramPost_keeps r d s (.refl s)
  | .programStop r d => execProgramStop_keeps r d s (.refl s)
  | .programQuery r d => execProgramQuery_keeps r d s (.refl s)
  | .groupCreate r d => execGroupCreate_keeps r d s (.refl s)
  | .groupDestroy r d => execGroupDestroy_keeps r d s (.refl s)
  | .groupRearm r d => execGroupRearm_keeps r d s (.refl s)
  | .groupQuery r d => execGroupQuery_keeps r d s (.refl s)
  | .partnerAdopt r d k => execPartnerAdopt_keeps r d k s (.refl s)
  | .partnerRelease r d => execPartnerRelease_keeps r d s (.refl s)
  | .linkRetrain r d => execLinkRetrain_keeps r d s (.refl s)
  | .linkDisable r d => execLinkDisable_keeps r d s (.refl s)
  | .nop r d => execNop_keeps r d s (.refl s)
  | .ringBind r d => execRingBind_keeps r d s (.refl s)
  | .tenantSetOwner r d => execTenantSetOwner_keeps r d s (.refl s)
  | .epRangeCreate r d => execEpRangeCreate_keeps r d s (.refl s)
  | .epRangeDestroy r d => execEpRangeDestroy_keeps r d s (.refl s)
  | .epKeyRotate r d => execEpKeyRotate_keeps r d s (.refl s)
  | .epKeyRevoke r d => execEpKeyRevoke_keeps r d s (.refl s)
  | .epBind r d => execEpBind_keeps r d s (.refl s)
  | .epReduceBind r d => execEpReduceBind_keeps r d s (.refl s)
  | .epQuery r d => execEpQuery_keeps r d s (.refl s)
  | .stepMark r d => execStepMark_keeps r d s (.refl s)
  | .modeSet r d => execModeSet_keeps r d s (.refl s)
  | .spareSet r d => execSpareSet_keeps r d s (.refl s)
  | .dusk r d => execDusk_keeps r d s (.refl s)
  | .rejoin r d => execRejoin_keeps r d s (.refl s)
  | .traceCtrl r d => execTraceCtrl_keeps r d s (.refl s)
  | .traceDump r d => execTraceDump_keeps r d s (.refl s)
  | .fltQuery r d => execFltQuery_keeps r d s (.refl s)
  | .pwrCap r d => execPwrCap_keeps r d s (.refl s)
  | .pwrMode r d => execPwrMode_keeps r d s (.refl s)
  | .supplyDump r d => execSupplyDump_keeps r d s (.refl s)
  | .supplyCtrl r d => execSupplyCtrl_keeps r d s (.refl s)
  | .attestReport r d => execAttestReport_keeps r d s (.refl s)
  | .regionMeasure r d => execRegionMeasure_keeps r d s (.refl s)
  | .fwUpdate r d => execFwUpdate_keeps r d s (.refl s)
  | .debugOpen r d => execDebugOpen_keeps r d s (.refl s)
  | .debugClose r d => execDebugClose_keeps r d s (.refl s)
  | .debugRead r d => execDebugRead_keeps r d s (.refl s)
  | .debugWrite r d => execDebugWrite_keeps r d s (.refl s)
  | .hkControl r d => execHkControl_keeps r d s (.refl s)
  | .secQuery r d => execSecQuery_keeps r d s (.refl s)
  | .flashWrite r d => execFlashWrite_keeps r d s (.refl s)
  | .imagePush r d => execImagePush_keeps r d s (.refl s)
  | .stagedActivate t => execStagedActivate_keeps t s (.refl s)
  | .hifCmdProd port ring index => execHifCmdProd_keeps port ring index s (.refl s)
  | .commandTake port => execCommandTake_keeps port s (.refl s)
  | .hifCplCons port ring index => execHifCplCons_keeps port ring index s (.refl s)
  | .hifFaultCons port index => execHifFaultCons_keeps port index s (.refl s)
  | .hifEventCons port index => execHifEventCons_keeps port index s (.refl s)
  | .attach port => execAttach_keeps port s (.refl s)
  | .detach port => execDetach_keeps port s (.refl s)
  | .heartbeat port => execHeartbeat_keeps port s (.refl s)
  | .hostSilent port t => execHostSilent_keeps port t s (.refl s)
  | .ownershipMove from_ t => execOwnershipMove_keeps from_ t s (.refl s)
  | .noHostLive port t => execNoHostLive_keeps port t s (.refl s)
  | .parkedRetry port => execParkedRetry_keeps port s (.refl s)
  | .msiXHoldoff port vector t => execMsiXHoldoff_keeps port vector t s (.refl s)
  | .dmaTimeout port id t => execDmaTimeout_keeps port id t s (.refl s)
  | .swcQbufLowRestart quad => execSwcQbufLowRestart_keeps quad s (.refl s)
  | .colDetEventsRestart => execColDetEventsRestart_keeps s (.refl s)
  | .slip lanes byHost => execSlip_keeps lanes byHost s (.refl s)
  | .sleepDisable port => execSleepDisable_keeps port s (.refl s)
  | .registerWrite host offset size8 value => execRegisterWrite_keeps host offset size8 value s (.refl s)
  | .bar0BadAccess host offset size isWrite => execBar0BadAccess_keeps host offset size isWrite s (.refl s)
  | .hdmDecoderCommit port decoder base size ways => execHdmDecoderCommit_keeps port decoder base size ways s (.refl s)
  | .memrd port addr mv faults => execMemrd_keeps port addr mv faults s (.refl s)
  | .memwr port addr data => execMemwr_keeps port addr data s (.refl s)
  | .memwrptl port addr mask data => execMemwrptl_keeps port addr mask data s (.refl s)
  | .bisnpResponse port line data => execBisnpResponse_keeps port line data s (.refl s)
  | .bisnpTimeout port line t => execBisnpTimeout_keeps port line t s (.refl s)
  | .hostLost port => execHostLost_keeps port s (.refl s)
  | .hostLinkDown port => execHostLinkDown_keeps port s (.refl s)
  | .identifyMemoryDevice port => execIdentifyMemoryDevice_keeps port s (.refl s)
  | .getSupportedLogs port => execGetSupportedLogs_keeps port s (.refl s)
  | .getLog port => execGetLog_keeps port s (.refl s)
  | .getHealthInfo port => execGetHealthInfo_keeps port s (.refl s)
  | .getEventRecords port => execGetEventRecords_keeps port s (.refl s)
  | .clearEventRecords port => execClearEventRecords_keeps port s (.refl s)
  | .mailboxUnsupported port opcode => execMailboxUnsupported_keeps port opcode s (.refl s)
  | .kSetGo port stream => execKSetGo_keeps port stream s (.refl s)
  | .ideKmKeyProg port stream set key => execIdeKmKeyProg_keeps port stream set key s (.refl s)
  | .ideCheckFailed port stream => execIdeCheckFailed_keeps port stream s (.refl s)
  | .read a faults => execRead_keeps a faults s (.refl s)
  | .readOwn a faults => execReadOwn_keeps a faults s (.refl s)
  | .counterRead a => execCounterRead_keeps a s (.refl s)
  | .write a => execWrite_keeps a s (.refl s)
  | .closingWrite a => execClosingWrite_keeps a s (.refl s)
  | .closingWriteRelease part src stream => execClosingWriteRelease_keeps part src stream s (.refl s)
  | .closingWriteDiscard part src stream t => execClosingWriteDiscard_keeps part src stream t s (.refl s)
  | .store a => execStore_keeps a s (.refl s)
  | .writeback a => execWriteback_keeps a s (.refl s)
  | .atomic a faults => execAtomic_keeps a faults s (.refl s)
  | .snoopInv a => execSnoopInv_keeps a s (.refl s)
  | .snoopRecall a => execSnoopRecall_keeps a s (.refl s)
  | .snoopResp a => execSnoopResp_keeps a s (.refl s)
  | .reduceContrib a => execReduceContrib_keeps a s (.refl s)
  | .resultFormed group => execResultFormed_keeps group s (.refl s)
  | .reduceResult a => execReduceResult_keeps a s (.refl s)
  | .resultRetransmit group g rank t => execResultRetransmit_keeps group g rank t s (.refl s)
  | .contribProbe binding t => execContribProbe_keeps binding t s (.refl s)
  | .partnerWrite a => execPartnerWrite_keeps a s (.refl s)
  | .partnerRead a faults => execPartnerRead_keeps a faults s (.refl s)
  | .partnerData a => execPartnerData_keeps a s (.refl s)
  | .epcWrite a => execEpcWrite_keeps a s (.refl s)
  | .epcRead a => execEpcRead_keeps a s (.refl s)
  | .epcData a => execEpcData_keeps a s (.refl s)
  | .capSet a => execCapSet_keeps a s (.refl s)
  | .carryCmd a k => execCarryCmd_keeps a k s (.refl s)
  | .carryCpl a => execCarryCpl_keeps a s (.refl s)
  | .carryTimeout id t => execCarryTimeout_keeps id t s (.refl s)
  | .grantReq a k => execGrantReq_keeps a k s (.refl s)
  | .grant a => execGrant_keeps a s (.refl s)
  | .partnerFree a => execPartnerFree_keeps a s (.refl s)
  | .tableReq a => execTableReq_keeps a s (.refl s)
  | .tableData a => execTableData_keeps a s (.refl s)
  | .ack a => execAck_keeps a s (.refl s)
  | .nack a => execNack_keeps a s (.refl s)
  | .hold a => execHold_keeps a s (.refl s)
  | .readReply a => execReadReply_keeps a s (.refl s)
  | .atomicReply a => execAtomicReply_keeps a s (.refl s)
  | .counterReply a => execCounterReply_keeps a s (.refl s)
  | .holdTimer part src seq t => execHoldTimer_keeps part src seq t s (.refl s)
  | .retransmit part dst seq t => execRetransmit_keeps part dst seq t s (.refl s)
  | .giveUp part dst seq t => execGiveUp_keeps part dst seq t s (.refl s)
  | .rateRaise part dst t => execRateRaise_keeps part dst t s (.refl s)
  | .graceClose part region t => execGraceClose_keeps part region t s (.refl s)
  | .rebuildWriteback line => execRebuildWriteback_keeps line s (.refl s)
  | .packetForward port vc pkt => execPacketForward_keeps port vc pkt s (.refl s)
  | .voqEnqueue port vc => execVoqEnqueue_keeps port vc s (.refl s)
  | .multicastForward port pkt => execMulticastForward_keeps port pkt s (.refl s)
  | .runnerBurst port flits t => execRunnerBurst_keeps port flits t s (.refl s)
  | .runnerRestore t => execRunnerRestore_keeps t s (.refl s)
  | .egressFlitSend port t => execEgressFlitSend_keeps port t s (.refl s)
  | .relay port pkt => execRelay_keeps port pkt s (.refl s)
  | .flitReceive at_ f => execFlitReceive_keeps at_ f s (.refl s)
  | .replay port t => execReplay_keeps port t s (.refl s)
  | .receiverWaitTimeout port t => execReceiverWaitTimeout_keeps port t s (.refl s)
  | .linkFail port cause => execLinkFail_keeps port cause s (.refl s)
  | .lossOfSignal port t => execLossOfSignal_keeps port t s (.refl s)
  | .markerLock lane seen inverted => execMarkerLock_keeps lane seen inverted s (.refl s)
  | .linkSearchStep port => execLinkSearchStep_keeps port s (.refl s)
  | .linkBringupStep port res => execLinkBringupStep_keeps port res s (.refl s)
  | .idExchange port far => execIdExchange_keeps port far s (.refl s)
  | .ping port stamp turnaround => execPing_keeps port stamp turnaround s (.refl s)
  | .echo port departed arrived turnaround => execEcho_keeps port departed arrived turnaround s (.refl s)
  | .sleepEnter port t => execSleepEnter_keeps port t s (.refl s)
  | .sleepWake port => execSleepWake_keeps port s (.refl s)
  | .opRead q => execOpRead_keeps q s (.refl s)
  | .opWrite q => execOpWrite_keeps q s (.refl s)
  | .opAtomic q => execOpAtomic_keeps q s (.refl s)
  | .opFence q => execOpFence_keeps q s (.refl s)
  | .opFlush q => execOpFlush_keeps q s (.refl s)
  | .opInval q => execOpInval_keeps q s (.refl s)
  | .opCounterRead q => execOpCounterRead_keeps q s (.refl s)
  | .copyOut c => execCopyOut_keeps c s (.refl s)
  | .copyIn c => execCopyIn_keeps c s (.refl s)
  | .contrib c => execContrib_keeps c s (.refl s)
  | .tileFence c => execTileFence_keeps c s (.refl s)
  | .prodDoorbell n prod slots => execProdDoorbell_keeps n prod slots s (.refl s)
  | .abortDoorbell n target tag => execAbortDoorbell_keeps n target tag s (.refl s)
  | .winRd offset tag => execWinRd_keeps offset tag s (.refl s)
  | .winCounterWrite k value => execWinCounterWrite_keeps k value s (.refl s)
  | .mrdCpl tag ok data => execMrdCpl_keeps tag ok data s (.refl s)
  | .mwrCpl tag ok => execMwrCpl_keeps tag ok s (.refl s)
  | .d2dTimeout tag t => execD2dTimeout_keeps tag t s (.refl s)
  | .avoidanceExpire dst t => execAvoidanceExpire_keeps dst t s (.refl s)
  | .portEnable on override_ regs => execPortEnable_keeps on override_ regs s (.refl s)
  | .epConfigure node inc locked => execEpConfigure_keeps node inc locked s (.refl s)
  | .ep0LinkLoss => execEp0LinkLoss_keeps s (.refl s)
  | .epConfigLoss => execEpConfigLoss_keeps s (.refl s)
  | .epThermalTrip temp => execEpThermalTrip_keeps temp s (.refl s)
  | .add g => execAdd_keeps g s (.refl s)
  | .sub g => execSub_keeps g s (.refl s)
  | .mul g => execMul_keeps g s (.refl s)
  | .and g => execAnd_keeps g s (.refl s)
  | .or g => execOr_keeps g s (.refl s)
  | .xor g => execXor_keeps g s (.refl s)
  | .shl g => execShl_keeps g s (.refl s)
  | .shr g => execShr_keeps g s (.refl s)
  | .sar g => execSar_keeps g s (.refl s)
  | .min g => execMin_keeps g s (.refl s)
  | .max g => execMax_keeps g s (.refl s)
  | .li g => execLi_keeps g s (.refl s)
  | .sread g => execSread_keeps g s (.refl s)
  | .cmp g => execCmp_keeps g s (.refl s)
  | .jmp g => execJmp_keeps g s (.refl s)
  | .bany g => execBany_keeps g s (.refl s)
  | .ball g => execBall_keeps g s (.refl s)
  | .act g => execAct_keeps g s (.refl s)
  | .msave g => execMsave_keeps g s (.refl s)
  | .mrest g => execMrest_keeps g s (.refl s)
  | .endGroup g => execEndGroup_keeps g s (.refl s)
  | .lds g => execLds_keeps g s (.refl s)
  | .sts g => execSts_keeps g s (.refl s)
  | .gather g => execGather_keeps g s (.refl s)
  | .ldg g => execLdg_keeps g s (.refl s)
  | .atom g => execAtom_keeps g s (.refl s)
  | .crucibleStore g => execCrucibleStore_keeps g s (.refl s)
  | .signal g => execSignal_keeps g s (.refl s)
  | .crucibleFence g => execCrucibleFence_keeps g s (.refl s)
  | .cread g => execCread_keeps g s (.refl s)
  | .mbox g => execMbox_keeps g s (.refl s)
  | .poolOpen g => execPoolOpen_keeps g s (.refl s)
  | .poolClose g => execPoolClose_keeps g s (.refl s)
  | .aclr g => execAclr_keeps g s (.refl s)
  | .aadd g => execAadd_keeps g s (.refl s)
  | .aread g => execAread_keeps g s (.refl s)
  | .asave g => execAsave_keeps g s (.refl s)
  | .aimg g => execAimg_keeps g s (.refl s)
  | .wload g => execWload_keeps g s (.refl s)
  | .wswap g => execWswap_keeps g s (.refl s)
  | .mma g => execMma_keeps g s (.refl s)
  | .vld g => execVld_keeps g s (.refl s)
  | .vst g => execVst_keeps g s (.refl s)
  | .vadd g => execVadd_keeps g s (.refl s)
  | .vsub g => execVsub_keeps g s (.refl s)
  | .vmul g => execVmul_keeps g s (.refl s)
  | .vfma g => execVfma_keeps g s (.refl s)
  | .vmax g => execVmax_keeps g s (.refl s)
  | .vmin g => execVmin_keeps g s (.refl s)
  | .vbcast g => execVbcast_keeps g s (.refl s)
  | .vcvt g => execVcvt_keeps g s (.refl s)
  | .vpack g => execVpack_keeps g s (.refl s)
  | .rngset g => execRngset_keeps g s (.refl s)
  | .rng g => execRng_keeps g s (.refl s)
  | .lineRequestReturn id faults => execLineRequestReturn_keeps id faults s (.refl s)
  | .capShed prog t => execCapShed_keeps prog t s (.refl s)
  | .programEndClear prog => execProgramEndClear_keeps prog s (.refl s)
  | .regionFree region => execRegionFree_keeps region s (.refl s)
  | .tenantScrubDone tenant => execTenantScrubDone_keeps tenant s (.refl s)
  | .measureDone region t faults => execMeasureDone_keeps region t faults s (.refl s)
  | .reportSigned t => execReportSigned_keeps t s (.refl s)
  | .fwCommit t => execFwCommit_keeps t s (.refl s)
  | .fwRollback cause t => execFwRollback_keeps cause t s (.refl s)
  | .compartmentFail core comp cause t => execCompartmentFail_keeps core comp cause t s (.refl s)
  | .coreFail core cause t => execCoreFail_keeps core cause t s (.refl s)
  | .patrolScrubRead stack faults => execPatrolScrubRead_keeps stack faults s (.refl s)
  | .stackLost stack => execStackLost_keeps stack s (.refl s)
  | .refreshRateChange stack temp => execRefreshRateChange_keeps stack temp s (.refl s)
  | .beacon part via b arrival arrivalFrac => execBeacon_keeps part via b arrival arrivalFrac s (.refl s)
  | .beaconSend part port t => execBeaconSend_keeps part port t s (.refl s)
  | .livenessTick t => execLivenessTick_keeps t s (.refl s)
  | .livenessAgeout node t => execLivenessAgeout_keeps node t s (.refl s)
  | .takeManagerRole t => execTakeManagerRole_keeps t s (.refl s)
  | .firstLock part => execFirstLock_keeps part s (.refl s)
  | .parentLoss part t => execParentLoss_keeps part t s (.refl s)
  | .status part via sender map t => execStatus_keeps part via sender map t s (.refl s)
  | .report part via m => execReport_keeps part via m s (.refl s)
  | .probe part via => execProbe_keeps part via s (.refl s)
  | .probeReply via state => execProbeReply_keeps via state s (.refl s)
  | .probeTimeout port t => execProbeTimeout_keeps port t s (.refl s)
  | .decisionWindow t => execDecisionWindow_keeps t s (.refl s)
  | .verdict part via v => execVerdict_keeps part via v s (.refl s)
  | .verdictApply part t => execVerdictApply_keeps part t s (.refl s)
  | .drainSecondInstant subject t => execDrainSecondInstant_keeps subject t s (.refl s)
  | .sensorWindow t readings => execSensorWindow_keeps t readings s (.refl s)
  | .powerEstimate t activity => execPowerEstimate_keeps t activity s (.refl s)
  | .estimateCalibrate t current => execEstimateCalibrate_keeps t current s (.refl s)
  | .vcoreRetarget t activity demand => execVcoreRetarget_keeps t activity demand s (.refl s)
  | .vcoreSettled t activity => execVcoreSettled_keeps t activity s (.refl s)
  | .headroomCheck t activity demand => execHeadroomCheck_keeps t activity demand s (.refl s)
  | .fixedLeft t activity demand => execFixedLeft_keeps t activity demand s (.refl s)
  | .regulatorPoll t m => execRegulatorPoll_keeps t m s (.refl s)
  | .vrSilent t => execVrSilent_keeps t s (.refl s)
  | .pfwNAssert => execPfwNAssert_keeps s (.refl s)
  | .pfwNDeassert t activity demand => execPfwNDeassert_keeps t activity demand s (.refl s)
  | .thermalCapStep t logic dram => execThermalCapStep_keeps t logic dram s (.refl s)
  | .thermalTrip logic dram => execThermalTrip_keeps logic dram s (.refl s)
  | .sysResetNAssert ns taken released => execSysResetNAssert_keeps ns taken released s (.refl s)
  | .railOutOfRange rail ns back => execRailOutOfRange_keeps rail ns back s (.refl s)
  | .refclkFLoss ns back => execRefclkFLoss_keeps ns back s (.refl s)
  | .dawnBootRom quadsPass sfdp ms => execDawnBootRom_keeps quadsPass sfdp ms s (.refl s)
  | .dawnPuf raw helper ms => execDawnPuf_keeps raw helper ms s (.refl s)
  | .dawnNvm image deviceBytes ms => execDawnNvm_keeps image deviceBytes ms s (.refl s)
  | .dawnDram stackFail ms => execDawnDram_keeps stackFail ms s (.refl s)
  | .dawnLinks ms => execDawnLinks_keeps ms s (.refl s)
  | .dawnFarEndIdentity ms => execDawnFarEndIdentity_keeps ms s (.refl s)
  | .dawnElectionAndLock ms => execDawnElectionAndLock_keeps ms s (.refl s)
  | .dawnModeEntered ms => execDawnModeEntered_keeps ms s (.refl s)
  | .bypass => execBypass_keeps s (.refl s)
  | .idcode => execIdcode_keeps s (.refl s)
  | .samplePreload => execSamplePreload_keeps s (.refl s)
  | .extest => execExtest_keeps s (.refl s)
  | .clamp => execClamp_keeps s (.refl s)
  | .highz => execHighz_keeps s (.refl s)
  | .dapAccess level => execDapAccess_keeps level s (.refl s)
  | .trstNAssert => execTrstNAssert_keeps s (.refl s)
  | .hostLinkUp port gts width flit256 bme bi => execHostLinkUp_keeps port gts width flit256 bme bi s (.refl s)
  | .dmaReadCompletion port id ok data => execDmaReadCompletion_keeps port id ok data s (.refl s)
  | .flashWriteEnd ok => execFlashWriteEnd_keeps ok s (.refl s)
  | .d2dLinkDown => execD2dLinkDown_keeps s (.refl s)
  | .managerQuorumTimeout id t => execManagerQuorumTimeout_keeps id t s (.refl s)
  | .rowCapTimeout t => execRowCapTimeout_keeps t s (.refl s)
  | .epochWaitExpire part dst stream t => execEpochWaitExpire_keeps part dst stream t s (.refl s)

theorem step_command {s : State} {c : Instr} {rest : List Instr} (h : s.pending = c :: rest) :
    step s = exec c { s with pending := rest } := by
  rw [step, h]

theorem step_memOk {s t : State} (hm : MemOk s) (h : step s = .next t) : MemOk t := by
  cases hq : s.pending with
  | nil =>
    obtain rfl : idle s = t := Host.Outcome.next.inj ((step_idle hq).symm.trans h)
    exact (idle_keeps s (.refl s)).mem hm
  | cons c rest =>
    rw [step_command hq] at h
    exact (exec_keeps c { s with pending := rest } t h).mem hm

/-- Settles O41: a step is the idle tick or the command at the front of the queue, and each keeps the canonical form. -/
theorem memoryStaysCanonical : Obligations.MemoryStaysCanonical := fun _ _ => step_memOk

/-! ### Reset (R69, R773, R776) -/

/-- Outputs are no state of the ZE-208. -/
theorem emits_ep {α : Type} (o : α → Out) (l : List α) (s : State) :
    (l.foldl (fun s x => s.emit (o x)) s).ep = s.ep := by
  induction l generalizing s with
  | nil => rfl
  | cons x l ih => rw [List.foldl_cons, ih, State.emit_ep]

theorem resetNow_ep (s : State) : (resetNow s).ep = s.ep := emits_ep _ _ s

theorem resetNow_pool (s : State) : (resetNow s).pool = State.reset.pool := rfl

theorem resetNow_sec (s : State) : (resetNow s).sec = State.reset.sec := rfl

theorem memOk_reset : MemOk State.reset := ⟨rfl, rfl, rfl⟩

theorem memOk_congr {s t : State} (hp : t.pool = s.pool) (hs : t.sec = s.sec) : MemOk t ↔ MemOk s := by
  rw [MemOk, MemOk, hp, hs]

/-- Settles O42: a reset gives the switch the memories of `State.reset`, and keeps the ZE-208 and the queue. -/
theorem resetMemoryCanonical : Obligations.ResetMemoryCanonical := by
  refine ⟨memOk_reset, rfl, rfl, rfl, fun s => ⟨?_, rfl, resetNow_ep s, ?_⟩⟩
  · exact (memOk_congr (resetNow_pool s) (resetNow_sec s)).2 memOk_reset
  · exact (resetNow_keeps s (.refl s)).queue

/-! ### Granules (R64, R65, R66) -/

theorem mkGranule_eq_add {slot : Nat} (stack : Nat) (h : slot < 2 ^ 20) :
    mkGranule stack slot = stack * 2 ^ 20 + slot := by
  rw [mkGranule, ← Nat.shiftLeft_add_eq_or_of_lt h, Nat.shiftLeft_eq]

theorem gStack_mkGranule {slot : Nat} (stack : Nat) (h : slot < 2 ^ 20) : gStack (mkGranule stack slot) = stack := by
  rw [gStack, mkGranule_eq_add stack h, Nat.shiftRight_eq_div_pow]
  omega

theorem gSlot_mkGranule {slot : Nat} (stack : Nat) (h : slot < 2 ^ 20) : gSlot (mkGranule stack slot) = slot := by
  rw [gSlot, mkGranule_eq_add stack h]
  omega

theorem granuleOf_single {s : State} {ri : Nat} {r : Region} (i : Nat) (h : r.placement = plSINGLE) :
    granuleOf s ri r i = some (r.base.toNat + i) := by
  rw [granuleOf, if_pos h]

theorem granuleOf_spread {s : State} {ri : Nat} {r : Region} (i : Nat) (h : r.placement = plSPREAD) :
    granuleOf s ri r i = some (spreadGranule (stackList r.stacks_) r.base.toNat i) := by
  rw [granuleOf, if_neg (by rw [h]; decide), if_pos h]

theorem gStack_spreadGranule {l : List Nat} {base i : Nat} (h : gSlot base + i / l.length < 2 ^ 20) :
    gStack (spreadGranule l base i) = l.getD ((l.idxOf (gStack base) + i) % l.length) 0 :=
  gStack_mkGranule _ h

theorem gSlot_spreadGranule {l : List Nat} {base i : Nat} (h : gSlot base + i / l.length < 2 ^ 20) :
    gSlot (spreadGranule l base i) = gSlot base + i / l.length :=
  gSlot_mkGranule _ h

theorem bitList_nodup (v n : Nat) : (bitList v n).Nodup := List.nodup_range.filter _

theorem stackList_nodup (m : BitVec 16) : (stackList m).Nodup := bitList_nodup m.toNat 16

theorem getD_inj_of_nodup {l : List Nat} (hl : l.Nodup) {a b : Nat} (ha : a < l.length) (hb : b < l.length)
    (h : l.getD a 0 = l.getD b 0) : a = b := by
  rw [List.getD_eq_getElem?_getD, List.getD_eq_getElem?_getD, List.getElem?_eq_getElem ha, List.getElem?_eq_getElem hb,
    Option.getD_some, Option.getD_some] at h
  exact (List.getElem_inj hl).1 h

/-- Granule `i` of a run stands in column `(c + i) % n` of row `i / n`, and both together tell `i`. -/
theorem eq_of_mod_add_eq_of_div_eq {n c i j : Nat} (hm : (c + i) % n = (c + j) % n) (hd : i / n = j / n) : i = j := by
  have hmInt : ((c : Int) + i) % n = (c + j) % n := by exact_mod_cast hm
  have hij : i % n = j % n := by exact_mod_cast Int.emod_add_cancel_left.1 hmInt
  rw [← Nat.div_add_mod i n, ← Nat.div_add_mod j n, hd, hij]

/-- The place of a granule tells its stack, so its column of the placement list, and its slot, so its row. -/
theorem spreadGranule_inj {l : List Nat} {base i j : Nat} (hl : l.Nodup) (hb : gStack base ∈ l)
    (hi : gSlot base + i / l.length < 2 ^ 20) (hj : gSlot base + j / l.length < 2 ^ 20)
    (h : spreadGranule l base i = spreadGranule l base j) : i = j := by
  have hn : 0 < l.length := List.length_pos_of_mem hb
  have hstack := congrArg gStack h
  have hslot := congrArg gSlot h
  rw [gStack_spreadGranule hi, gStack_spreadGranule hj] at hstack
  rw [gSlot_spreadGranule hi, gSlot_spreadGranule hj] at hslot
  have hpos := getD_inj_of_nodup hl (Nat.mod_lt _ hn) (Nat.mod_lt _ hn) hstack
  exact eq_of_mod_add_eq_of_div_eq hpos (Nat.add_left_cancel hslot)

/-- Settles O56: the stack and slot of a granule read back from its place, and tell the granule. -/
theorem spreadGranulesStayApart : Obligations.SpreadGranulesStayApart := by
  refine ⟨fun s ri i r hp => granuleOf_single i hp, ?_, ?_⟩
  · intro s ri i r hp l _ hi
    exact ⟨_, granuleOf_spread i hp, gStack_spreadGranule hi, gSlot_spreadGranule hi⟩
  · intro s ri i j r hp l hb hi hj hij he
    rw [granuleOf_spread i hp, granuleOf_spread j hp] at he
    exact hij (spreadGranule_inj (stackList_nodup r.stacks_) hb hi hj (Option.some.inj he))

end Sys2Proof.Machine
end

section
/-! PROOFS. Commands that only the operator may run, and the commands of the pool's stacks. -/

namespace Sys2Proof.Machine

/-! ### Commands of the operator (R106, R272, R534, R727, R790) -/

theorem firstFail_head {b : Bool} (st : Status) (rows : List (Bool × Status)) (h : b = true) :
    firstFail ((b, st) :: rows) = some st := by
  rw [firstFail, if_pos h]

/-- Without operator credentials the command fails with TENANT_DENIED, whatever else is wrong with it. -/
def DeniesTenants (c : CmdSpec) : Prop :=
  ∀ (o : Origin) (d : Desc) (s : State), isOperator s o = false → c.chk o d s = some stTenantDenied

/-- The entries of the command table for `operatorOps`. -/
def operatorSpecs : List CmdSpec :=
  [specTenantCreate, specTenantSetQuota, specTenantRelease, specRunnerSet, specRunnerClear, specRouteSet,
   specScheduleMode, specPartnerAdopt, specPartnerRelease, specLinkRetrain, specLinkDisable, specRingBind,
   specTenantSetOwner, specTraceCtrl, specTraceDump, specFltQuery, specPwrMode, specSupplyDump, specSupplyCtrl] ++
  [specFwUpdate, specDebugOpen, specDebugClose, specDebugRead, specDebugWrite, specHkControl, specFlashWrite,
   specImagePush]

theorem ringRows_operatorOps :
    (ringRows.filter fun x => operatorOps.contains x.1.op).map Prod.fst = operatorSpecs := rfl

/-- The first row of each failure table asks for operator credentials, alone or among other conditions. -/
theorem deniesTenants_of_mem : ∀ c ∈ operatorSpecs, DeniesTenants c := by
  unfold operatorSpecs
  simp only [List.forall_mem_append, List.forall_mem_cons, List.not_mem_nil, false_implies, implies_true, and_true]
  and_intros <;> exact fun o d s h => firstFail_head _ _ (by simp [h])

theorem ringRow_deniesTenants {x : CmdSpec × (CmdRef → Desc → Pick → Instr)} (hx : x ∈ ringRows)
    (hop : x.1.op ∈ operatorOps) : DeniesTenants x.1 := by
  refine deniesTenants_of_mem x.1 (ringRows_operatorOps ▸ List.mem_map_of_mem ?_)
  exact List.mem_filter.2 ⟨hx, List.contains_iff_mem.2 hop⟩

/-- Settles O47: the command is its row of the table, which has its turn and fails its first check. -/
theorem tenantsMayNotRunOperatorCommands : Obligations.TenantsMayNotRunOperatorCommands := by
  intro x hx hop s r d k f hturn u hdest htenant
  rw [exec_ringRow x hx]
  exact runRow_fail hturn hdest (ringRow_deniesTenants hx hop (.ring r) d u htenant)

/-! ### Stacks and lines of the pool (R417, R430, R438 to R442, R444) -/

theorem exec_patrolScrubRead (k : Fin 16) (fs : List ReadFault) (s : State) :
    exec (.patrolScrubRead k fs) s = execPatrolScrubRead k fs s := rfl

theorem exec_stackLost (k : Fin 16) (s : State) : exec (.stackLost k) s = execStackLost k s := rfl

theorem exec_refreshRateChange (k : Fin 16) (temp : Nat) (s : State) :
    exec (.refreshRateChange k temp) s = execRefreshRateChange k temp s := rfl

theorem exec_rebuildWriteback (line : Nat) (s : State) :
    exec (.rebuildWriteback line) s = execRebuildWriteback line s := rfl

/-- A patrol past the last allocated granule ends its pass. -/
theorem patrolScrubRead_passEnd {s : State} {k : Fin 16} (fs : List ReadFault) (hrun : Running s)
    (hup : stackUp s k = true) (hg : nthGranule (patrolSpans s k) ((s.stack k).cursor / 1024) = none) :
    exec (.patrolScrubRead k fs) s =
      .next (s.onStack k fun t => { t with cursor := 0, granules := 0, passes := t.passes + 1 }) := by
  rw [exec_patrolScrubRead, execPatrolScrubRead, up_run hrun]
  simp only [hup, hg, Bool.not_true, Bool.false_eq_true, if_false]

/-- A patrol that stands on an allocated granule scrubs the line at its cursor and goes on. -/
theorem patrolScrubRead_line {s : State} {k : Fin 16} {g : Nat} (fs : List ReadFault) (hrun : Running s)
    (hup : stackUp s k = true) (hg : nthGranule (patrolSpans s k) ((s.stack k).cursor / 1024) = some g) :
    exec (.patrolScrubRead k fs) s =
      let u := (scrubLine s (g * 1024 + (s.stack k).cursor % 1024) fs).onStack k fun t =>
        { t with cursor := t.cursor + 1, granules := (t.cursor + 1) / 1024 }
      .next (if (nthGranule (patrolSpans s k) (((s.stack k).cursor + 1) / 1024)).isNone
        then u.onStack k fun t => { t with cursor := 0, granules := 0, passes := t.passes + 1 } else u) := by
  rw [exec_patrolScrubRead, execPatrolScrubRead, up_run hrun]
  simp only [hup, hg, Bool.not_true, Bool.false_eq_true, if_false]

theorem stackLost_up {s : State} {k : Fin 16} (hrun : Running s) (hup : stackUp s k = true) :
    exec (.stackLost k) s = .next (declareStackLost s k) := by
  rw [exec_stackLost, execStackLost, up_run hrun, if_pos hup]

theorem refreshRateChange_up {s : State} {k : Fin 16} (temp : Nat) (hrun : Running s)
    (hup : quadUp s (k.val / 4) = true) : exec (.refreshRateChange k temp) s =
      .next (s.onStack k fun t => { t with temp := temp, refresh := refreshNext t.refresh temp }) := by
  rw [exec_refreshRateChange, execRefreshRateChange, up_run hrun, if_pos hup]

/-- The state in which REBUILD_WRITEBACK looks for the region of the line: the line is off the list and counted. -/
def lineWrittenBack (s : State) (line : Nat) (w : WriteBack) : State :=
  bumpCorrected ((s.onPool fun p => { p with rebuildWb := p.rebuildWb.erase w }).onStack (lineStack line)
    fun t => { t with rebuilt := bump t.rebuilt })

theorem rebuildWriteback_homeless {s : State} {line : Nat} {w : WriteBack} (hrun : Running s)
    (hw : (s.pool.rebuildWb.find? fun w => w.line == line) = some w)
    (hh : protectedHome (lineWrittenBack s line w) line = none) :
    exec (.rebuildWriteback line) s = .next (lineWrittenBack s line w) := by
  unfold lineWrittenBack at hh ⊢
  rw [exec_rebuildWriteback, execRebuildWriteback, up_run hrun]
  simp only [hw, hh]

theorem rebuildWriteback_homed {s : State} {line : Nat} {w : WriteBack} {h : LineHome} (hrun : Running s)
    (hw : (s.pool.rebuildWb.find? fun w => w.line == line) = some w)
    (hh : protectedHome (lineWrittenBack s line w) line = some h) :
    exec (.rebuildWriteback line) s =
      let u := lineWrittenBack s line w
      .next (rebuildReport
        (setBook u h.ri { bookOf u h.ri with rebuilds := (bookOf u h.ri).rebuilds ++ [w] }) h.ri) := by
  unfold lineWrittenBack at hh ⊢
  rw [exec_rebuildWriteback, execRebuildWriteback, up_run hrun]
  simp only [hw, hh]

/-- Settles O26: one lemma for each command and for each way in which its line or stack is found. -/
theorem poolCommandsAnswer : Obligations.PoolCommandsAnswer := by
  intro s k hrun
  refine ⟨fun fs hup hg => patrolScrubRead_passEnd fs hrun hup hg,
    fun fs g hup hg => patrolScrubRead_line fs hrun hup hg, fun hup => stackLost_up hrun hup,
    fun temp hup => refreshRateChange_up temp hrun hup, ?_⟩
  intro line w hw
  exact ⟨rebuildWriteback_homeless hrun hw, fun h => rebuildWriteback_homed hrun hw⟩

end Sys2Proof.Machine
end

section
/-! PROOFS. Packets at the node that they name: requests and snoops at the ZE-208, responses at their source, and the
ends of held closing writes. -/

namespace Sys2Proof.Machine

/-! ### Requests at their destination (R201) -/

theorem exec_read (a : Arrival) (fs : List ReadFault) (s : State) : exec (.read a fs) s =
    atDest a (a.pkt.opcode == opREAD) (fun s => serveRead s a fs) (fun s => epServe s a) s := rfl

theorem exec_write (a : Arrival) (s : State) : exec (.write a) s =
    atDest a (a.pkt.opcode == opWRITE && !a.pkt.close) (fun s => serveWrite s a) (fun s => epServe s a) s := rfl

theorem exec_store (a : Arrival) (s : State) : exec (.store a) s =
    atDest a (a.pkt.opcode == opSTORE) (fun s => serveWrite s a) (fun s => epServe s a) s := rfl

theorem exec_atomic (a : Arrival) (fs : List ReadFault) (s : State) : exec (.atomic a fs) s =
    atDest a (a.pkt.opcode == opATOMIC) (fun s => serveAtomic s a fs) (fun s => epServe s a) s := rfl

theorem exec_counterRead (a : Arrival) (s : State) : exec (.counterRead a) s =
    atDest a (a.pkt.opcode == opCOUNTERREAD) (fun s => serveCounterRead s a) (fun s => epCounterRead s a) s := rfl

theorem exec_closingWrite (a : Arrival) (s : State) : exec (.closingWrite a) s =
    atDest a (a.pkt.opcode == opWRITE && a.pkt.close && closeRoom s a.part) (fun s => serveClosing s a)
      (fun s => epClosing s a) s := rfl

theorem exec_epcWrite (a : Arrival) (s : State) : exec (.epcWrite a) s =
    atDest a (isMsg a 0xA0) (fun s => refuse s a stFormatUnsupported) (fun s => epcWriteZe s a) s := rfl

theorem exec_epcRead (a : Arrival) (s : State) : exec (.epcRead a) s =
    atDest a (isMsg a 0xA1) (fun s => refuse s a stFormatUnsupported) (fun s => epcReadZe s a) s := rfl

/-- A request that passes steps 1 to 6 of R201 at the ZE-208 stands in the books as BUSY and goes on to its kind. -/
theorem epReceive_admitted {s : State} {a : Arrival} {d : DstSrc} (ze : State → State) (h : EpAdmitted s a d) :
    epReceive s a ze = ze (epAdmitted s a d) := by
  obtain ⟨-, -, hadmit, hform⟩ := h
  unfold epReceive
  simp only [hadmit, hform, Bool.false_eq_true, if_false]
  rfl

/-- The row of a request whose own opcode it has, at the ZE-208. -/
theorem dest_ep {s : State} {a : Arrival} {d : DstSrc} {own : Bool} {zs ze : State → State} (h : EpAdmitted s a d)
    (hown : own = true) : atDest a own zs ze s = .next (atEp (ze (epAdmitted s a d)) id) := by
  rw [← epReceive_admitted ze h]
  obtain ⟨hpart, harr, -, -⟩ := h
  unfold atDest
  simp only [hpart, hown, harr, Bool.true_or, and_self, if_true]
  rfl

theorem closeRoom_ze {s : State} (h : s.ep.xp.cw.length < 256) : closeRoom s .ze = true := decide_eq_true h

/-! ### Snoops and results at the ZE-208 (R161, R191, R396) -/

theorem exec_snoopInv (a : Arrival) (s : State) :
    exec (.snoopInv a) s = atEndPoint a (a.pkt.opcode == opSNOOPINV) (fun s => epSnoop s a) s := rfl

theorem exec_snoopRecall (a : Arrival) (s : State) :
    exec (.snoopRecall a) s = atEndPoint a (a.pkt.opcode == opSNOOPRECALL) (fun s => epSnoop s a) s := rfl

theorem exec_reduceResult (a : Arrival) (s : State) :
    exec (.reduceResult a) s = atEndPoint a (a.pkt.opcode == opRESULT) (fun s => epResult s a) s := rfl

theorem endPoint_ze {s : State} {a : Arrival} {own : Bool} {ze : State → State} (hpart : a.part = .ze)
    (harr : epArrives s a = true) (hown : own = true) : atEndPoint a own ze s = .next (atEp (ze s) id) := by
  unfold atEndPoint
  simp only [hpart, hown, harr, and_self, if_true]
  rfl

/-- Settles O9: each row is `atDest` with the steps of its kind, or `atEndPoint`, which asks for no admission. -/
theorem endPointRequestsAreServed : Obligations.EndPointRequestsAreServed := by
  intro s a d fs
  refine ⟨fun h => ⟨fun hop => ?_, fun hop hclose => ?_, fun hop => ?_, fun hop => ?_, fun hop => ?_,
    fun hop hclose hroom => ?_, fun hmsg => ?_, fun hmsg => ?_⟩,
    fun hpart harr => ⟨fun hop => ?_, fun hop => ?_, fun hop => ?_⟩⟩
  · exact (exec_read a fs s).trans (dest_ep h (beq_iff_eq.2 hop))
  · exact (exec_write a s).trans (dest_ep h (by simp [hop, hclose]))
  · exact (exec_store a s).trans (dest_ep h (beq_iff_eq.2 hop))
  · exact (exec_atomic a fs s).trans (dest_ep h (beq_iff_eq.2 hop))
  · exact (exec_counterRead a s).trans (dest_ep h (beq_iff_eq.2 hop))
  · exact (exec_closingWrite a s).trans (dest_ep h (by simp [hop, hclose, h.1, closeRoom_ze hroom]))
  · exact (exec_epcWrite a s).trans (dest_ep h hmsg)
  · exact (exec_epcRead a s).trans (dest_ep h hmsg)
  · exact (exec_snoopInv a s).trans (endPoint_ze hpart harr (beq_iff_eq.2 hop))
  · exact (exec_snoopRecall a s).trans (endPoint_ze hpart harr (beq_iff_eq.2 hop))
  · exact (exec_reduceResult a s).trans (endPoint_ze hpart harr (beq_iff_eq.2 hop))

/-! ### Responses at their source (R160, R202, R209) -/

/-- The rows of the responses, each with the packets that are its own. -/
def responseRows : List ((Arrival → Instr) × (Arrival → Bool)) :=
  [(.ack, fun a => a.pkt.opcode == opACK), (.nack, fun a => a.pkt.opcode == opNACK),
   (.hold, fun a => a.pkt.opcode == opHOLD), (.readReply, fun a => a.pkt.opcode == opREADREPLY),
   (.atomicReply, fun a => a.pkt.opcode == opATOMICREPLY), (.counterReply, fun a => a.pkt.opcode == opCOUNTERREPLY),
   (.partnerData, fun a => isMsg a 0x92), (.epcData, fun a => isMsg a 0xA2), (.grant, fun a => isMsg a 0xB4),
   (.tableData, fun a => isMsg a 0xB7)]

/-- Every response is the same step at its source: `atSource`, on the packets of its own. -/
theorem exec_responseRow : ∀ x ∈ responseRows, ∀ (a : Arrival) (s : State), exec (x.1 a) s = atSource a (x.2 a) s := by
  unfold responseRows
  simp only [List.forall_mem_cons, List.not_mem_nil, false_implies, implies_true, and_true]
  and_intros <;> exact fun _ _ => rfl

theorem src_run {s : State} {a : Arrival} {own : Bool} (hpart : a.part = .zs) (hrun : Running s) (hown : own = true) :
    atSource a own s = .next (settle (zsResponse s a)) := by
  unfold atSource
  simp only [hpart, hown, if_true]
  exact up_run hrun

theorem src_ep {s : State} {a : Arrival} {own : Bool} (hpart : a.part = .ze) (harr : epArrives s a = true)
    (hown : own = true) : atSource a own s = .next (atEp (epResponse s a) id) := by
  unfold atSource
  simp only [hpart, hown, harr, and_self, if_true]
  rfl

theorem exec_snoopResp (a : Arrival) (s : State) : exec (.snoopResp a) s = execSnoopResp a s := rfl

/-- The response to an outstanding snoop ends the recall with its mask and its data. -/
theorem snoopResp_answered {s : State} {a : Arrival} {r : Recall} (hpart : a.part = .zs) (hrun : Running s)
    (hop : a.pkt.opcode = opSNOOPRESP) (hr : snoopAnswered (consume s a.pkt) a = some r) :
    exec (.snoopResp a) s = .next (snoopDone (consume s a.pkt) r.line r.holder (fieldAt a.pkt.payload 0 8)
      (a.pkt.payload.drop 8)) := by
  rw [exec_snoopResp, execSnoopResp]
  simp only [hpart, up_run hrun, hop, ne_eq, not_true_eq_false, if_false, hr]

/-- Settles O10: the ten responses are rows of one table and so one step at their source; a snoop's answer is its own. -/
theorem responsesResolveRequests : Obligations.ResponsesResolveRequests := by
  intro s a
  refine ⟨fun c hc => ?_, fun r hpart hrun hop hr => snoopResp_answered hpart hrun hop hr⟩
  obtain ⟨x, hx, rfl, hown⟩ : ∃ x ∈ responseRows, c = x.1 a ∧ x.2 a = true := by simpa [responseRows] using hc
  rw [exec_responseRow x hx]
  exact ⟨fun hpart hrun => src_run hpart hrun hown, fun hpart harr => src_ep hpart harr hown⟩

/-! ### The ends of held closing writes (R138, R141, R217, R793) -/

theorem exec_closingWriteRelease (part : Part) (src : Node) (stream : Byte) (s : State) :
    exec (.closingWriteRelease part src stream) s = execClosingWriteRelease part src stream s := rfl

theorem exec_closingWriteDiscard (part : Part) (src : Node) (stream : Byte) (t : Time) (s : State) :
    exec (.closingWriteDiscard part src stream t) s = execClosingWriteDiscard part src stream t s := rfl

section
variable {s : State} {src : Node} {stream : Byte} {t : Time} {a : Arrival}

theorem closingWriteRelease_zs (hrun : Running s)
    (h : heldClose s.xp src stream (fun c => mayClose s.xp c.1) = some a) :
    exec (.closingWriteRelease .zs src stream) s = .next (settle
      (resumePacket (s.onXp fun x => closeTaken x a) a a.pkt.region.toNat a.pkt.off [] [] false)) := by
  rw [exec_closingWriteRelease, execClosingWriteRelease, up_run hrun]
  simp only [h]

theorem closingWriteRelease_ze (h : heldClose s.ep.xp src stream (fun c => mayClose s.ep.xp c.1) = some a) :
    exec (.closingWriteRelease .ze src stream) s =
      .next (atEp s fun s => epRerun (onEpXp s fun x => closeTaken x a) a) := by
  rw [exec_closingWriteRelease, execClosingWriteRelease]
  simp only [h]

/-- Reaching its tick leaves the transport's books alone, so the closing write found before is the one found then. -/
theorem closingWriteDiscard_zs (hrun : Running s)
    (h : heldClose s.xp src stream (fun c => due (s.at_ t).now c.2 (ms 1)) = some a) :
    exec (.closingWriteDiscard .zs src stream t) s =
      .next (settle (refuse ((s.at_ t).onXp fun x => closeTaken x a) a stDestLost)) := by
  rw [← State.at__xp s t] at h
  rw [exec_closingWriteDiscard, execClosingWriteDiscard, up_run hrun]
  simp only [h]

theorem epAt_ep_xp (s : State) (t : Time) : (s.epAt t).ep.xp = s.ep.xp := rfl

theorem closingWriteDiscard_ze (h : heldClose s.ep.xp src stream (fun c => due (s.epAt t).ep.now c.2 (ms 1)) = some a) :
    exec (.closingWriteDiscard .ze src stream t) s =
      .next (atEp (s.epAt t) fun s => epRefuse (onEpXp s fun x => closeTaken x a) a stDestLost) := by
  rw [← epAt_ep_xp s t] at h
  rw [exec_closingWriteDiscard, execClosingWriteDiscard]
  simp only [h]

end

/-- Settles O11: release and discard, each at the switch and at the ZE-208. -/
theorem closingWritesEnd : Obligations.ClosingWritesEnd := by
  intro s src stream t a
  exact ⟨closingWriteRelease_zs, closingWriteRelease_ze, closingWriteDiscard_zs, closingWriteDiscard_ze⟩

end Sys2Proof.Machine
end

section
/-! PROOFS. What the CXL side of a host port answers: requests, snoop answers, the link, and IDE. -/

namespace Sys2Proof.Machine

/-! ### Requests and snoop answers (R162, R163, R503, R508) -/

theorem exec_memrd (p : Fin 2) (addr : BitVec 64) (mv : HostMeta) (fs : List ReadFault) (s : State) :
    exec (.memrd p addr mv fs) s = up s fun s => serveHost s p (.rd addr.toNat mv) fs := rfl

theorem exec_memwr (p : Fin 2) (addr : BitVec 64) (data : List Byte) (s : State) :
    exec (.memwr p addr data) s = up s fun s => settle (serveHost s p (.wr addr.toNat data) []) := rfl

theorem exec_memwrptl (p : Fin 2) (addr mask : BitVec 64) (data : List Byte) (s : State) :
    exec (.memwrptl p addr mask data) s = up s fun s => settle (serveHost s p (.wrPtl addr.toNat mask data) []) := rfl

theorem exec_bisnpResponse (p : Fin 2) (line : Nat) (data : Option (List Byte)) (s : State) :
    exec (.bisnpResponse p line data) s = execBisnpResponse p line data s := rfl

theorem exec_bisnpTimeout (p : Fin 2) (line : Nat) (t : Time) (s : State) :
    exec (.bisnpTimeout p line t) s = execBisnpTimeout p line t s := rfl

section
variable {s : State} {p : Fin 2} {line : Nat}

theorem bisnpResponse_dirty (data : List Byte) (hrun : Running s)
    (hide : ((s.hp p).ide.getD 2 default).failed = false) : exec (.bisnpResponse p line (some data)) s =
      .next (snoopDone s line (Fin.ofNat 34 p.val) fullMask data) := by
  rw [exec_bisnpResponse, execBisnpResponse, up_run hrun]
  simp only [hide, Bool.false_eq_true, if_false]

theorem bisnpResponse_clean (hrun : Running s) (hide : ((s.hp p).ide.getD 2 default).failed = false) :
    exec (.bisnpResponse p line none) s = .next (snoopDone s line (Fin.ofNat 34 p.val) 0 []) := by
  rw [exec_bisnpResponse, execBisnpResponse, up_run hrun]
  simp only [hide, Bool.false_eq_true, if_false]

/-- A snoop that the host has left unanswered for 1 ms loses the host. -/
theorem bisnpTimeout_due {t : Time} {r : Recall} (hrun : Running s)
    (hr : ((s.at_ t).coh.recalls.find? fun r => decide (r.line = line ∧ r.holder.val = p.val)) = some r)
    (hdue : due (s.at_ t).now r.since (ms 1) = true) : exec (.bisnpTimeout p line t) s = .next (hostGone (s.at_ t) p) := by
  rw [exec_bisnpTimeout, execBisnpTimeout, up_run hrun]
  simp only [hr, hdue, if_true]

end

/-! ### The host link (R163, R499, R500) -/

theorem exec_hostLost (p : Fin 2) (s : State) : exec (.hostLost p) s =
    up s fun s => hostGone (s.onHp p fun h => { h with linkUp := false, cxlMem := false }) p := rfl

theorem exec_hostLinkDown (p : Fin 2) (s : State) : exec (.hostLinkDown p) s =
    up s fun s => hostGone (s.onHp p fun h => { h with linkUp := false, cxlMem := false }) p := rfl

theorem exec_hostLinkUp (p : Fin 2) (gts width : Nat) (flit256 bme bi : Bool) (s : State) :
    exec (.hostLinkUp p gts width flit256 bme bi) s = execHostLinkUp p gts width flit256 bme bi s := rfl

theorem hostLinkUp_present {s : State} {p : Fin 2} (gts width : Nat) (flit256 bme bi : Bool) (hrun : Running s)
    (hp : hpPresent s p = true) : exec (.hostLinkUp p gts width flit256 bme bi) s =
      .next ((s.emit (.function p 0x6476 0xB0 0x050210)).onHp p fun h => { h with
        linkUp := true, cxlMem := decide (gts = 64 ∧ width = 8) && flit256, bme := bme, biEnable := bi }) := by
  rw [exec_hostLinkUp, execHostLinkUp, up_run hrun, if_pos hp]

/-! ### IDE (R506, R507, R508, R687) -/

@[simp] theorem onHp_hp (s : State) (p : Nat) (f : HostPort → HostPort) : (s.onHp p f).hp p = f (s.hp p) := by
  have hset : ((s.hif.ports.set p (f (s.hp p))).get? p).getD default = f (s.hp p) := by
    rw [Tbl.get?_set, Option.getD_some]
  exact hset

/-- A change of one IDE stream is told by what it makes of that stream. -/
theorem onIde_congr {s : State} {p : Nat} {x : IdeStream} {f g : IdeSt → IdeSt}
    (h : f ((s.hp p).ide.getD (ideKey x) default) = g ((s.hp p).ide.getD (ideKey x) default)) :
    onIde s p x f = onIde s p x g := by
  simp only [onIde, State.onHp, h]

theorem exec_kSetGo (p : Fin 2) (x : IdeStream) (s : State) : exec (.kSetGo p x) s = execKSetGo p x s := rfl

theorem exec_ideKmKeyProg (p : Fin 2) (x : IdeStream) (set : Fin 2) (key : BitVec 256) (s : State) :
    exec (.ideKmKeyProg p x set key) s = execIdeKmKeyProg p x set key s := rfl

theorem exec_ideCheckFailed (p : Fin 2) (x : IdeStream) (s : State) : exec (.ideCheckFailed p x) s =
    up s fun s => (onIde s p x fun i => { i with secure := false, failed := true }).onHp p fun h =>
      { h with aer := "IDE Check Failed" :: h.aer } := rfl

/-- The transmitter moves to its other key set when that set holds a key. -/
theorem kSetGo_run {s : State} {p : Fin 2} {x : IdeStream} (hrun : Running s)
    (hkey : ((s.hp p).ide.getD (ideKey x) default).keys.has
      (1 - ((s.hp p).ide.getD (ideKey x) default).txSet.val) = true) :
    exec (.kSetGo p x) s = .next (onIde s p x fun i => { i with txSet := 1 - i.txSet }) := by
  rw [exec_kSetGo, execKSetGo, up_run hrun]
  exact congrArg _ (onIde_congr (if_pos hkey))

/-- With an identity, a session stands once it has been asked for. -/
theorem openSpdm_isSome {s : State} (p : Nat) (hid : s.sec.keyReady = true) :
    ((openSpdm s p).hp p).spdm.isSome = true := by
  unfold openSpdm
  by_cases h : (s.hp p).spdm.isSome = true
  · rw [if_pos (by simp [h])]; exact h
  · rw [if_neg (by simp [h, hid])]; simp

/-- Without an identity there is no session to open. -/
theorem openSpdm_noIdentity {s : State} (p : Nat) (hid : s.sec.keyReady = false) : openSpdm s p = s := by
  unfold openSpdm
  rw [if_pos (by simp [hid])]

theorem ideKmKeyProg_identity {s : State} {p : Fin 2} (x : IdeStream) (set : Fin 2) (key : BitVec 256)
    (hrun : Running s) (hid : s.sec.keyReady = true) : exec (.ideKmKeyProg p x set key) s =
      .next (onIde (openSpdm s p) p x fun i =>
        { secure := true, failed := false, txSet := if i.secure then i.txSet else set, keys := i.keys.set set key }) := by
  have hopen : ((openSpdm s p).hp p).spdm.isNone = false := Option.isNone_eq_false_iff.2 (openSpdm_isSome p hid)
  rw [exec_ideKmKeyProg, execIdeKmKeyProg, up_run hrun]
  simp only [hopen, Bool.false_eq_true, if_false]

theorem ideKmKeyProg_noIdentity {s : State} {p : Fin 2} (x : IdeStream) (set : Fin 2) (key : BitVec 256)
    (hrun : Running s) (hid : s.sec.keyReady = false) (hspdm : (s.hp p).spdm = none) :
    exec (.ideKmKeyProg p x set key) s = .next s := by
  rw [exec_ideKmKeyProg, execIdeKmKeyProg, up_run hrun]
  simp only [openSpdm_noIdentity p hid, hspdm, Option.isNone_none, if_true]

/-- Settles O4: each command runs on the running switch, with one lemma for each that has a condition of its own. -/
theorem cxlRequestsAnswer : Obligations.CxlRequestsAnswer := by
  intro s p hrun
  refine ⟨fun a mv fs => ?_, fun a data => ?_, fun a mask data => ?_,
    fun line data hide => bisnpResponse_dirty data hrun hide, fun line hide => bisnpResponse_clean hrun hide,
    fun line t r hr hdue => bisnpTimeout_due hrun hr hdue, ?_, ?_,
    fun gts width f bme bi hp => hostLinkUp_present gts width f bme bi hrun hp,
    fun x set key hid => ideKmKeyProg_identity x set key hrun hid,
    fun x set key hid hspdm => ideKmKeyProg_noIdentity x set key hrun hid hspdm, fun x => ?_,
    fun x hkey => kSetGo_run hrun hkey⟩
  · exact (exec_memrd p a mv fs s).trans (up_run hrun)
  · exact (exec_memwr p a data s).trans (up_run hrun)
  · exact (exec_memwrptl p a mask data s).trans (up_run hrun)
  · exact (exec_hostLost p s).trans (up_run hrun)
  · exact (exec_hostLinkDown p s).trans (up_run hrun)
  · exact (exec_ideCheckFailed p x s).trans (up_run hrun)

end Sys2Proof.Machine
end

section
/-! PROOFS. What the ZE-208 leaves of the switch, and the time stamps of packets. -/

namespace Sys2Proof.Machine

/-! ### What the ZE-208 leaves of the switch (R221, R551, R564, R571) -/

/-- A flit at a port of the ZE-208 is taken in there. -/
theorem execFlitReceive_ze (x : LinkEnd) (f : Flit) (s : State) (h : x.part = Part.ze) :
    OutApart s (execFlitReceive x f s) := by
  rw [execFlitReceive, h]
  exact OutApart.next (epFlitIn_apart s x.port.val f (.refl s))

/-- Each command of the ZE-208 has the lemma of its own meaning; a command that either part takes is one of the ZE-208's
when it names that part. No other command is one of the ZE-208's. -/
theorem exec_apart (c : Instr) (s : State) (h : ofEndPoint c = true) : OutApart s (exec c s) := by
  cases c with
  | relay port pkt => exact execRelay_apart port pkt s (.refl s)
  | opRead q => exact execOpRead_apart q s (.refl s)
  | opWrite q => exact execOpWrite_apart q s (.refl s)
  | opAtomic q => exact execOpAtomic_apart q s (.refl s)
  | opFence q => exact execOpFence_apart q s (.refl s)
  | opFlush q => exact execOpFlush_apart q s (.refl s)
  | opInval q => exact execOpInval_apart q s (.refl s)
  | opCounterRead q => exact execOpCounterRead_apart q s (.refl s)
  | copyOut q => exact execCopyOut_apart q s (.refl s)
  | copyIn q => exact execCopyIn_apart q s (.refl s)
  | contrib q => exact execContrib_apart q s (.refl s)
  | tileFence q => exact execTileFence_apart q s (.refl s)
  | prodDoorbell n prod slots => exact execProdDoorbell_apart n prod slots s (.refl s)
  | abortDoorbell n target tag => exact execAbortDoorbell_apart n target tag s (.refl s)
  | winRd offset tag => exact execWinRd_apart offset tag s (.refl s)
  | winCounterWrite k value => exact execWinCounterWrite_apart k value s (.refl s)
  | mrdCpl tag ok data => exact execMrdCpl_apart tag ok data s (.refl s)
  | mwrCpl tag ok => exact execMwrCpl_apart tag ok s (.refl s)
  | d2dTimeout tag t => exact execD2dTimeout_apart tag t s (.refl s)
  | avoidanceExpire dst t => exact execAvoidanceExpire_apart dst t s (.refl s)
  | portEnable on override_ regs => exact execPortEnable_apart on override_ regs s (.refl s)
  | epConfigure node inc locked => exact execEpConfigure_apart node inc locked s (.refl s)
  | ep0LinkLoss => exact execEp0LinkLoss_apart s (.refl s)
  | epConfigLoss => exact execEpConfigLoss_apart s (.refl s)
  | epThermalTrip temp => exact execEpThermalTrip_apart temp s (.refl s)
  | d2dLinkDown => exact execD2dLinkDown_apart s (.refl s)
  | contribProbe binding t => exact execContribProbe_apart binding t s (.refl s)
  | read a faults => exact execRead_ze a faults s (beq_iff_eq.1 h)
  | readOwn a faults => exact execReadOwn_ze a faults s (beq_iff_eq.1 h)
  | counterRead a => exact execCounterRead_ze a s (beq_iff_eq.1 h)
  | write a => exact execWrite_ze a s (beq_iff_eq.1 h)
  | closingWrite a => exact execClosingWrite_ze a s (beq_iff_eq.1 h)
  | store a => exact execStore_ze a s (beq_iff_eq.1 h)
  | writeback a => exact execWriteback_ze a s (beq_iff_eq.1 h)
  | atomic a faults => exact execAtomic_ze a faults s (beq_iff_eq.1 h)
  | snoopInv a => exact execSnoopInv_ze a s (beq_iff_eq.1 h)
  | snoopRecall a => exact execSnoopRecall_ze a s (beq_iff_eq.1 h)
  | snoopResp a => exact execSnoopResp_ze a s (beq_iff_eq.1 h)
  | reduceResult a => exact execReduceResult_ze a s (beq_iff_eq.1 h)
  | partnerWrite a => exact execPartnerWrite_ze a s (beq_iff_eq.1 h)
  | partnerRead a faults => exact execPartnerRead_ze a faults s (beq_iff_eq.1 h)
  | partnerData a => exact execPartnerData_ze a s (beq_iff_eq.1 h)
  | epcWrite a => exact execEpcWrite_ze a s (beq_iff_eq.1 h)
  | epcRead a => exact execEpcRead_ze a s (beq_iff_eq.1 h)
  | epcData a => exact execEpcData_ze a s (beq_iff_eq.1 h)
  | capSet a => exact execCapSet_ze a s (beq_iff_eq.1 h)
  | carryCmd a k => exact execCarryCmd_ze a k s (beq_iff_eq.1 h)
  | carryCpl a => exact execCarryCpl_ze a s (beq_iff_eq.1 h)
  | grantReq a k => exact execGrantReq_ze a k s (beq_iff_eq.1 h)
  | grant a => exact execGrant_ze a s (beq_iff_eq.1 h)
  | partnerFree a => exact execPartnerFree_ze a s (beq_iff_eq.1 h)
  | tableReq a => exact execTableReq_ze a s (beq_iff_eq.1 h)
  | tableData a => exact execTableData_ze a s (beq_iff_eq.1 h)
  | ack a => exact execAck_ze a s (beq_iff_eq.1 h)
  | nack a => exact execNack_ze a s (beq_iff_eq.1 h)
  | hold a => exact execHold_ze a s (beq_iff_eq.1 h)
  | readReply a => exact execReadReply_ze a s (beq_iff_eq.1 h)
  | atomicReply a => exact execAtomicReply_ze a s (beq_iff_eq.1 h)
  | counterReply a => exact execCounterReply_ze a s (beq_iff_eq.1 h)
  | closingWriteRelease part src stream => exact execClosingWriteRelease_ze part src stream s (beq_iff_eq.1 h)
  | closingWriteDiscard part src stream t => exact execClosingWriteDiscard_ze part src stream t s (beq_iff_eq.1 h)
  | holdTimer part src seq t => exact execHoldTimer_ze part src seq t s (beq_iff_eq.1 h)
  | retransmit part dst seq t => exact execRetransmit_ze part dst seq t s (beq_iff_eq.1 h)
  | giveUp part dst seq t => exact execGiveUp_ze part dst seq t s (beq_iff_eq.1 h)
  | rateRaise part dst t => exact execRateRaise_ze part dst t s (beq_iff_eq.1 h)
  | graceClose part region t => exact execGraceClose_ze part region t s (beq_iff_eq.1 h)
  | epochWaitExpire part dst stream t => exact execEpochWaitExpire_ze part dst stream t s (beq_iff_eq.1 h)
  | flitReceive x f => exact execFlitReceive_ze x f s (beq_iff_eq.1 h)
  | _ => exact absurd h Bool.false_ne_true

/-- Settles O49: no command of the ZE-208 reaches a field of the switch. -/
theorem endPointLeavesSwitchAlone : Obligations.EndPointLeavesSwitchAlone := fun c s t h hnext =>
  exec_apart c s h t hnext

/-! ### TIME at a receiver (R184, R188) -/

/-- The extension of TIME has TIME as its low bits, and stands within half of 2 ^ 32 ticks of the time base. -/
theorem extendTime_spec (now : Time) (t : BitVec 32) : extendTime now t % 2 ^ 32 = t.toNat ∧
    -(2 ^ 31) < extendTime now t - now ∧ extendTime now t - now ≤ 2 ^ 31 := by
  have ht := t.isLt
  simp only [extendTime, Int.ofNat_eq_natCast]
  omega

/-- Two numbers with the same low bits are equal or at least 2 ^ 32 apart, so none is nearer than one within half of
that. The numbers are all integers, those below 0 among them (log entry 144). -/
theorem extendTime_nearest (now : Time) (t : BitVec 32) (x : Int) (hx : x % 2 ^ 32 = t.toNat) :
    (extendTime now t - now).natAbs ≤ (x - now).natAbs := by
  obtain ⟨hmod, hlo, hhi⟩ := extendTime_spec now t
  omega

/-- A time less than 2 ^ 31 ticks ago, as 858 ms are, is the only one near enough with its low bits. -/
theorem extendTime_recent {now sent : Nat} (hle : sent ≤ now) (hage : now - sent ≤ ms 858) :
    extendTime now (BitVec.ofNat 32 sent) = sent := by
  obtain ⟨hmod, hlo, hhi⟩ := extendTime_spec now (BitVec.ofNat 32 sent)
  rw [BitVec.toNat_ofNat] at hmod
  rw [ms] at hage
  omega

/-- Settles O52: the extension has TIME as its low bits, is the nearest such number, and is the time sent if recent. -/
theorem timeStampsAreExtended : Obligations.TimeStampsAreExtended :=
  ⟨fun now t => ⟨(extendTime_spec now t).1, extendTime_nearest now t⟩, fun _ _ hle hage => extendTime_recent hle hage⟩

end Sys2Proof.Machine
end

section
/-! PROOFS. Requests and management messages that the switch admits. -/

namespace Sys2Proof.Machine

/-! ### Requests at the switch (R201, R205) -/

theorem exec_readOwn (a : Arrival) (fs : List ReadFault) (s : State) : exec (.readOwn a fs) s =
    atDest a (a.pkt.opcode == opREADOWN) (fun s => serveRead s a fs) (fun s => epServe s a) s := rfl

theorem exec_writeback (a : Arrival) (s : State) : exec (.writeback a) s =
    atDest a (a.pkt.opcode == opWRITEBACK) (fun s => serveWrite s a) (fun s => epServe s a) s := rfl

theorem exec_reduceContrib (a : Arrival) (s : State) : exec (.reduceContrib a) s = execReduceContrib a s := rfl

section
variable {s : State} {a : Arrival} {d : DstSrc}

/-- Counting a retransmission takes no time. -/
theorem countRetxIf_now (s : State) (c : Prop) [Decidable c] : (if c then countRetx s else s).now = s.now := by
  split <;> rfl

/-- A request that passes steps 1 to 6 of R201 at the switch stands in the books as BUSY and goes on to its kind. -/
theorem receive_admitted (zs : State → State) (h : Admitted s a d) : receive s a zs = zs (admitted s a d) := by
  obtain ⟨-, -, hlock, hadmit, hform⟩ := h
  have hopen : ¬ ((consume s a.pkt).flt.tn.lock = .unlocked ∧ a.pkt.opcode ≠ opMGMT) := by
    rintro ⟨hun, hop⟩
    exact hlock.elim (· hun) hop
  have hgo : (Admit.go d == .discard || Admit.go d == .nack stStaleIncarnation) = false := by simp
  unfold receive admitted
  simp only [hadmit, hform, hgo, if_neg hopen, countRetxIf_now, Bool.not_false, Bool.and_true,
    Bool.false_eq_true, if_false]

/-- The row of a request whose own opcode or message it has, at the switch. -/
theorem dest_zs {own : Bool} {zs ze : State → State} (h : Admitted s a d) (hown : own = true) :
    atDest a own zs ze s = .next (settle (zs (admitted s a d))) := by
  rw [← receive_admitted zs h]
  obtain ⟨hrun, hpart, -⟩ := h
  exact dest_run hrun hpart hown

theorem closeRoom_zs (h : s.xp.cw.length < 4096) : closeRoom s .zs = true := decide_eq_true h

theorem closingWrite_admitted (h : Admitted s a d) (hop : a.pkt.opcode = opWRITE) (hclose : a.pkt.close = true)
    (hroom : s.xp.cw.length < 4096) :
    exec (.closingWrite a) s = .next (settle (serveClosing (admitted s a d) a)) := by
  have hpart : a.part = .zs := h.2.1
  exact (exec_closingWrite a s).trans (dest_zs h (by simp [hop, hclose, hpart, closeRoom_zs hroom]))

theorem reduceContrib_admitted (h : Admitted s a d) (hop : a.pkt.opcode = opCONTRIB) :
    exec (.reduceContrib a) s = .next (serveContrib (admitted s a d) a) := by
  rw [← receive_admitted (fun s => serveContrib s a) h]
  obtain ⟨hrun, hpart, -⟩ := h
  rw [exec_reduceContrib, execReduceContrib, up_run hrun, if_pos ⟨hpart, hop⟩]

end

/-- Settles O7: each row is `atDest` with the steps of its kind, and a contribution is received alone. -/
theorem requestsAreServed : Obligations.RequestsAreServed := by
  intro s a d fs h
  refine ⟨fun hop => ?_, fun hop => ?_, fun hop => ?_, fun hop hclose => ?_,
    fun hop hclose hroom => closingWrite_admitted h hop hclose hroom, fun hop => ?_, fun hop => ?_, fun hop => ?_,
    fun hop => reduceContrib_admitted h hop⟩
  · exact (exec_read a fs s).trans (dest_zs h (beq_iff_eq.2 hop))
  · exact (exec_readOwn a fs s).trans (dest_zs h (beq_iff_eq.2 hop))
  · exact (exec_counterRead a s).trans (dest_zs h (beq_iff_eq.2 hop))
  · exact (exec_write a s).trans (dest_zs h (by simp [hop, hclose]))
  · exact (exec_store a s).trans (dest_zs h (beq_iff_eq.2 hop))
  · exact (exec_writeback a s).trans (dest_zs h (beq_iff_eq.2 hop))
  · exact (exec_atomic a fs s).trans (dest_zs h (beq_iff_eq.2 hop))

/-! ### Management messages at the switch (R192 to R198, R425, R751) -/

/-- A message of a switch is a row of `atDest`, on packets with its MSG. -/
theorem atSwitch_admitted {s : State} {a : Arrival} {d : DstSrc} {msg : Nat} {zs : State → State} (h : Admitted s a d)
    (hmsg : isMsg a msg = true) : atSwitch a msg zs s = .next (settle (zs (admitted s a d))) :=
  dest_zs h hmsg

theorem exec_partnerWrite (a : Arrival) (s : State) :
    exec (.partnerWrite a) s = atSwitch a 0x90 (fun s => partnerWriteZs s a) s := rfl

theorem exec_partnerRead (a : Arrival) (fs : List ReadFault) (s : State) :
    exec (.partnerRead a fs) s = atSwitch a 0x91 (fun s => partnerReadZs s a fs) s := rfl

theorem exec_capSet (a : Arrival) (s : State) : exec (.capSet a) s = atSwitch a 0xB0 (fun s => serveCapSet s a) s := rfl

theorem exec_carryCmd (a : Arrival) (k : Pick) (s : State) : exec (.carryCmd a k) s = execCarryCmd a k s := rfl

theorem exec_carryCpl (a : Arrival) (s : State) :
    exec (.carryCpl a) s = atSwitch a 0xB2 (fun s => carryCplGot (ackReq s a) a.pkt.payload) s := rfl

theorem exec_grantReq (a : Arrival) (k : Pick) (s : State) :
    exec (.grantReq a k) s = atSwitch a 0xB3 (fun s => grantReqZs s a k) s := rfl

theorem exec_partnerFree (a : Arrival) (s : State) :
    exec (.partnerFree a) s = atSwitch a 0xB5 (fun s => partnerFreeZs s a) s := rfl

theorem exec_tableReq (a : Arrival) (s : State) :
    exec (.tableReq a) s = atSwitch a 0xB6 (fun s => serveTableReq s a) s := rfl

/-- Settles O8: each message is `atSwitch` with what it does once it is admitted. -/
theorem messagesAreServed : Obligations.MessagesAreServed := by
  intro s a d fs k h
  refine ⟨fun hmsg => ?_, fun hmsg => ?_, fun hmsg => ?_, fun hmsg => ?_, fun hmsg => ?_, fun hmsg => ?_, fun hmsg => ?_,
    fun hmsg => ?_⟩
  · exact (exec_partnerWrite a s).trans (atSwitch_admitted h hmsg)
  · exact (exec_partnerRead a fs s).trans (atSwitch_admitted h hmsg)
  · exact (exec_capSet a s).trans (atSwitch_admitted h hmsg)
  · exact (exec_carryCmd a k s).trans (atSwitch_admitted h hmsg)
  · exact (exec_carryCpl a s).trans (atSwitch_admitted h hmsg)
  · exact (exec_grantReq a k s).trans (atSwitch_admitted h hmsg)
  · exact (exec_partnerFree a s).trans (atSwitch_admitted h hmsg)
  · exact (exec_tableReq a s).trans (atSwitch_admitted h hmsg)

end Sys2Proof.Machine
end

section
/-! PROOFS. The timers of the transport, at the switch and at the ZE-208. -/

namespace Sys2Proof.Machine

/-! ### Timers of the transport (R88, R198, R207 to R210, R218, R225, R568) -/

theorem exec_holdTimer (part : Part) (n : Node) (seq : BitVec 24) (t : Time) (s : State) :
    exec (.holdTimer part n seq t) s = execHoldTimer part n seq t s := rfl

theorem exec_retransmit (part : Part) (n : Node) (seq : BitVec 24) (t : Time) (s : State) :
    exec (.retransmit part n seq t) s = execRetransmit part n seq t s := rfl

theorem exec_giveUp (part : Part) (n : Node) (seq : BitVec 24) (t : Time) (s : State) :
    exec (.giveUp part n seq t) s = execGiveUp part n seq t s := rfl

theorem exec_rateRaise_zs (n : Node) (t : Time) (s : State) : exec (.rateRaise .zs n t) s =
    up s fun s => pump ((s.at_ t).onXp fun x => rateRaised x n (s.at_ t).now) := rfl

theorem exec_epochWaitExpire_zs (n : Node) (stream : Byte) (t : Time) (s : State) :
    exec (.epochWaitExpire .zs n stream t) s =
      up s fun s => pump ((s.at_ t).onXp fun x => epochsFreed x (s.at_ t).now n stream) := rfl

theorem exec_carryTimeout (id : Nat) (t : Time) (s : State) :
    exec (.carryTimeout id t) s = execCarryTimeout id t s := rfl

theorem exec_graceClose_zs (r : BitVec 16) (t : Time) (s : State) :
    exec (.graceClose .zs r t) s = up s fun s => graceCloseZs s r.toNat t := rfl

theorem exec_graceClose_ze (r : BitVec 16) (t : Time) (s : State) :
    exec (.graceClose .ze r t) s = execGraceClose .ze r t s := rfl

section
variable {s : State} {n : Node} {seq : BitVec 24} {t : Time}

/-! Reaching its tick leaves the transport's books alone, so what a timer finds before is what it finds then. -/

theorem holdTimer_zs {b : Busy} (hrun : Running s) (h : busyOf s.xp n seq (s.at_ t).now = some b) :
    exec (.holdTimer .zs n seq t) s = .next (respond ((s.at_ t).onXp fun x => markHeld x b (s.at_ t).now)
      (answerQuad (s.at_ t) b.arr.port) b.arr.pkt (holdOf (s.at_ t) b.arr.pkt)) := by
  rw [← State.at__xp s t] at h
  rw [exec_holdTimer, execHoldTimer, up_run hrun]
  simp only [h]

theorem holdTimer_ze {b : Busy} (h : busyOf s.ep.xp n seq (s.epAt t).ep.now = some b) :
    exec (.holdTimer .ze n seq t) s = .next (atEp (s.epAt t) fun s =>
      epRespond (onEpXp s fun x => markHeld x b s.ep.now) b.arr (epHold s b.arr.pkt)) := by
  rw [← epAt_ep_xp s t] at h
  rw [exec_holdTimer, execHoldTimer]
  simp only [h]

theorem retransmit_zs {o : Op} (hrun : Running s)
    (h : (s.xp.opFor n seq).filter (fun o => retransDue o (s.at_ t).now) = some o) :
    exec (.retransmit .zs n seq t) s = .next (zsRetransmit (s.at_ t) o) := by
  rw [← State.at__xp s t] at h
  rw [exec_retransmit, execRetransmit, up_run hrun]
  simp only [h]

theorem retransmit_ze {o : Op} (h : (s.ep.xp.opFor n seq).filter (fun o => retransDue o (s.epAt t).ep.now) = some o) :
    exec (.retransmit .ze n seq t) s = .next (atEp (s.epAt t) fun s => epRetransmit s o) := by
  rw [← epAt_ep_xp s t] at h
  rw [exec_retransmit, execRetransmit]
  simp only [h]

theorem giveUp_zs {o : Op} (hrun : Running s)
    (h : (s.xp.opFor n seq).filter (fun o => giveUpDue o (s.at_ t).now) = some o) :
    exec (.giveUp .zs n seq t) s = .next (settle (zsGiveUp (s.at_ t) o)) := by
  rw [← State.at__xp s t] at h
  rw [exec_giveUp, execGiveUp, up_run hrun]
  simp only [h]

theorem giveUp_ze {o : Op} (h : (s.ep.xp.opFor n seq).filter (fun o => giveUpDue o (s.epAt t).ep.now) = some o) :
    exec (.giveUp .ze n seq t) s = .next (atEp (s.epAt t) fun s => epGiveUp s o) := by
  rw [← epAt_ep_xp s t] at h
  rw [exec_giveUp, execGiveUp]
  simp only [h]

/-- A carried command that no CARRY_CPL has answered 20 ms after its acknowledgement is lost. -/
theorem carryTimeout_due {id : Nat} {c : Carry} {w : Time} (hrun : Running s)
    (hc : (s.hif.carries.find? fun c => c.id == id) = some c) (hack : c.acked = some w) (hdone : c.done = none)
    (hdue : due (s.at_ t).now w (ms 20) = true) : exec (.carryTimeout id t) s = .next (carryLost (s.at_ t) id) := by
  rw [← State.at__hif s t] at hc
  rw [exec_carryTimeout, execCarryTimeout, up_run hrun]
  simp only [hc, hack, hdone, hdue, if_true]

/-- The due grace window of a range closes, and its previous key is no longer valid. -/
theorem graceClose_ze {r : BitVec 16} {e : EpEntry} (he : s.ep.ranges.get? r.toNat = some e)
    (hdue : epGraceDue (s.epAt t).ep r.toNat e = true) : exec (.graceClose .ze r t) s = .next ((s.epAt t).onEp fun x =>
      { x with ranges := x.ranges.set r.toNat { e with graceOpen := false, prevValid := false } }) := by
  have hopen : ((s.epAt t).ep.ranges.get? r.toNat).filter (epGraceDue (s.epAt t).ep r.toNat) = some e :=
    Option.filter_eq_some_iff.2 ⟨he, hdue⟩
  rw [exec_graceClose_ze, execGraceClose]
  simp only [hopen]

end

/-- Settles O12: one lemma for each timer that looks for what is due; the others act on what they find at their tick. -/
theorem transportTimersAct : Obligations.TransportTimersAct := by
  intro s n seq stream t
  exact ⟨fun b hrun h => holdTimer_zs hrun h, fun b h => holdTimer_ze h, fun o hrun h => retransmit_zs hrun h,
    fun o h => retransmit_ze h, fun o hrun h => giveUp_zs hrun h, fun o h => giveUp_ze h,
    fun hrun => (exec_rateRaise_zs n t s).trans (up_run hrun), rfl,
    fun hrun => (exec_epochWaitExpire_zs n stream t s).trans (up_run hrun), rfl,
    fun id c w hrun hc hack hdone hdue => carryTimeout_due hrun hc hack hdone hdue,
    fun r hrun => (exec_graceClose_zs r t s).trans (up_run hrun), fun r e he hdue => graceClose_ze he hdue⟩

end Sys2Proof.Machine
end

section
/-! PROOFS. The switch core's forwarding, queues and Runners, and the flits that the links move. -/

namespace Sys2Proof.Machine

/-! ### Packets in the switch core (R237, R247, R250, R256, R257) -/

theorem exec_packetForward (port : Fin 64) (vc : Fin 8) (pkt : Packet) (s : State) :
    exec (.packetForward port vc pkt) s = execPacketForward port vc pkt s := rfl

theorem exec_voqEnqueue (port : Fin 64) (vc : Fin 8) (s : State) :
    exec (.voqEnqueue port vc) s = execVoqEnqueue port vc s := rfl

theorem exec_multicastForward (port : Fin 64) (pkt : Packet) (s : State) :
    exec (.multicastForward port pkt) s = execMulticastForward port pkt s := rfl

theorem packetForward_present {s : State} {port : Fin 64} {vc : Fin 8} {pkt : Packet} (hrun : Running s)
    (h : portUp s port = true ∨ s.lnk.rx.contains (port, vc, pkt) = true) :
    exec (.packetForward port vc pkt) s = .next (forwardPacket (takeRx s port vc pkt) port vc pkt) := by
  rw [exec_packetForward, execPacketForward, up_run hrun, if_pos h]

theorem voqEnqueue_room {s : State} {port : Fin 64} {vc : Fin 8} {v : Voq} {x : Stored} (hrun : Running s)
    (hroom : egressCells s port vc < (limitsOf s (quadOf port)).cap)
    (hv : (s.swc.voq.find? fun v => decide (v.port = port ∧ v.vc = vc)) = some v)
    (hx : (s.swc.stored.find? fun x => x.id == v.id) = some x) : exec (.voqEnqueue port vc) s =
      .next (enqueueNow (s.onSwc fun c => { c with voq := c.voq.erase v }) v.id x.pkt port vc) := by
  rw [exec_voqEnqueue, execVoqEnqueue, up_run hrun, if_neg (Nat.not_le.2 hroom)]
  simp only [hv, hx, State.onSwc]

theorem multicastForward_up {s : State} {port : Fin 64} {pkt : Packet} (hrun : Running s) (hup : portUp s port = true)
    (hdst : bitsOf pkt.dst.toNat 14 2 = 3) : exec (.multicastForward port pkt) s =
      .next (mcastForward (takeRx s port pkt.vc pkt) pkt (quadOf port) (some port) pkt.vc) := by
  rw [exec_multicastForward, execMulticastForward, up_run hrun, if_pos ⟨hup, hdst⟩]

/-! ### Runners (R258 to R265) -/

theorem exec_runnerBurst (port : Fin 64) (flits : List Flit) (t : Time) (s : State) :
    exec (.runnerBurst port flits t) s = execRunnerBurst port flits t s := rfl

theorem exec_runnerRestore (t : Time) (s : State) : exec (.runnerRestore t) s = execRunnerRestore t s := rfl

@[simp] theorem portUp_at_ (s : State) (t : Time) (p : Nat) : portUp (s.at_ t) p = portUp s p := rfl

/-- A whole and valid burst has its flits leave by the egress port 175 ticks after its arrival. -/
theorem burstGo_leaves {s : State} {port : Fin 64} {t : Time} {i : Nat} {r : Runner} {fs : List Flit} {whole : Bool}
    {pkts : List Packet} (hwhole : whole = true) (hpkts : burstPackets fs [] = some pkts)
    (hok : burstOk r pkts t = true) (hrate : s.swc.suspended = false)
    (hout : portUp s (runnerEgress r) = true) (hlost : r.lost = false) :
    burstGo s port t i r fs whole = s.onSwc fun c => { c with
      runners := c.runners.set i { r with bursts := r.bursts + 1, leaves := some (t + 175) }
      bursts := c.bursts ++ fs.map fun f =>
        ⟨runnerEgress r, t + 175, f.vc, f.first, f.last, f.data.take (f.fill.toNat + 1)⟩ } := by
  simp [burstGo, hwhole, hpkts, hok, hrate, hout, hlost]

/-- A burst that an entry in force expects goes that entry's way, and the flits behind it are ordinary. -/
theorem runnerBurst_expected {s : State} {port : Fin 64} {flits : List Flit} {t : Time} {i : Nat} {r : Runner}
    (hrun : Running s) (hup : portUp s port = true) (hr : burstEntry (s.at_ t) port t flits = some (i, r)) :
    exec (.runnerBurst port flits t) s =
      let b := burstOf flits
      let u := burstIn (s.at_ t) port b
      .next (capCheck ((flits.drop b.length).foldl (fun s f => flitIn port f s)
        (burstGo u.1 port t i r u.2 (u.2.length == b.length))) false) := by
  rw [exec_runnerBurst, execRunnerBurst, up_run hrun]
  simp only [portUp_at_, hup, hr, if_true]

theorem runnerBurst_leaves {s : State} {port : Fin 64} {flits : List Flit} {t : Time} {i : Nat} {r : Runner}
    {pkts : List Packet} (hrun : Running s) (hup : portUp s port = true)
    (hr : burstEntry (s.at_ t) port t flits = some (i, r)) :
    let b := burstOf flits
    let u := (burstIn (s.at_ t) port b).1
    let fs := (burstIn (s.at_ t) port b).2
    fs.length = b.length → burstPackets fs [] = some pkts → burstOk r pkts t = true → u.swc.suspended = false →
    portUp u (runnerEgress r) = true → r.lost = false →
    exec (.runnerBurst port flits t) s = .next (capCheck ((flits.drop b.length).foldl (fun s f => flitIn port f s)
      (u.onSwc fun c => { c with
        runners := c.runners.set i { r with bursts := r.bursts + 1, leaves := some (t + 175) }
        bursts := c.bursts ++ fs.map fun f =>
          ⟨runnerEgress r, t + 175, f.vc, f.first, f.last, f.data.take (f.fill.toNat + 1)⟩ })) false) := by
  intro b u fs hwhole hpkts hok hrate hout hlost
  have hgo := burstGo_leaves (port := port) (i := i) (beq_iff_eq.2 hwhole) hpkts hok hrate hout hlost
  rw [runnerBurst_expected hrun hup hr, ← hgo]

theorem runnerRestore_full {s : State} {t : Time} (hrun : Running s) (hsusp : s.swc.suspended = true)
    (hfull : rateFull (s.at_ t) = true) (hframe : t % 4096 = 0) :
    exec (.runnerRestore t) s = .next ((s.at_ t).onSwc fun c => { c with suspended := false }) := by
  rw [exec_runnerRestore, execRunnerRestore, up_run hrun]
  exact congrArg _ (if_pos ⟨hsusp, hfull, hframe⟩)

/-! ### The relay of a ZE-208 (R579) -/

theorem exec_relay (port : Fin 64) (pkt : Packet) (s : State) : exec (.relay port pkt) s = execRelay port pkt s := rfl

/-- A packet between switches of different planes goes on by the other port, or waits in the relay buffer. -/
theorem relay_between {s : State} {port : Fin 64} {pkt : Packet} (hport : port.val < 2) (hcfg : s.ep.configured = true)
    (hup : epPortUp s.ep (1 - port.val) = true) (hdst : isSwitch pkt.dst = true) (hsrc : isSwitch pkt.src = true)
    (hplane : planeOf pkt.dst ≠ planeOf pkt.src) : exec (.relay port pkt) s =
      let other := 1 - port.val
      let vc := pkt.vcFor opMGMT
      .next (if epStopped s.ep other vc then relayTell (s.onEp fun e => { e with relay := e.relay ++ [(other, vc, pkt)] })
        else s.emit (epFlits other vc pkt)) := by
  rw [exec_relay, execRelay]
  exact congrArg _ (if_pos ⟨hport, hcfg, hup, hdst, hsrc, hplane⟩)

/-- Settles O14: one lemma for each command, under the conditions that its check asks for. -/
theorem packetsAreForwarded : Obligations.PacketsAreForwarded := by
  intro s
  refine ⟨fun port vc pkt => packetForward_present, fun port vc v x => voqEnqueue_room,
    fun port pkt => multicastForward_up, fun port flits t i r hrun hup hr pkts => runnerBurst_leaves hrun hup hr,
    fun t => runnerRestore_full, fun port pkt hport hcfg hup hdst hsrc hplane => ?_⟩
  have hrelay := relay_between hport hcfg hup hdst hsrc hplane
  exact ⟨fun hgo => by rw [hrelay]; simp [hgo], fun hstop => by rw [hrelay]; simp [hstop]⟩

/-! ### Flits that a port sends (R237, R242, R260, R475) -/

theorem exec_egressFlitSend (port : Fin 64) (t : Time) (s : State) :
    exec (.egressFlitSend port t) s = execEgressFlitSend port t s := rfl

@[simp] theorem quadUp_at_ (s : State) (t : Time) (q : Nat) : quadUp (s.at_ t) q = quadUp s q := rfl

@[simp] theorem linkOf_at_ (s : State) (t : Time) (p : Nat) : linkOf (s.at_ t) p = linkOf s p := rfl

section
variable {s : State} {port : Fin 64} {t : Time} (hrun : Running s) (hquad : quadUp s (port.val / 16) = true)
  (hflits : flitsRun (linkOf s port) = true) (hawake : (linkOf s port).sleepTx = false)
include hrun hquad hflits hawake

/-! A port whose flits run: out of service, it sends IDLE; in service, a Runner flit that is due goes first. -/

theorem egressFlitSend_out (hup : portUp s port = false) : exec (.egressFlitSend port t) s =
    .next (sendFlit (s.at_ t) port (flitWith (s.at_ t) port t [] 0 false false true false)) := by
  rw [exec_egressFlitSend, execEgressFlitSend, up_run hrun]
  simp [hquad, hflits, hawake, hup]

theorem egressFlitSend_runner {b : BurstFlit} (hup : portUp s port = true)
    (hb : (s.swc.bursts.find? fun b => decide (b.port = port ∧ b.at_ ≤ t)) = some b) :
    exec (.egressFlitSend port t) s = .next (sendRunner (s.at_ t) port t b) := by
  rw [exec_egressFlitSend, execEgressFlitSend, up_run hrun]
  simp [hquad, hflits, hawake, hup, hb, -Bool.decide_and]

theorem egressFlitSend_idle (hup : portUp s port = true)
    (hb : (s.swc.bursts.find? fun b => decide (b.port = port ∧ b.at_ ≤ t)) = none)
    (hidle : 512 ≤ (linkOf s port).held.length ∨ replayWaits (s.at_ t) port = true ∨ nextVc (s.at_ t) port t = none) :
    exec (.egressFlitSend port t) s =
      .next (sendFlit (s.at_ t) port (flitWith (s.at_ t) port t [] 0 false false true false)) := by
  rw [exec_egressFlitSend, execEgressFlitSend, up_run hrun]
  rcases hidle with hfull | hreplay | hnone
  · simp [hquad, hflits, hawake, hup, hb, hfull, -Bool.decide_and]
  · simp [hquad, hflits, hawake, hup, hb, hreplay, -Bool.decide_and]
  · simp [hquad, hflits, hawake, hup, hb, hnone, -Bool.decide_and]

theorem egressFlitSend_ordinary {vc : Fin 8} {rr : Nat} {df : Tbl Nat} (hup : portUp s port = true)
    (hb : (s.swc.bursts.find? fun b => decide (b.port = port ∧ b.at_ ≤ t)) = none)
    (hroom : (linkOf s port).held.length < 512) (hnew : replayWaits (s.at_ t) port = false)
    (hvc : nextVc (s.at_ t) port t = some (vc, rr, df)) : exec (.egressFlitSend port t) s = .next (sendOrdinary
      (onFc ((s.at_ t).onSwc fun c => { c with deficit := df }) port fun c => { c with rrVc := rr }) port t vc) := by
  rw [exec_egressFlitSend, execEgressFlitSend, up_run hrun]
  simp [hquad, hflits, hawake, hup, hb, Nat.not_le.2 hroom, hnew, hvc, -Bool.decide_and]

end

/-! ### Flits that a port takes in, and flits sent again (R476 to R479) -/

theorem exec_flitReceive_zs (port : Fin 64) (f : Flit) (s : State) : exec (.flitReceive ⟨.zs, port⟩ f) s =
    up s fun s => capCheck (flitIn port f s) false := rfl

theorem exec_flitReceive_ze (port : Fin 64) (f : Flit) (s : State) :
    exec (.flitReceive ⟨.ze, port⟩ f) s = .next (epFlitIn s port f) := rfl

theorem exec_replay (port : Fin 64) (t : Time) (s : State) : exec (.replay port t) s = execReplay port t s := rfl

theorem exec_receiverWaitTimeout (port : Fin 64) (t : Time) (s : State) :
    exec (.receiverWaitTimeout port t) s = execReceiverWaitTimeout port t s := rfl

@[simp] theorem linkOf_countReplay (s : State) (p : Nat) : linkOf (countReplay s) p = linkOf s p := rfl

/-- Two changes of a link that agree on what it holds are the same change of the state. -/
theorem onLink_congr {s : State} {p : Nat} {f g : LinkSt → LinkSt} (h : f (linkOf s p) = g (linkOf s p)) :
    onLink s p f = onLink s p g := by
  rw [onLink, onLink, h]

/-- A NAK asked for the replay, so the sender's run of timeouts stays as it is. -/
theorem replay_nak {s : State} {port : Fin 64} {t : Time} (hrun : Running s) (hup : portUp s port = true)
    (hdue : (linkOf s port).replayDue = true) : exec (.replay port t) s =
      .next (runCheck ((linkOf s port).held.foldl (fun s h =>
          putFlit s port (Flit.sealed
            { h.flit with xoff := (fcOf s port).xoffTx, ack := (linkOf s port).expect, nak := false }))
        (onLink (countReplay (s.at_ t)) port fun l => { l with
          replayDue := false, advanced := (s.at_ t).now, replays := bump l.replays, txRun := l.txRun
          lastTx := if l.held.isEmpty then l.lastTx else (s.at_ t).now })) port) := by
  have hwaits : replayWaits (s.at_ t) port = true := by simp [replayWaits, hdue]
  rw [exec_replay, execReplay, up_run hrun]
  dsimp only
  rw [if_neg (by simp [hup, hwaits]), linkOf_at_]
  congr 3
  exact onLink_congr (by simp [hdue])

/-- A receiver that has waited 2 µs sends a NAK again. -/
theorem receiverWaitTimeout_due {s : State} {port : Fin 64} {t w : Time} (hrun : Running s)
    (hw : (linkOf s port).wait = some w) (hdue : due (s.at_ t).now w (us 2) = true) :
    exec (.receiverWaitTimeout port t) s = .next (runCheck (onLink (s.at_ t) port fun l =>
      { l with nakDue := true, rxRun := l.rxRun + 1, wait := some (s.at_ t).now }) port) := by
  rw [exec_receiverWaitTimeout, execReceiverWaitTimeout, up_run hrun]
  simp only [linkOf_at_, hw, hdue, if_true]

/-! ### Links that fail, sleep and wake (R480, R482, R484) -/

theorem exec_linkFail (port : Fin 64) (cause : BitVec 4) (s : State) :
    exec (.linkFail port cause) s = execLinkFail port cause s := rfl

theorem exec_lossOfSignal (port : Fin 64) (t : Time) (s : State) :
    exec (.lossOfSignal port t) s = execLossOfSignal port t s := rfl

theorem exec_sleepEnter (port : Fin 64) (t : Time) (s : State) :
    exec (.sleepEnter port t) s = execSleepEnter port t s := rfl

theorem exec_sleepWake (port : Fin 64) (s : State) : exec (.sleepWake port) s = execSleepWake port s := rfl

theorem linkFail_up {s : State} {port : Fin 64} {cause : BitVec 4} (hrun : Running s) (hup : portUp s port = true)
    (hcause : cause = failREPLAY ∨ cause = failSIGNAL ∨ cause = failOVERRUN ∨ cause = failDISABLED) :
    exec (.linkFail port cause) s = .next (failLink s port cause) := by
  rw [exec_linkFail, execLinkFail, up_run hrun, if_pos ⟨hup, hcause⟩]

theorem lossOfSignal_due {s : State} {port : Fin 64} {t : Time} (hrun : Running s) (hup : portUp s port = true)
    (hawake : (linkOf s port).sleepRx = false) (hdue : due (s.at_ t).now (linkOf s port).lastGood (us 1) = true) :
    exec (.lossOfSignal port t) s = .next (failLink (s.at_ t) port failSIGNAL) := by
  rw [exec_lossOfSignal, execLossOfSignal, up_run hrun]
  exact congrArg _ (if_pos ⟨hup, by rw [linkOf_at_, hawake]; rfl, hdue⟩)

theorem sleepEnter_idle {s : State} {port : Fin 64} {t : Time} (hrun : Running s)
    (h : maySleep (s.at_ t) port (s.at_ t).now = true) : exec (.sleepEnter port t) s =
      let s := onLink (s.at_ t) port fun l => { l with mgmt := (0x10, 0) :: l.mgmt }
      .next (capCheck (onLink (sendFlit s port (flitWith s port t [] 0 false false true false)) port
        fun l => { l with sleepTx := true }) false) := by
  rw [exec_sleepEnter, execSleepEnter, up_run hrun]
  exact congrArg _ (if_pos h)

theorem sleepWake_waits {s : State} {port : Fin 64} (hrun : Running s) (hup : portUp s port = true)
    (hwaits : flitWaits s port = true) : exec (.sleepWake port) s = .next (wakeTx s port) := by
  rw [exec_sleepWake, execSleepWake, up_run hrun, if_pos ⟨hup, hwaits⟩]

/-- Settles O15: one lemma for each flit that a port may send, and one for each command of the link. -/
theorem flitsMoveOnLinks : Obligations.FlitsMoveOnLinks := by
  intro s port t hrun
  refine ⟨fun hquad hflits hawake => ⟨?_, fun b => egressFlitSend_runner hrun hquad hflits hawake,
      fun vc rr df => egressFlitSend_ordinary hrun hquad hflits hawake⟩,
    fun f => (exec_flitReceive_zs port f s).trans (up_run hrun), fun f => exec_flitReceive_ze port f s, replay_nak hrun,
    fun w => receiverWaitTimeout_due hrun, fun cause => linkFail_up hrun, lossOfSignal_due hrun, sleepEnter_idle hrun,
    sleepWake_waits hrun⟩
  rintro (hout | ⟨hnone, hidle⟩)
  · exact egressFlitSend_out hrun hquad hflits hawake hout
  · cases hup : portUp s port with
    | false => exact egressFlitSend_out hrun hquad hflits hawake hup
    | true => exact egressFlitSend_idle hrun hquad hflits hawake hup hnone hidle

end Sys2Proof.Machine
end

section
/-! PROOFS. The Crucible engine: what a thread group's instruction changes and leaves alone, when no group issues, and
what the scalar instructions compute. -/

namespace Sys2Proof.Machine

/-! ### When a group issues (R284, R329, R360) -/

/-- A group that may not run issues nothing. -/
theorem issue_of_not_mayRun {s : State} {g : GroupId} {pr : Program} {op : Nat} {k : Ctx → State → State}
    (hp : prog? s g.prog.toNat = some pr) (hstop : mayRun s g pr = false) : issue s g op k = s := by
  simp only [issue, hp, hstop, Bool.not_false, if_true]

/-- A group that stands inside its code issues its instruction or leaves the state as it is. -/
theorem issue_cases {s : State} {g : GroupId} {pr : Program} (op : Nat) (k : Ctx → State → State)
    (hp : prog? s g.prog.toNat = some pr) (hpc : (pr.code[(cruGroup pr g.grp).pc]?).isSome = true) :
    issue s g op k = s ∨
      ∃ c : Ctx, c.p = g.prog.toNat ∧ c.g = g.grp.val ∧ issue s g op k = k c (served s c) := by
  obtain ⟨w, hw⟩ := Option.isSome_iff_exists.1 hpc
  simp only [issue, hp, hw]
  split
  · exact .inl rfl
  · split
    · exact .inr ⟨_, rfl, rfl, rfl⟩
    · exact .inl rfl

/-- A paused engine, a program that does not run, and a group that has ended or waits in MBOX bar the group. -/
theorem mayRun_eq_false {s : State} {g : GroupId} {pr : Program}
    (h : paused s (g.prog.toNat / 16) = true ∨ pr.state ≠ .running ∨ (cruGroup pr g.grp).ended = true
      ∨ (cruGroup pr g.grp).mboxWait.isSome = true) : mayRun s g pr = false := by
  simp only [mayRun]
  rcases h with h | h | h | h
  · simp [h]
  · simp [h]
  · simp [h]
  · simp [← Option.not_isSome, h]

/-- Every instruction of a thread group is one that the group issues. -/
theorem exec_ofGroup {g : GroupId} {c : Instr} (h : ofGroup g c = true) :
    ∃ (op : Nat) (k : Ctx → State → State), ∀ s, exec c s = up s fun s => issue s g op k := by
  cases c with
  | add _ | sub _ | mul _ | and _ | or _ | xor _ | shl _ | shr _ | sar _ | min _ | max _ | li _ | sread _ | cmp _
  | jmp _ | bany _ | ball _ | act _ | msave _ | mrest _ | endGroup _ | lds _ | sts _ | ldg _ | crucibleFence _
  | cread _ | mbox _ | poolOpen _ | poolClose _ | aclr _ | aadd _ | aread _ | asave _ | aimg _ | wload _ | wswap _
  | mma _ | vld _ | vst _ | vadd _ | vsub _ | vmul _ | vmax _ | vmin _ | vfma _ | vbcast _ | rngset _ | gather _
  | atom _ | crucibleStore _ | signal _ | vcvt _ | vpack _ | rng _ =>
    cases eq_of_beq h
    exact ⟨_, _, fun _ => rfl⟩
  | _ => exact absurd h Bool.false_ne_true

/-- Settles O59: each instruction is an issue of its group, and a group that may not run issues nothing. -/
theorem pausedEngineIssuesNothing : Obligations.PausedEngineIssuesNothing := by
  intro s g pr hp hbar c hc
  obtain ⟨op, k, hexec⟩ := exec_ofGroup hc
  rw [hexec, up, issue_of_not_mayRun hp (mayRun_eq_false hbar), ite_self]

/-! ### What an instruction of registers leaves alone (R284, R285, R360) -/

/-- A write to a group of program `p` leaves every other program as it is. -/
theorem prog?_onGroup (s : State) (p g p' : Nat) (f : Group → Group) : prog? (onGroup s p g f) p' =
    if p' = p then (prog? s p).map fun pr => { pr with groups := pr.groups.set g (f (cruGroup pr g)) }
    else prog? s p' := by
  simp only [prog?, onGroup, onProg, State.onCru_cru, Tbl.modify]
  by_cases hp : p' = p
  · cases hpr : s.cru.progs.get? p <;> simp [hp, hpr]
  · cases hpr : s.cru.progs.get? p <;> simp [hp, Tbl.get?_set_ne]

/-- `t` differs from `s` at most in group `g` of program `p`, in what a pipe of an engine served last, and in where
earlier requests of the group return to. -/
structure GroupFrame (p g : Nat) (s t : State) : Prop where
  rest : { t with cru := s.cru } = s
  cru : { t.cru with progs := s.cru.progs, engines := s.cru.engines, reqs := s.cru.reqs } = s.cru
  engines : ∀ e, { engineOf t e with last := (engineOf s e).last } = engineOf s e
  reqs : (t.cru.reqs.map fun q => { q with kind := .raw }) = s.cru.reqs.map fun q => { q with kind := .raw }
  others : (t.cru.reqs.filter fun q => decide (q.prog ≠ p ∨ q.grp ≠ g)) =
    s.cru.reqs.filter fun q => decide (q.prog ≠ p ∨ q.grp ≠ g)
  progs : ∀ p', p' ≠ p → prog? t p' = prog? s p'
  prog : ∀ pr, prog? s p = some pr → ∃ pr', prog? t p = some pr' ∧ { pr' with groups := pr.groups } = pr ∧
    ∀ n, n ≠ g → cruGroup pr' n = cruGroup pr n

namespace GroupFrame

variable {p g : Nat} {s t u : State}

theorem refl (p g : Nat) (s : State) : GroupFrame p g s s :=
  ⟨rfl, rfl, fun _ => rfl, rfl, rfl, fun _ _ => rfl, fun pr h => ⟨pr, h, rfl, fun _ _ => rfl⟩⟩

theorem trans (h1 : GroupFrame p g s t) (h2 : GroupFrame p g t u) : GroupFrame p g s u where
  rest := by rw [← h1.rest, ← h2.rest]
  cru := by rw [← h1.cru, ← h2.cru]
  engines e := by rw [← h1.engines e, ← h2.engines e]
  reqs := h2.reqs.trans h1.reqs
  others := h2.others.trans h1.others
  progs p' hp := (h2.progs p' hp).trans (h1.progs p' hp)
  prog pr hpr := by
    obtain ⟨pr1, hpr1, heq1, hgr1⟩ := h1.prog pr hpr
    obtain ⟨pr2, hpr2, heq2, hgr2⟩ := h2.prog pr1 hpr1
    exact ⟨pr2, hpr2, by rw [← heq1, ← heq2], fun n hn => (hgr2 n hn).trans (hgr1 n hn)⟩

/-- A pipe that serves the group changes what it served last, and no more. -/
theorem of_served (s : State) (c : Ctx) : GroupFrame p g s (served s c) :=
  { refl p g s with
    engines := fun e => by
      by_cases he : e = c.p / 16
      · subst he
        simp only [served, onEngine, engineOf, State.onCru_cru, Tbl.getD, Tbl.get?_set, Option.getD_some]
      · simp only [served, onEngine, engineOf, State.onCru_cru, Tbl.getD, Tbl.get?_set_ne _ _ _ _ he] }

/-- A write to the group itself. -/
theorem of_onGroup (s : State) (f : Group → Group) : GroupFrame p g s (onGroup s p g f) :=
  { refl p g s with
    progs := fun p' hp => by rw [prog?_onGroup, if_neg hp]
    prog := fun pr hpr => by
      refine ⟨{ pr with groups := pr.groups.set g (f (cruGroup pr g)) }, ?_, rfl, fun n hn => ?_⟩
      · rw [prog?_onGroup, if_pos rfl, hpr, Option.map_some]
      · simp only [cruGroup, Tbl.getD, Tbl.get?_set_ne _ _ _ _ hn] }

/-- A change of where the group's own requests return to. -/
theorem of_mapReqs (s : State) (F : LineReq → LineReq)
    (hkind : ∀ q, { F q with kind := .raw } = { q with kind := .raw })
    (hother : ∀ q : LineReq, q.prog ≠ p ∨ q.grp ≠ g → F q = q) :
    GroupFrame p g s (s.onCru fun c => { c with reqs := c.reqs.map F }) :=
  { refl p g s with
    reqs := by simp only [State.onCru_cru, List.map_map]; exact List.map_congr_left fun q _ => hkind q
    others := by
      have hsame (q : LineReq) : (F q).prog = q.prog ∧ (F q).grp = q.grp :=
        ⟨(congrArg LineReq.prog (hkind q) :), (congrArg LineReq.grp (hkind q) :)⟩
      simp only [State.onCru_cru, List.filter_map, Function.comp_def, hsame]
      exact (List.map_congr_left fun q hq => hother q (of_decide_eq_true (List.mem_filter.1 hq).2)).trans
        (List.map_id' _) }

theorem of_supersede (s : State) (p g r : Nat) (ths : List Nat) : GroupFrame p g s (supersede s p g r ths) := by
  refine of_mapReqs s _ (fun q => ?_) (fun q hq => if_neg fun h => hq.elim (· h.1) (· h.2.1))
  split
  · cases q.kind <;> (dsimp only; try split) <;> rfl
  · rfl

end GroupFrame

/-! ### The register instructions (R359 to R361) -/

section
variable {p g : Nat} {s t : State} (c : Ctx)

theorem GroupFrame.onGr (f : Group → Group) (h : GroupFrame c.p c.g s t) : GroupFrame c.p c.g s (onGr t c f) :=
  h.trans (.of_onGroup t f)

theorem GroupFrame.nextPc (h : GroupFrame c.p c.g s t) : GroupFrame c.p c.g s (nextPc t c) :=
  h.onGr c fun g => { g with pc := c.gr.pc + 1 }

theorem GroupFrame.setAll (f : Nat → BitVec 64) (h : GroupFrame c.p c.g s t) : GroupFrame c.p c.g s (setAll t c f) :=
  (h.trans (.of_supersede t c.p c.g c.i.d _)).onGr c _

end

/-- A register instruction writes registers, the mask and the program counter of its group. -/
theorem exec_movesRegisters {g : GroupId} {c : Instr} (h : movesRegisters g c = true) :
    ∃ (op : Nat) (k : Ctx → State → State), (∀ s, exec c s = up s fun s => issue s g op k) ∧
      ∀ (x : Ctx) (s : State), GroupFrame x.p x.g s (k x s) := by
  cases c with
  | add _ | sub _ | mul _ | and _ | or _ | xor _ | shl _ | shr _ | sar _ | min _ | max _ | li _ | cmp _ =>
    cases eq_of_beq h
    exact ⟨_, _, fun _ => rfl, fun x s => .nextPc x (.setAll x _ (.refl ..))⟩
  | jmp _ | bany _ | ball _ =>
    cases eq_of_beq h
    exact ⟨_, _, fun _ => rfl, fun x s => .onGr x _ (.refl ..)⟩
  | act _ | msave _ | mrest _ =>
    cases eq_of_beq h
    exact ⟨_, _, fun _ => rfl, fun x s => .nextPc x (.onGr x _ (.refl ..))⟩
  | _ => exact absurd h Bool.false_ne_true

/-- Settles O60: the instruction is issued or left, and what it does is a chain of steps that each keep the frame. -/
theorem registerInstructionsFrame : Obligations.RegisterInstructionsFrame := by
  intro s t g pr hp hpc c hc hnext
  obtain ⟨op, k, hexec, hk⟩ := exec_movesRegisters hc
  have hframe : GroupFrame g.prog.toNat g.grp.val s t := by
    rw [hexec, up] at hnext
    cases hnext
    split
    · obtain hstay | ⟨x, hxp, hxg, hrun⟩ := issue_cases op k hp hpc
      · rw [hstay]; exact .refl ..
      · rw [hrun, ← hxp, ← hxg]; exact (GroupFrame.of_served s x).trans (hk x _)
    · exact .refl ..
  obtain ⟨hrest, hcru, heng, hreqs, hothers, hprogs, hprog⟩ := hframe
  exact ⟨hrest, hcru, heng, hreqs, hothers, hprogs, hprog pr hp⟩

/-! ### What the scalar instructions compute (R361) -/

theorem exec_scalarRow : ∀ row ∈ scalarRows, ∀ (g : GroupId) (s : State),
    exec (row.1 g) s = up s fun s => issue s g row.2.1 (scalar row.2.2) := by
  simp only [scalarRows, List.forall_mem_cons, List.not_mem_nil, false_implies, implies_true, and_true]
  and_intros <;> exact fun _ _ => rfl

/-- A scalar instruction writes one group: its result goes to register D of each active thread. -/
theorem scalar_eq_onGroup {s : State} {c : Ctx} (f : BitVec 64 → BitVec 64 → BitVec 64) (hp : prog? s c.p = some c.pr)
    (hgr : c.gr = cruGroup c.pr c.g) : scalar f c s =
      onGroup (supersede s c.p c.g c.i.d (activeThreads c.gr)) c.p c.g fun _ =>
        { (activeThreads c.gr).foldl (fun g th => setT g th c.i.d (f (tA c th) (op2 c th))) c.gr with
          pc := c.gr.pc + 1 } :=
  onGr_onGr (supersede s c.p c.g c.i.d (activeThreads c.gr)) c _ (fun g => { g with pc := c.gr.pc + 1 }) c.pr hp hgr

theorem setT_regs (g : Group) (th r : Nat) (v : BitVec 64) (l : Tbl (BitVec 64)) :
    { setT g th r v with regs := l } = { g with regs := l } := by
  unfold setT; split <;> rfl

theorem foldl_setT_regs (ths : List Nat) (g : Group) (r : Nat) (f : Nat → BitVec 64) (l : Tbl (BitVec 64)) :
    { ths.foldl (fun g th => setT g th r (f th)) g with regs := l } = { g with regs := l } := by
  induction ths generalizing g with
  | nil => rfl
  | cons th ths ih => rw [List.foldl_cons, ih, setT_regs]

/-- An instruction that a group issues names a register below 32. -/
theorem Issues.d_lt {s : State} {g : GroupId} {op : Nat} {c : Ctx} (h : Issues s g op c) : c.i.d < 32 := by
  obtain ⟨-, -, -, -, -, -, hi, -⟩ := h
  obtain ⟨w, -, hw⟩ := Option.map_eq_some_iff.1 hi
  rw [← hw]
  exact Ins.of_d_lt w

/-- Settles O17: the group's registers after the fold over the active threads, and the rest of the group as it was. A
request that was to write register D returns to nowhere, as log entry 190 deduces it. -/
theorem scalarInstructionsCompute : Obligations.ScalarInstructionsCompute := by
  intro row hrow s g c h
  have hd := h.d_lt
  have hexec : exec (row.1 g) s = .next (scalar row.2.2 c (served s c)) :=
    (exec_scalarRow row hrow g s).trans (issue_run h)
  obtain ⟨-, -, -, hp, hgr, -⟩ := h
  refine ⟨_, hexec.trans (congrArg _ (scalar_eq_onGroup (s := served s c) row.2.2 hp hgr)), rfl, fun th r hr => ?_, ?_⟩
  · refine (fold_setT _ (activeThreads_nodup c.gr) c.gr c.i.d r th (fun th => row.2.2 (tA c th) (op2 c th)) hd hr).trans
      (ite_congr (propext ?_) (fun _ => rfl) fun _ => rfl)
    exact and_congr_right fun _ => and_congr_right fun hrd => by rw [hrd]
  · exact congrArg (fun gr => { gr with pc := c.gr.pc }) (foldl_setT_regs (activeThreads c.gr) c.gr c.i.d _ c.gr.regs)

end Sys2Proof.Machine
end

section
/-! PROOFS. Numbers of the engine: exact accumulators do not depend on the order of their addends, and NaN is delivered
canonically. -/

namespace Sys2Proof.Machine

/-! ### Exact accumulators (R306, R307, R309) -/

/-- What one addend adds: its units on the grid, or the flag that it sets instead. -/
def addendOf (x : Num) : Accum where
  a := BitVec.ofInt 320 ((gridUnits x).getD 0)
  nan := x == .nan
  posInf := gridUnits x == none && x != .nan && !(Num.lt x Num.zero)
  negInf := gridUnits x == none && x != .nan && Num.lt x Num.zero

theorem gridUnits_fin (s : Bool) (m : Nat) (e : Int) : gridUnits (.fin s m e) =
    if m ≠ 0 ∧ (Nat.log2 m : Int) + e ≥ 128 then none
    else some (if s then -(roundUnits m e (-160) .rne : Int) else roundUnits m e (-160) .rne) := rfl

/-- A magnitude other than 0 is below 0 by its sign. -/
theorem lt_zero_fin (s : Bool) {m : Nat} (e : Int) (hm : m ≠ 0) : Num.lt (.fin s m e) Num.zero = s := by
  have hpos : 0 < m <<< (e - min e 0).toNat := by
    rw [Nat.shiftLeft_eq]
    exact Nat.mul_pos (Nat.pos_of_ne_zero hm) (Nat.two_pow_pos _)
  cases s
  · simp only [Num.lt, Num.zero, Num.onGrid, Nat.zero_shiftLeft, Bool.false_eq_true, if_false, Bool.and_false,
      Bool.false_and, Bool.or_false]
    exact decide_eq_false (by omega)
  · simp only [Num.lt, Num.zero, Num.onGrid, if_true, Nat.zero_shiftLeft, Bool.false_eq_true, if_false]
    rw [decide_eq_true (by omega), Bool.true_or]

theorem addNum_eq_addImage (c : Accum) (x : Num) : c.addNum x = c.addImage (addendOf x) := by
  cases x with
  | nan => simp [Accum.addNum, Accum.addImage, addendOf, gridUnits]
  | inf s => cases s <;> simp [Accum.addNum, Accum.addImage, addendOf, gridUnits, Num.lt, Num.zero]
  | fin s m e =>
    by_cases hbig : m ≠ 0 ∧ (Nat.log2 m : Int) + e ≥ 128
    · have hlt := lt_zero_fin s e hbig.1
      cases s <;> simp [Accum.addNum, Accum.addImage, addendOf, gridUnits_fin, hbig, hlt]
    · cases s <;> simp [Accum.addNum, Accum.addImage, addendOf, gridUnits_fin, hbig, BitVec.sub_eq_add_neg,
        BitVec.ofInt_neg]

theorem addImage_right_comm (c d e : Accum) : (c.addImage d).addImage e = (c.addImage e).addImage d := by
  simp only [Accum.addImage, Bool.or_right_comm, BitVec.add_assoc, BitVec.add_comm d.a]

theorem addImage_comm (c d : Accum) : c.addImage d = d.addImage c := by
  simp only [Accum.addImage, Bool.or_comm, BitVec.add_comm]

theorem addNum_addImage (c d : Accum) (x : Num) : (c.addImage d).addNum x = (c.addNum x).addImage d := by
  rw [addNum_eq_addImage, addNum_eq_addImage, addImage_right_comm]

/-- An image may be added before or after a list of addends. -/
theorem foldl_addNum_addImage (c d : Accum) (xs : List Num) :
    xs.foldl Accum.addNum (c.addImage d) = (xs.foldl Accum.addNum c).addImage d := by
  induction xs generalizing c with
  | nil => rfl
  | cons x xs ih => rw [List.foldl_cons, List.foldl_cons, addNum_addImage, ih]

/-- What an accumulator holds after a list of addends: the sum of the units, and the OR of the flags. -/
theorem foldl_addNum (c : Accum) (xs : List Num) : xs.foldl Accum.addNum c =
    { a := c.a + BitVec.ofInt 320 (xs.filterMap gridUnits).sum
      nan := c.nan || xs.any fun x => x == .nan
      posInf := c.posInf || xs.any fun x => gridUnits x == none && x != .nan && !(Num.lt x Num.zero)
      negInf := c.negInf || xs.any fun x => gridUnits x == none && x != .nan && Num.lt x Num.zero } := by
  induction xs generalizing c with
  | nil => simp
  | cons x xs ih =>
    have hsum : ((x :: xs).filterMap gridUnits).sum = (gridUnits x).getD 0 + (xs.filterMap gridUnits).sum := by
      cases hx : gridUnits x <;> simp [hx]
    rw [List.foldl_cons, ih, addNum_eq_addImage]
    simp only [Accum.addImage, addendOf, hsum, BitVec.ofInt_add, BitVec.add_assoc, List.any_cons, Bool.or_assoc]

theorem foldl_addNum_perm {xs ys : List Num} (c : Accum) (h : xs.Perm ys) :
    xs.foldl Accum.addNum c = ys.foldl Accum.addNum c :=
  h.foldl_eq' (fun x _ y _ c => by simp only [addNum_eq_addImage, addImage_right_comm]) c

/-! ### Exactness (R307) -/

/-- A magnitude below 2 ^ 128 with a significand below 2 ^ 128 has fewer than 2 ^ 288 units of 2 ^ -160. -/
theorem roundUnits_lt {m : Nat} {e : Int} (hm : m < 2 ^ 128) (hmag : m = 0 ∨ (Nat.log2 m : Int) + e < 128) :
    roundUnits m e (-160) .rne < 2 ^ 288 := by
  unfold roundUnits
  split
  case isTrue he =>
    rw [Nat.shiftLeft_eq]
    rcases hmag with hz | hmag
    · simpa only [hz, Nat.zero_mul] using Nat.two_pow_pos 288
    · calc m * 2 ^ (e - -160).toNat
          < 2 ^ (Nat.log2 m + 1) * 2 ^ (e - -160).toNat :=
            Nat.mul_lt_mul_of_pos_right Nat.lt_log2_self (Nat.two_pow_pos _)
        _ = 2 ^ (Nat.log2 m + 1 + (e - -160).toNat) := (Nat.pow_add ..).symm
        _ ≤ 2 ^ 288 := Nat.pow_le_pow_right (by decide) (by omega)
  case isFalse =>
    have hshift : m >>> (-160 - e).toNat ≤ m := by
      rw [Nat.shiftRight_eq_div_pow]
      exact Nat.div_le_self ..
    have hpow : 2 ^ 128 < 2 ^ 288 := Nat.pow_lt_pow_right (by decide) (by decide)
    dsimp only
    split
    · exact Nat.lt_of_le_of_lt (Nat.succ_le_of_lt (Nat.lt_of_le_of_lt hshift hm)) hpow
    · exact Nat.lt_trans (Nat.lt_of_le_of_lt hshift hm) hpow

theorem gridUnits_natAbs_lt {x : Num} {n : Int} (h : gridUnits x = some n)
    (hm : ∀ s m e, x = .fin s m e → m < 2 ^ 128) : n.natAbs < 2 ^ 288 := by
  cases x with
  | nan | inf _ => cases h
  | fin s m e =>
    rw [gridUnits_fin] at h
    split at h
    · cases h
    next hfits =>
      have hlt : roundUnits m e (-160) .rne < 2 ^ 288 := roundUnits_lt (hm s m e rfl) (by omega)
      cases h
      cases s
      · exact hlt
      · rw [if_pos rfl, Int.natAbs_neg]
        exact hlt

/-- Numbers below a bound in magnitude sum to less than the bound for each of them. -/
theorem natAbs_sum_add_length_le {B : Nat} : ∀ {l : List Int}, (∀ n ∈ l, n.natAbs < B) →
    l.sum.natAbs + l.length ≤ l.length * B
  | [], _ => by simp
  | n :: l, h => by
    have hn := h n List.mem_cons_self
    have hl := natAbs_sum_add_length_le fun k hk => h k (List.mem_cons_of_mem n hk)
    rw [List.sum_cons, List.length_cons, Nat.succ_mul]
    omega

/-- At most 2 ^ 31 addends sum to less than an accumulator can hold. -/
theorem natAbs_sum_gridUnits_lt {xs : List Num} (hlen : xs.length ≤ 2 ^ 31)
    (hm : ∀ s m e, Num.fin s m e ∈ xs → m < 2 ^ 128) : ((xs.filterMap gridUnits).sum).natAbs < 2 ^ 319 := by
  have heach : ∀ n ∈ xs.filterMap gridUnits, n.natAbs < 2 ^ 288 := fun n hn => by
    obtain ⟨x, hx, hxn⟩ := List.mem_filterMap.1 hn
    exact gridUnits_natAbs_lt hxn fun s m e h => hm s m e (h ▸ hx)
  have hsum := natAbs_sum_add_length_le heach
  have hcap : (xs.filterMap gridUnits).length * 2 ^ 288 ≤ 2 ^ 319 :=
    calc (xs.filterMap gridUnits).length * 2 ^ 288
        ≤ 2 ^ 31 * 2 ^ 288 := Nat.mul_le_mul_right _ (Nat.le_trans (List.length_filterMap_le ..) hlen)
      _ = 2 ^ 319 := (Nat.pow_add 2 31 288).symm
  rcases Nat.eq_zero_or_pos (xs.filterMap gridUnits).length with hz | hpos
  · simpa only [List.length_eq_zero_iff.1 hz, List.sum_nil, Int.natAbs_zero] using Nat.two_pow_pos 319
  · exact Nat.lt_of_lt_of_le (Nat.lt_of_lt_of_le (Nat.lt_add_of_pos_right hpos) hsum) hcap

/-- Settles O50: each addend adds its image, images commute, and the sum of 2 ^ 31 of them does not overflow. -/
theorem sumsDoNotDependOnOrder : Obligations.SumsDoNotDependOnOrder := by
  refine ⟨fun c xs => ?_, fun c xs ys => foldl_addNum_perm c, fun c d xs ys => ?_, fun xs hlen hm => ?_⟩
  · rw [foldl_addNum]
    exact ⟨rfl, rfl, rfl, rfl⟩
  · rw [List.foldl_append, foldl_addNum_addImage, addImage_comm _ d, addImage_comm _ (ys.foldl _ d),
      foldl_addNum_addImage]
  · have hlt := natAbs_sum_gridUnits_lt hlen hm
    rw [foldl_addNum]
    change (0#320 + BitVec.ofInt 320 _).toInt = _
    rw [BitVec.zero_add]
    exact BitVec.toInt_ofInt_eq_self (by decide) (by omega) (by omega)

/-! ### NaN (R313, R315) -/

section
variable {f : Nat}

/-- A code of BF16, FP16 or FP32 is NaN when its exponent is all ones and its mantissa is not 0. -/
theorem decodeElem_eq_nan_iff (hf : f = 6 ∨ f = 7 ∨ f = 8) (code : Nat) : decodeElem f code = .nan ↔
    bitsOf code (fmtOf f).mb (fmtOf f).eb = 2 ^ (fmtOf f).eb - 1 ∧ bitsOf code 0 (fmtOf f).mb ≠ 0 := by
  have hkind : f ≠ 3 ∧ f ≠ 5 ∧ f ≠ 9 ∧ f ≠ 10 ∧ 6 ≤ f := by omega
  obtain ⟨h3, h5, h9, h10, h6⟩ := hkind
  simp only [decodeElem, h3, h5, h9, h10, h6, false_and, if_false, or_true, true_and]
  by_cases hex : bitsOf code (fmtOf f).mb (fmtOf f).eb = 2 ^ (fmtOf f).eb - 1
  · by_cases hmt : bitsOf code 0 (fmtOf f).mb = 0 <;>
      simp only [hex, hmt, if_true, if_false, reduceCtorEq, ne_eq, not_true, not_false_eq_true, and_false, and_true]
  · simp only [hex, if_false, false_and, iff_false]
    split <;> exact Num.noConfusion

/-- No code up to that of infinity, with either sign, is NaN. -/
theorem decodeElem_signCode_ne_nan (hf : f = 6 ∨ f = 7 ∨ f = 8) (s : Bool) {c : Nat} (hc : c ≤ (fmtOf f).maxCode + 1) :
    decodeElem f (signCode f s + c) ≠ .nan := by
  rw [Ne, decodeElem_eq_nan_iff hf]
  rcases hf with rfl | rfl | rfl <;> cases s <;>
    simp only [fmtOf, signCode, fmtBits, bitsOf, Nat.shiftRight_eq_div_pow, Bool.false_eq_true, if_true,
      if_false] at hc ⊢ <;> omega

/-- A number that is not NaN is delivered as a sign and a code up to that of infinity. -/
theorem encode_eq_signCode_add (hf : f = 6 ∨ f = 7 ∨ f = 8) {x : Num} (hx : x ≠ .nan) (md : Round) :
    ∃ s c, encode f x md = signCode f s + c ∧ c ≤ (fmtOf f).maxCode + 1 := by
  have hint : f ≠ 9 ∧ f ≠ 10 := by omega
  cases x with
  | nan => exact absurd rfl hx
  | inf s => exact ⟨s, (fmtOf f).maxCode + 1, by simp only [encode, hint, if_false, Nat.add_assoc], Nat.le_refl _⟩
  | fin s m e =>
    refine ⟨s, _, by simp only [encode, hint, if_false]; rfl, ?_⟩
    split
    · omega
    · split <;> omega

theorem encode_nan (hf : f = 6 ∨ f = 7 ∨ f = 8) (md : Round) : encode f .nan md = nanCode f := by
  have hint : f ≠ 9 ∧ f ≠ 10 := by omega
  simp only [encode, hint, if_false]

theorem decodeElem_nanCode (hf : f = 6 ∨ f = 7 ∨ f = 8) : decodeElem f (nanCode f) = .nan := by
  rcases hf with rfl | rfl | rfl <;> decide

theorem decodeElem_encode_eq_nan_iff (hf : f = 6 ∨ f = 7 ∨ f = 8) (x : Num) (md : Round) :
    decodeElem f (encode f x md) = .nan ↔ x = .nan := by
  refine ⟨fun h => Decidable.byContradiction fun hx => ?_, fun hx => ?_⟩
  · obtain ⟨s, c, henc, hc⟩ := encode_eq_signCode_add hf hx md
    exact decodeElem_signCode_ne_nan hf s hc (henc ▸ h)
  · rw [hx, encode_nan hf, decodeElem_nanCode hf]

end

theorem any_isNan_iff (xs : List Num) : xs.any isNan = true ↔ Num.nan ∈ xs := by
  have hnan (x : Num) : isNan x = true ↔ Num.nan = x := by cases x <;> simp [isNan]
  simp only [List.any_eq_true, hnan, exists_eq_right']

/-- A block without NaN has a scale code of at most 254. -/
theorem encodeBlock_scale_lt (f : Nat) {xs : List Num} (md : Nat → Round) (h : Num.nan ∉ xs) :
    (encodeBlock f xs md).1 < 0xFF := by
  unfold encodeBlock
  rw [if_neg (mt (any_isNan_iff xs).1 h)]
  dsimp only
  split
  · exact Nat.zero_lt_succ _
  · dsimp only
    omega

theorem encodeBlock_scale_nan (f : Nat) {xs : List Num} (md : Nat → Round) (h : Num.nan ∈ xs) :
    (encodeBlock f xs md).1 = 0xFF := by
  rw [encodeBlock, if_pos ((any_isNan_iff xs).2 h)]

/-- Settles O51: other numbers are delivered below the NaN codes, and a block's scale is 0xFF just when it holds NaN. -/
theorem nanDeliveriesAreCanonical : Obligations.NanDeliveriesAreCanonical := by
  refine ⟨fun f n hfn x md => ?_, by decide, fun f xs md =>
    ⟨fun h => ⟨encodeBlock_scale_nan f md h, fun c => rfl⟩, encodeBlock_scale_lt f md⟩⟩
  have hrow : (f = 6 ∨ f = 7 ∨ f = 8) ∧ nanCode f = n := by
    simp only [List.mem_cons, Prod.mk.injEq, List.not_mem_nil, or_false] at hfn
    rcases hfn with ⟨rfl, rfl⟩ | ⟨rfl, rfl⟩ | ⟨rfl, rfl⟩ <;> decide
  obtain ⟨hf, hn⟩ := hrow
  exact ⟨decodeElem_encode_eq_nan_iff hf x md, fun hx => by rw [hx, encode_nan hf, hn]⟩

end Sys2Proof.Machine
end

section
/-! PROOFS. Scratch, memory, accumulator, array and vector instructions where no check of theirs faults, and the ends of
programs and requests. -/

namespace Sys2Proof.Machine

section
variable {s : State} {g : GroupId} {c : Ctx}

/-- An instruction that checks its place in the scratch of its program first has its effect where the check passes. -/
theorem issue_inside {op : Nat} {k : Ctx → State → State} {ok : Bool} {bad t : State} (h : Issues s g op c)
    (hk : k c (served s c) = if !ok then bad else t) (hok : ok = true) :
    up s (fun s => issue s g op k) = .next t := by
  rw [issue_run h, hk, hok, Bool.not_true, if_neg Bool.false_ne_true]

/-! ### Scratch and requests through handles (R360, R362, R368) -/

theorem lds_inside (h : Issues s g 0x20 c) (hok : scratchFault c (addrA c) 8 8 = none) : exec (.lds g) s =
    .next (nextPc (setAll (served s c) c fun th =>
      BitVec.ofNat 64 (leNat (scratchRead (served s c) c.p c.pr (addrA c th) 8))) c) := by
  refine (issue_run h).trans ?_
  rw [hok]

theorem sts_inside (h : Issues s g 0x21 c) (hok : scratchFault c (addrA c) 8 1 = none) : exec (.sts g) s =
    .next (nextPc ((activeThreads c.gr).foldl (fun s th =>
      scratchWrite s c.p c.pr (addrA c th) (leBytes 8 (tB c th).toNat)) (served s c)) c) := by
  refine (issue_run h).trans ?_
  rw [hok]

theorem gather_raw (h : Issues s g 0x22 c) (hact : activeThreads c.gr ≠ [])
    (hh : handleBad (served s c) c true = false) (hraw : rawMode c = true)
    (hok : scratchFault c (fun th => (tC c th).toNat) (rowSize c) 64 = none) : exec (.gather g) s =
      .next (requestAll (served s c) c fun th =>
        { newReq c th ((tA c th).toNat * rowSize c) (rowSize c) .raw with scr := (tC c th).toNat }) := by
  refine (issue_run h).trans ?_
  rw [doGather, if_neg hact, hh, if_neg Bool.false_ne_true, if_pos hraw, hok]

theorem gather_pool (h : Issues s g 0x22 c) (hact : activeThreads c.gr ≠ [])
    (hh : handleBad (served s c) c true = false) (hraw : rawMode c = false) (hok : gatherBad c = false) :
    exec (.gather g) s = .next (requestAll (served s c) c fun th =>
      newReq c th ((tA c th).toNat * rowSize c) (rowSize c) (.pool c.i.d c.i.f ((tC c th).setWidth 32))) := by
  refine (issue_run h).trans ?_
  rw [doGather, if_neg hact, hh, if_neg Bool.false_ne_true, hraw, if_neg Bool.false_ne_true, hok,
    if_neg Bool.false_ne_true]

/-- LDG supersedes an earlier result for its register, as log entry 190 deduces it. -/
theorem ldg_usable (h : Issues s g 0x23 c) (hact : activeThreads c.gr ≠ [])
    (hh : handleBad (served s c) c true = false) : exec (.ldg g) s =
      .next (requestAll (supersede (served s c) c.p c.g c.i.d (activeThreads c.gr)) c fun th =>
        { newReq c th (tA c th).toNat 8 (.ldg c.i.d) with lines := 1 }) := by
  refine (issue_run h).trans ?_
  rw [doLdg, if_neg hact, hh, if_neg Bool.false_ne_true]

/-- ATOM supersedes an earlier result for its register, as log entry 190 deduces it. -/
theorem atom_usable (h : Issues s g 0x24 c) (hact : activeThreads c.gr ≠ [])
    (hh : handleBad (served s c) c true = false) : exec (.atom g) s =
      .next (requestAll (supersede (served s c) c.p c.g c.i.d (activeThreads c.gr)) c fun th =>
        { newReq c th (tA c th).toNat c.i.uimm (.atom c.i.d c.i.f c.i.uimm (tC c th) (tD c th)) with lines := 1 }) := by
  refine (issue_run h).trans ?_
  rw [doAtom, if_neg hact, hh, if_neg Bool.false_ne_true]

theorem crucibleStore_inside (h : Issues s g 0x25 c) (hact : activeThreads c.gr ≠ [])
    (hh : handleBad (served s c) c false = false)
    (hok : scratchFault c (fun th => (tC c th).toNat) c.i.uimm 1 = none) : exec (.crucibleStore g) s =
      .next ((activeThreads c.gr).foldl (fun u th =>
          sendAll u c th .store opSTORE 0 (cruCounterTag (c.i.f == 1) (tD c th)) (tA c th).toNat
            (scratchRead u c.p c.pr (tC c th).toNat c.i.uimm))
        (nextPc (onGr (served s c) c fun gr => { gr with nextSeq := c.gr.nextSeq + 1 }) c)) := by
  refine (issue_run h).trans ?_
  rw [doStore, if_neg hact, hh, if_neg Bool.false_ne_true, hok]

/-- A SIGNAL at an offset that is not a multiple of 8 fails with FORMAT_UNSUPPORTED, as log entry 30 deduces it. -/
theorem signal_usable (h : Issues s g 0x26 c) (hact : activeThreads c.gr ≠ [])
    (hh : handleBad (served s c) c false = false) : exec (.signal g) s =
      .next ((activeThreads c.gr).foldl (fun u th =>
          if (tA c th).toNat % 8 ≠ 0 then memFailed u (newReq c th (tA c th).toNat 8 .signal) stFormatUnsupported
          else sendAll u c th .signal opWRITE 1 (cruCounterTag (c.i.f == 1) (tC c th)) (tA c th).toNat
            (leBytes 8 (tD c th).toNat))
        (nextPc (onGr (served s c) c fun gr => { gr with nextSeq := c.gr.nextSeq + 1 }) c)) := by
  refine (issue_run h).trans ?_
  rw [doSignal, if_neg hact, hh, if_neg Bool.false_ne_true]

end

/-- Settles O19: one lemma for each instruction, under the conditions that its checks ask for. -/
theorem memoryInstructionsRun : Obligations.MemoryInstructionsRun := fun _ _ _ =>
  ⟨lds_inside, sts_inside, gather_raw, gather_pool, ldg_usable, atom_usable, crucibleStore_inside, signal_usable⟩

/-! ### Pool slots, accumulators and the array (R303, R305, R309, R363 to R365) -/

section
variable {s : State} {g : GroupId} {c : Ctx}

theorem poolOpen_free (h : Issues s g 0x30 c) (hfree : c.gr.slots.has c.i.a = false)
    (htarget : targetTaken c (poolSlotOf c.i) = false) : exec (.poolOpen g) s =
      .next (nextPc (onGr (clearTarget (served s c) c (poolSlotOf c.i)) c fun gr =>
        { gr with slots := gr.slots.set c.i.a (poolSlotOf c.i) }) c) := by
  have hchk : ¬ (c.gr.slots.has c.i.a || targetTaken c (poolSlotOf c.i)) = true := by
    rw [hfree, htarget]
    exact Bool.false_ne_true
  exact (issue_run h).trans (congrArg _ (if_neg hchk))

theorem asave_inside (h : Issues s g 0x35 c) (hok : scratchOk c.pr (uni c.gr c.i.b).toNat (48 * c.i.uimm) = true) :
    exec (.asave g) s = .next (nextPc (scratchWrite (served s c) c.p c.pr (uni c.gr c.i.b).toNat
      ((List.range c.i.uimm).flatMap fun i => (accOf c.pr (c.i.a + i)).image)) c) :=
  issue_inside h rfl hok

theorem aimg_inside (h : Issues s g 0x36 c) (hok : scratchOk c.pr (uni c.gr c.i.b).toNat (48 * c.i.uimm) = true) :
    exec (.aimg g) s = .next (nextPc (onAccs (served s c) c fun i x => x.addImage (Accum.ofImage
      (((scratchRead (served s c) c.p c.pr (uni c.gr c.i.b).toNat (48 * c.i.uimm)).drop (48 * i)).take 48))) c) :=
  issue_inside h rfl hok

/-- WLOAD, with the layout of a tile that log entry 31 presumes. -/
theorem wload_inside (h : Issues s g 0x38 c)
    (hok : scratchOk c.pr (uni c.gr c.i.a).toNat (vecsSize c.i.f 128) = true) : exec (.wload g) s =
      .next (nextPc (onProg (served s c) c.p fun pr => { pr with
        shadow := some ⟨c.i.f, scratchRead (served s c) c.p c.pr (uni c.gr c.i.a).toNat (vecsSize c.i.f 128)⟩ }) c) :=
  issue_inside h rfl hok

theorem mma_inside {t : Tile} (h : Issues s g 0x3A c) (hlive : c.pr.live = some t) (hfmt : t.fmt = c.i.f)
    (hin : scratchOk c.pr (uni c.gr c.i.a).toNat (vecsSize c.i.f (c.i.uimm % 65536)) = true)
    (hout : scratchOk c.pr (uni c.gr c.i.b).toNat (512 * (c.i.uimm % 65536)) = true) : exec (.mma g) s =
      .next (nextPc (onEngine ((List.range (c.i.uimm % 65536)).foldl (fun u k =>
          mmaVector u c t ((uni c.gr c.i.a).toNat + k * vecStride c.i.f) ((uni c.gr c.i.b).toNat + 512 * k)
            (bitOf c.i.uimm 16)) (served s c)) (c.p / 16) fun e =>
        { e with busy := (e.busy + c.i.uimm % 65536 * vecSteps c.i.f) % 2 ^ 64 }) c) := by
  refine (issue_run h).trans ?_
  simp only [doMma, hlive, hfmt, hin, hout, ne_eq, not_true, Bool.not_true, Bool.false_eq_true, if_false]

end

/-- Settles O20: the instructions without a check are their effect; the others are one lemma each. The model's choices
among these effects are log entries 31 (layout of a tile), 72 (WSWAP), 73 (busy steps) and 76 (AREAD). -/
theorem accumulatorInstructionsRun : Obligations.AccumulatorInstructionsRun := fun _ _ _ =>
  ⟨poolOpen_free, issue_run, issue_run, issue_run, issue_run, asave_inside, aimg_inside, wload_inside, issue_run,
    fun _ => mma_inside⟩

/-! ### Vectors, conversions and random numbers (R314 to R320, R360, R366) -/

section
variable {s : State} {g : GroupId} {c : Ctx}

theorem vld_inside (h : Issues s g 0x40 c) (hok : scratchOk c.pr (uniAddr c c.i.a) 256 = true) : exec (.vld g) s =
    .next (nextPc (onGr (served s c) c fun gr =>
      setV gr c.i.d (BitVec.ofNat 2048 (leNat (scratchRead (served s c) c.p c.pr (uniAddr c c.i.a) 256)))) c) :=
  issue_inside h rfl hok

theorem vst_inside (h : Issues s g 0x41 c) (hok : scratchOk c.pr (uniAddr c c.i.b) 256 = true) : exec (.vst g) s =
    .next (nextPc (scratchWrite (served s c) c.p c.pr (uniAddr c c.i.b)
      (leBytes 256 (getV c.gr c.i.a).toNat)) c) :=
  issue_inside h rfl hok

end

/-- Settles O21: an instruction without a check is its effect, and each lanewise one is that of its operation. -/
theorem vectorInstructionsRun : Obligations.VectorInstructionsRun := by
  refine fun s g c => ⟨vld_inside, vst_inside, fun mk op f hrow h => ?_, issue_run, issue_run, issue_run,
    fun h _ => issue_run h, issue_run, issue_run⟩
  simp only [List.mem_cons, Prod.mk.injEq, List.not_mem_nil, or_false] at hrow
  rcases hrow with ⟨rfl, rfl, rfl⟩ | ⟨rfl, rfl, rfl⟩ | ⟨rfl, rfl, rfl⟩ | ⟨rfl, rfl, rfl⟩ | ⟨rfl, rfl, rfl⟩ <;>
    exact issue_run h

/-! ### Requests that return and programs that end (R290, R329, R354 to R356) -/

theorem exec_lineRequestReturn (id : Nat) (fs : List ReadFault) (s : State) :
    exec (.lineRequestReturn id fs) s = execLineRequestReturn id fs s := rfl

theorem exec_capShed (p : BitVec 8) (t : Time) (s : State) : exec (.capShed p t) s = execCapShed p t s := rfl

theorem exec_programEndClear (p : BitVec 8) (s : State) : exec (.programEndClear p) s = execProgramEndClear p s := rfl

@[simp] theorem prog?_at_ (s : State) (t : Time) (p : Nat) : prog? (s.at_ t) p = prog? s p := rfl

@[simp] theorem engineOf_at_ (s : State) (t : Time) (e : Nat) : engineOf (s.at_ t) e = engineOf s e := rfl

section
variable {s : State} {pr : Program}

theorem lineRequestReturn_issued {id : Nat} {q : LineReq} (fs : List ReadFault) (hrun : Running s)
    (hq : lineReq? s id = some q) (hp : prog? s q.prog = some pr) (hissued : q.issued = true) (hopen : q.status = none)
    (hlines : q.lines ≠ 0) (hwait : lineWaits s id = false) :
    exec (.lineRequestReturn id fs) s = .next (serveLine s q pr fs) := by
  rw [exec_lineRequestReturn, execLineRequestReturn, up_run hrun]
  simp only [hq, hp]
  rw [if_pos ⟨hissued, hopen, hlines, by rw [hwait]; rfl⟩]

theorem capShed_due {p : BitVec 8} {t t0 : Time} (hrun : Running s) (hp : prog? s p.toNat = some pr)
    (hsince : (engineOf s (p.toNat / 16)).pausedAt = some t0) (hstate : pr.state = .running)
    (hpaused : paused s (p.toNat / 16) = true)
    (hdue : due (s.at_ t).now (Nat.max t0 (pr.launchAt.getD 0)) (ms 100) = true) :
    exec (.capShed p t) s = .next (endProg (s.at_ t) p.toNat stCapShed none) := by
  rw [exec_capShed, execCapShed, up_run hrun]
  simp only [prog?_at_, engineOf_at_, hp, hsince]
  exact congrArg _ (if_pos ⟨hstate, hpaused, hdue⟩)

theorem programEndClear_quiet {p : BitVec 8} (hrun : Running s) (hp : prog? s p.toNat = some pr)
    (hstate : pr.state = .ending) (hquiet : progQuiet s p.toNat = true) : exec (.programEndClear p) s =
      let u := traceProgram (countEnd (clearProg s p.toNat pr) p.toNat pr.status) p.toNat (p.toNat / 16) 3 pr.status
        pr.tenant
      .next (postProg u pr.tenant pr.owner (progRecord u p.toNat ((prog? u p.toNat).getD pr))) := by
  rw [exec_programEndClear, execProgramEndClear, up_run hrun]
  simp only [hp]
  rw [if_pos ⟨hstate, hquiet⟩]

end

/-- Settles O22: one lemma for each command, under the conditions that its check asks for. -/
theorem programsEndAndRequestsReturn : Obligations.ProgramsEndAndRequestsReturn := fun _ hrun =>
  ⟨fun _ fs _ _ => lineRequestReturn_issued fs hrun, fun _ _ _ _ => capShed_due hrun,
    fun _ _ => programEndClear_quiet hrun⟩

end Sys2Proof.Machine
end

section
/-! PROOFS. Immediate, compare, branch, mask, end, fence, counter and mailbox instructions. -/

namespace Sys2Proof.Machine

/-! ### Jumps and counters (R133, R361, R369) -/

section
variable {s : State} {g : GroupId} {c : Ctx}

/-- A jump that is taken goes to IMM. -/
theorem jumpTo_true (s : State) (c : Ctx) : jumpTo s c true = onGr s c fun gr => { gr with pc := c.i.uimm } := rfl

theorem jmp_issued (h : Issues s g 0x18 c) :
    exec (.jmp g) s = .next (onGr (served s c) c fun gr => { gr with pc := c.i.uimm }) :=
  (issue_run h).trans (congrArg _ (jumpTo_true (served s c) c))

/-- CREAD finds no thread whose counter another tenant holds, and so does not fault. -/
theorem cread_held (h : Issues s g 0x28 c)
    (hheld : ((activeThreads c.gr).all fun th =>
      counterHeld (served s c) c.pr.tenant ((tA c th).toNat % 65536)) = true) :
    exec (.cread g) s = .next (nextPc (setAll (served s c) c fun th =>
      counterValue (served s c) ((tA c th).toNat % 65536)) c) := by
  have hnone : ((activeThreads c.gr).find? fun th =>
      !counterHeld (served s c) c.pr.tenant ((tA c th).toNat % 65536)) = none :=
    List.find?_eq_none.2 fun th hth => by rw [List.all_eq_true.1 hheld th hth]; exact Bool.false_ne_true
  refine (issue_run h).trans ?_
  simp only [hnone]

end

/-- Settles O18: JMP is a jump that is taken, CREAD passes its check, and each other instruction is its effect. -/
theorem controlInstructionsRun : Obligations.ControlInstructionsRun := fun _ _ _ =>
  ⟨issue_run, issue_run, issue_run, jmp_issued, issue_run, issue_run, issue_run, issue_run, issue_run, issue_run,
    issue_run, cread_held, issue_run⟩

end Sys2Proof.Machine
end

section
/-! PROOFS. Reduction groups: results at the host switch, and the probe of a member for a late one. -/

namespace Sys2Proof.Machine

/-! ### Results of a reduction group (R394, R396 to R398) -/

theorem exec_resultFormed (i : BitVec 10) (s : State) : exec (.resultFormed i) s = execResultFormed i s := rfl

theorem exec_resultRetransmit (i : BitVec 10) (n rank : Nat) (t : Time) (s : State) :
    exec (.resultRetransmit i n rank t) s = execResultRetransmit i n rank t s := rfl

theorem exec_contribProbe (j : Fin 64) (t : Time) (s : State) : exec (.contribProbe j t) s = execContribProbe j t s := rfl

@[simp] theorem rgroup?_at_ (s : State) (t : Time) (i : Nat) : rgroup? (s.at_ t) i = rgroup? s i := rfl

theorem resultFormed_complete {s : State} {i : BitVec 10} {g : RGroup} {c : Combine} (hrun : Running s)
    (hg : rgroup? s i.toNat = some g) (harmed : g.state = .armed) (hfree : g.results.length < 2 * g.slots)
    (hc : completeChunk g = some c) : exec (.resultFormed i) s = .next (formResult s i.toNat g c) := by
  have hopen : ¬(g.state ≠ .armed ∨ g.results.length ≥ 2 * g.slots) :=
    not_or.2 ⟨not_not.2 harmed, Nat.not_le.2 hfree⟩
  rw [exec_resultFormed, execResultFormed, up_run hrun]
  simp only [hg, if_neg hopen, hc]

section
variable {s : State} {t : Time} {i : BitVec 10} {n rank : Nat} {g : RGroup} {r : ResultBuf} {w : MemberWait}
  (hrun : Running s) (hg : rgroup? s i.toNat = some g) (hr : (g.results.find? fun r => r.g == n) = some r)
  (hw : (r.waiting.find? fun w => w.rank == rank) = some w)
include hrun hg hr hw

/-- A member that has been silent for 20 us is sent the result again, and a copy is counted. -/
theorem resultRetransmit_again (hsilent : w.held = none) (hdue : due (s.at_ t).now w.last (us 20) = true)
    (hsent : w.sent < 6) : exec (.resultRetransmit i n rank t) s =
      .next (originate (onRGroup (countRetx (s.at_ t)) i.toNat fun g =>
          onWait g n rank fun w => { w with last := (s.at_ t).now, sent := w.sent + 1 })
        g.quad 5 none (resultPacket (onRGroup (countRetx (s.at_ t)) i.toNat fun g =>
          onWait g n rank fun w => { w with last := (s.at_ t).now, sent := w.sent + 1 }) i.toNat g r
            (g.table.getD rank 0) true)) := by
  rw [exec_resultRetransmit, execResultRetransmit, up_run hrun]
  simp only [rgroup?_at_, hg, hr, hw, hsilent, hdue, Bool.not_true, Bool.false_eq_true, if_false,
    if_neg (Nat.not_le.2 hsent)]

/-- After the sixth copy a silent member is given up. -/
theorem resultRetransmit_spent (hsilent : w.held = none) (hdue : due (s.at_ t).now w.last (us 20) = true)
    (hsent : 6 ≤ w.sent) :
    exec (.resultRetransmit i n rank t) s = .next (giveUpMember (s.at_ t) i.toNat g n rank) := by
  rw [exec_resultRetransmit, execResultRetransmit, up_run hrun]
  simp only [rgroup?_at_, hg, hr, hw, hsilent, hdue, Bool.not_true, Bool.false_eq_true, if_false, ge_iff_le,
    if_pos hsent]

/-- A member that answered HOLD is given up 300 us later, however many copies it was sent. -/
theorem resultRetransmit_held {h : Time} (hheld : w.held = some h) (hdue : due (s.at_ t).now h (us 300) = true) :
    exec (.resultRetransmit i n rank t) s = .next (giveUpMember (s.at_ t) i.toNat g n rank) := by
  rw [exec_resultRetransmit, execResultRetransmit, up_run hrun]
  simp only [rgroup?_at_, hg, hr, hw, hheld, hdue, if_true]

end

/-! ### The probe of a member (R574) -/

theorem contribOp_epAt (s : State) (t : Time) (j : Nat) : contribOp (s.epAt t).ep j = contribOp s.ep j := rfl

theorem epAt_ep_binds (s : State) (t : Time) : (s.epAt t).ep.binds = s.ep.binds := rfl

theorem contribProbe_due {s : State} {t : Time} {j : Fin 64} {o : EpOp} {b : RBinding} (ho : contribOp s.ep j = some o)
    (hb : s.ep.binds.get? j = some b) (hopen : b.done < b.sent)
    (hdue : due (s.epAt t).ep.now b.lastLand (ms 1) = true) :
    exec (.contribProbe j t) s = .next (epMrd ((s.epAt t).onEp fun e =>
        { e with binds := e.binds.set j { b with lastLand := e.now } })
      (EpDesc.local_ o.desc + (chunkSpan b b.done).1 * b.inSize) ((chunkSpan b b.done).2 * b.inSize)
      (.contribRd j o.i o.k b.done true)) := by
  rw [exec_contribProbe, execContribProbe]
  simp only [contribOp_epAt, epAt_ep_binds, ho, hb]
  rw [if_pos ⟨hopen, hdue⟩]

/-- Settles O13: one lemma for each command, and for a result sent again one for each answer of the member. The probe
is R574's. -/
theorem reductionCommandsAnswer : Obligations.ReductionCommandsAnswer := fun _ _ =>
  ⟨fun _ _ _ => resultFormed_complete,
    fun _ _ _ _ _ _ hrun hg hr hw => ⟨resultRetransmit_again hrun hg hr hw, resultRetransmit_spent hrun hg hr hw,
      fun _ => resultRetransmit_held hrun hg hr hw⟩,
    fun _ _ _ => contribProbe_due⟩

end Sys2Proof.Machine
end

section
/-! PROOFS. Pool lines: what a write of one line does, and what a stored line leaves unchanged. -/

namespace Sys2Proof.Machine

/-! ### The write of one line -/

theorem Mem.length_readN (m : Mem) (a n : Nat) : (m.readN a n).length = n := by
  induction n generalizing a with
  | zero => rfl
  | succ n ih => rw [Mem.readN, List.length_cons, ih]

@[simp] theorem length_lineData (s : State) (line : Nat) : (lineData s line).length = 64 := Mem.length_readN _ _ _

/-- The shorter operand gives the length. -/
@[simp] theorem length_xorBytes (a b : List Byte) : (xorBytes a b).length = min a.length b.length := by
  rw [xorBytes, List.length_map, List.length_zip]

@[simp] theorem lineMeta_setLine (s : State) (line : Nat) (data : List Byte) (md : LineMeta) (tag : Tag) :
    lineMeta (setLine s line data md) line tag = md := by
  rw [lineMeta, setLine, State.onPool_pool, Tbl.getD, Tbl.get?_set, Option.getD_some]

theorem lineMeta_setLine_ne {line l : Nat} (h : line ≠ l) (s : State) (data : List Byte) (md : LineMeta) (tag : Tag) :
    lineMeta (setLine s l data md) line tag = lineMeta s line tag := by
  rw [lineMeta, setLine, State.onPool_pool, Tbl.getD, Tbl.get?_set_ne _ _ _ _ h]; rfl

theorem setLine_wf {s : State} (hwf : s.pool.mem.wf = true) (line : Nat) (data : List Byte) (md : LineMeta) :
    (setLine s line data md).pool.mem.wf = true := Mem.writeN_wf _ _ _ hwf

theorem lineData_setLine {s : State} (hwf : s.pool.mem.wf = true) {data : List Byte} (hlen : data.length = 64)
    (line : Nat) (md : LineMeta) : lineData (setLine s line data md) line = data := by
  have h := Mem.readN_writeN s.pool.mem (line * 64) data hwf
  rwa [hlen] at h

theorem lineData_setLine_ne {line l : Nat} (h : line ≠ l) {data : List Byte} (hlen : data.length ≤ 64) (s : State)
    (md : LineMeta) : lineData (setLine s l data md) line = lineData s line :=
  Mem.readN_writeN_out _ _ _ _ _ (by omega)

/-! ### Lines that keep their bytes and metadata -/

/-- From `s` to `t` the pool memory stays canonical, and every line outside `p` keeps its bytes and metadata. -/
structure SameLines (p : Nat → Prop) (s t : State) : Prop where
  wf : s.pool.mem.wf = true → t.pool.mem.wf = true
  data : ∀ line, ¬ p line → lineData t line = lineData s line
  lmeta : ∀ line, ¬ p line → ∀ tag, lineMeta t line tag = lineMeta s line tag

namespace SameLines
variable {p : Nat → Prop} {s t u : State}

theorem refl (p : Nat → Prop) (s : State) : SameLines p s s := ⟨id, fun _ _ => rfl, fun _ _ _ => rfl⟩

theorem trans (h₁ : SameLines p s t) (h₂ : SameLines p t u) : SameLines p s u :=
  ⟨h₂.wf ∘ h₁.wf, fun l hl => (h₂.data l hl).trans (h₁.data l hl),
    fun l hl tag => (h₂.lmeta l hl tag).trans (h₁.lmeta l hl tag)⟩

theorem setLine {l : Nat} (hl : p l) {data : List Byte} (hlen : data.length ≤ 64) (s : State) (md : LineMeta) :
    SameLines p s (setLine s l data md) :=
  have hne {line : Nat} (h : ¬ p line) : line ≠ l := fun e => h (e ▸ hl)
  ⟨fun hwf => setLine_wf hwf l data md, fun _ h => lineData_setLine_ne (hne h) hlen s md,
    fun _ h tag => lineMeta_setLine_ne (hne h) s data md tag⟩

end SameLines

/-! ### A stored line (R415, R424) -/

/-- The lines that a store to `h` may write: its own, and that of its mirror or parity in this switch. -/
def LineHome.writes (h : LineHome) (line : Nat) : Prop :=
  line = h.line ∨ h.r.protection = 1 ∧ line = h.mirror ∨ h.r.protection = 2 ∧ line = h.parity

section
variable {s : State} {h : LineHome}

/-- With its stack in service, a line is written last, after its protection, with EPOCH one above what it was. -/
theorem storeLine_up (hup : lineUp s h.line = true) {data : List Byte} (hlen : data.length ≤ 64) (poison : Bool) :
    ∃ s1, SameLines h.writes s s1 ∧ storeLine s h data poison =
      setLine s1 h.line data ⟨h.r.tenant, (lineMeta s h.line h.r.tenant).epoch + 1, poison, false, false, 0⟩ := by
  simp only [storeLine, hup, Bool.not_true, Bool.false_and, Bool.false_eq_true, true_or, if_true, if_false]
  refine ⟨_, ?_, rfl⟩
  split
  case isTrue hmirror =>
    split
    · exact .setLine (.inr (.inl ⟨hmirror, rfl⟩)) hlen s _
    · exact .refl _ s
  case isFalse =>
    split
    case isTrue hparity =>
      split
      · refine .setLine (.inr (.inr ⟨hparity, rfl⟩)) ?_ s _
        simp only [length_xorBytes, length_lineData]
        omega
      · exact .refl _ s
    case isFalse => exact .refl _ s

variable {data : List Byte} (hup : lineUp s h.line = true) (poison : Bool)
include hup

theorem lineData_storeLine (hwf : s.pool.mem.wf = true) (hlen : data.length = 64) :
    lineData (storeLine s h data poison) h.line = data := by
  obtain ⟨s1, hsame, heq⟩ := storeLine_up hup hlen.le poison
  rw [heq, lineData_setLine (hsame.wf hwf) hlen]

theorem lineMeta_storeLine (hlen : data.length ≤ 64) (tag : Tag) :
    lineMeta (storeLine s h data poison) h.line tag =
      ⟨h.r.tenant, (lineMeta s h.line h.r.tenant).epoch + 1, poison, false, false, 0⟩ := by
  obtain ⟨s1, -, heq⟩ := storeLine_up hup hlen poison
  rw [heq, lineMeta_setLine]

theorem storeLine_sameLines (hlen : data.length ≤ 64) : SameLines h.writes s (storeLine s h data poison) := by
  obtain ⟨s1, hsame, heq⟩ := storeLine_up hup hlen poison
  rw [heq]
  exact hsame.trans (.setLine (.inl rfl) hlen s1 _)

end

/-- Settles O55: the line is written last, so neither its mirror nor its parity undoes it, and nothing else is written. -/
theorem storedLinesReadBack : Obligations.StoredLinesReadBack := by
  intro s h data poison hwf hlen hup
  refine ⟨lineData_storeLine hup poison hwf hlen, lineMeta_storeLine hup poison hlen.le _, fun line hne hmirror hparity => ?_⟩
  have hsame := storeLine_sameLines hup poison hlen.le
  have hout : ¬ h.writes line := by
    rintro (hl | ⟨hp, hl⟩ | ⟨hp, hl⟩)
    · exact hne hl
    · exact hmirror hp hl
    · exact hparity hp hl
  exact ⟨hsame.data line hout, hsame.lmeta line hout⟩

end Sys2Proof.Machine
end

section
/-! PROOFS. Lanes and links that come up: lock, search, bring-up steps, identity and delay. -/

namespace Sys2Proof.Machine

/-! ### Lock and search of lanes (R463, R464) -/

theorem exec_markerLock (lane : Fin 256) (seen : SyncRun) (inverted : Bool) (s : State) :
    exec (.markerLock lane seen inverted) s = execMarkerLock lane seen inverted s := rfl

theorem exec_linkSearchStep (port : Fin 64) (s : State) :
    exec (.linkSearchStep port) s = execLinkSearchStep port s := rfl

theorem markerLock_run {s : State} (hrun : Running s) (lane : Fin 256) (found : Bool) (blocks : Nat) (inverted : Bool) :
    exec (.markerLock lane ⟨found, blocks⟩ inverted) s = .next (onLane s lane fun l => laneSync l found blocks inverted) := by
  rw [exec_markerLock, execMarkerLock, up_run hrun]

/-- Lanes of a port that its search has still to bring to lock. -/
def unlockedLanes (s : State) (p : Fin 64) : List (Fin 256) :=
  (linkOf s p).pending.filter fun n => !(laneOf s n).lock

/-- The lanes without lock slip by one symbol, and the search of the port counts its position. -/
def searchTurn (s : State) (p : Fin 64) : State :=
  onLink (slipLanes (onLink s p fun l => { l with pending := unlockedLanes s p }) (unlockedLanes s p)) p
    fun l => { l with pos := l.pos + 1 }

section
variable {s : State} {port : Fin 64} (hrun : Running s) (hstep : (linkOf s port).step = 3)
  (howner : (linkOf s port).searchOwner = false) (hserved : linkServed s port = true)
include hrun hstep howner hserved

/-- Once no lane is pending, every lane must hold its lock still. -/
theorem linkSearchStep_ended (hpending : (linkOf s port).pending = []) : exec (.linkSearchStep port) s =
    .next (if (lanesOf port).all fun n => (laneOf s n).lock then s else failStep s port failALIGN) := by
  rw [exec_linkSearchStep, execLinkSearchStep, up_run hrun]
  dsimp only
  rw [if_neg (by simp [hstep, howner, hserved]), if_pos hpending]

/-- A turn of a search that has lanes pending: it ends when all of them are locked, and fails at position 256. -/
theorem linkSearchStep_searching (hpending : (linkOf s port).pending ≠ []) : exec (.linkSearchStep port) s =
    .next (if unlockedLanes s port = [] then onLink s port fun l => { l with pending := unlockedLanes s port }
      else if (linkOf s port).pos + 1 < 256 then searchTurn s port
      else failStep (searchTurn s port) port failALIGN) := by
  rw [exec_linkSearchStep, execLinkSearchStep, up_run hrun]
  dsimp only
  rw [if_neg (by simp [hstep, howner, hserved]), if_neg hpending]
  rfl

variable (hpending : (linkOf s port).pending ≠ [])
include hpending

theorem linkSearchStep_locked (hlocked : unlockedLanes s port = []) :
    exec (.linkSearchStep port) s = .next (onLink s port fun l => { l with pending := [] }) := by
  rw [linkSearchStep_searching hrun hstep howner hserved hpending, if_pos hlocked, hlocked]

theorem linkSearchStep_slips (hopen : unlockedLanes s port ≠ []) (hpos : (linkOf s port).pos + 1 < 256) :
    exec (.linkSearchStep port) s = .next (searchTurn s port) := by
  rw [linkSearchStep_searching hrun hstep howner hserved hpending, if_neg hopen, if_pos hpos]

theorem linkSearchStep_fails (hopen : unlockedLanes s port ≠ []) (hpos : 256 ≤ (linkOf s port).pos + 1) :
    exec (.linkSearchStep port) s = .next (failStep (searchTurn s port) port failALIGN) := by
  rw [linkSearchStep_searching hrun hstep howner hserved hpending, if_neg hopen, if_neg (Nat.not_lt.2 hpos)]

end

/-! ### Bring-up steps and identity (R467, R468, R471, R472) -/

theorem exec_linkBringupStep (port : Fin 64) (res : StepResult) (s : State) :
    exec (.linkBringupStep port res) s = execLinkBringupStep port res s := rfl

theorem exec_idExchange (port : Fin 64) (far : FarId) (s : State) :
    exec (.idExchange port far) s = execIdExchange port far s := rfl

/-- What the result of a step does to the link: it passes, compares the lanes' marks, or fails. -/
def takeResult (s : State) (p : Fin 64) : StepResult → State
  | .pass => passStep s p
  | .marks l => deskew s p l
  | .fail c => failStep s p c

theorem linkBringupStep_served {s : State} {port : Fin 64} (hrun : Running s) (hserved : linkServed s port = true)
    (res : StepResult) : exec (.linkBringupStep port res) s = .next (takeResult s port res) := by
  rw [exec_linkBringupStep, execLinkBringupStep, up_run hrun, if_neg (by simp [hserved])]
  cases res <;> rfl

/-- In step 6 the far end is recorded, and the port goes on or stays out. -/
theorem idExchange_identify {s : State} {port : Fin 64} (hrun : Running s) (hstep : (linkOf s port).step = 6)
    (far : FarId) : exec (.idExchange port far) s =
      let s' := onLink s port fun l => { l with far := far }
      .next (if farAgrees (planOf s port) far then onLink s' port fun l => { l with farSeen := true }
        else stayOut s' port failIDENTITY) := by
  rw [exec_idExchange, execIdExchange, up_run hrun, if_neg (not_not.2 hstep)]
  rfl

theorem idExchange_agrees {s : State} {port : Fin 64} {far : FarId} (hrun : Running s)
    (hstep : (linkOf s port).step = 6) (hfar : farAgrees (planOf s port) far = true) : exec (.idExchange port far) s =
      .next (onLink (onLink s port fun l => { l with far := far }) port fun l => { l with farSeen := true }) := by
  rw [idExchange_identify hrun hstep]
  exact congrArg _ (if_pos hfar)

theorem idExchange_disagrees {s : State} {port : Fin 64} {far : FarId} (hrun : Running s)
    (hstep : (linkOf s port).step = 6) (hfar : farAgrees (planOf s port) far = false) :
    exec (.idExchange port far) s = .next (stayOut (onLink s port fun l => { l with far := far }) port failIDENTITY) := by
  rw [idExchange_identify hrun hstep]
  exact congrArg _ (if_neg (by simp [hfar]))

/-! ### Delay of a link (R469, R470) -/

theorem exec_ping (port : Fin 64) (stamp : BitVec 32) (turnaround : Nat) (s : State) :
    exec (.ping port stamp turnaround) s = execPing port stamp turnaround s := rfl

theorem exec_echo (port : Fin 64) (departed arrived : Time) (turnaround : Nat) (s : State) :
    exec (.echo port departed arrived turnaround) s = execEcho port departed arrived turnaround s := rfl

theorem ping_answered {s : State} {port : Fin 64} (hrun : Running s) (stamp : BitVec 32) (turn : Nat)
    (hflits : flitsRun (linkOf s port) = true) : exec (.ping port stamp turn) s =
      .next (onLink s port fun l => { l with mgmt := (0x09, BitVec.ofNat 32 turn) :: l.mgmt }) := by
  rw [exec_ping, execPing, up_run hrun, if_pos hflits]

/-- In step 7 each of the first 16 echoes gives a round trip, and the sixteenth the delay. -/
theorem echo_measures {s : State} {port : Fin 64} (hrun : Running s) (dep arr : Time) (turn : Nat)
    (hstep : (linkOf s port).step = 7) (hfew : (linkOf s port).trips.length < 16) : exec (.echo port dep arr turn) s =
      let trips := (linkOf s port).trips ++ [arr - dep - turn]
      .next (onLink s port fun l => { l with
        trips := trips, delay := if trips.length = 16 then Nat.min 1023 (medianDelay trips) else l.delay }) := by
  rw [exec_echo, execEcho, up_run hrun]
  exact congrArg _ (if_neg (by omega))

/-- Settles O16: one lemma for each command of the bring-up, and for a search turn one for each way in which it ends. -/
theorem linksComeUp : Obligations.LinksComeUp := by
  intro s port hrun
  refine ⟨markerLock_run hrun, ?_, linkSearchStep_ended hrun, fun hserved => linkBringupStep_served hrun hserved .pass,
    fun l hserved => linkBringupStep_served hrun hserved (.marks l),
    fun c hserved => linkBringupStep_served hrun hserved (.fail c),
    fun far hstep => ⟨idExchange_agrees hrun hstep, idExchange_disagrees hrun hstep⟩, ping_answered hrun,
    echo_measures hrun⟩
  rintro _ hstep howner hserved hpending rfl
  exact ⟨linkSearchStep_locked hrun hstep howner hserved hpending,
    linkSearchStep_slips hrun hstep howner hserved hpending, linkSearchStep_fails hrun hstep howner hserved hpending⟩

end Sys2Proof.Machine
end

section
/-! PROOFS. Host ports: their registers, the attachment and liveness of their hosts, DMA reads, the mailbox, and the
taking of commands. -/

namespace Sys2Proof.Machine

/-! ### Accesses through an open port (R519, R524, R527, R529, R530, R795) -/

/-- An open port lets an access through to its effect. -/
theorem openPort_run {s : State} {p : Fin 2} {k : State → State} (h : PortOpen s p) :
    up s (fun s => throughPort s p k) = .next (k s) := by
  rw [up_run h.1, port_run h]

section
variable (p : Fin 2) (s : State)

theorem exec_hifCmdProd (n : Fin 62) (v : BitVec 32) :
    exec (.hifCmdProd p n v) s = up s fun s => throughPort s p fun s => cmdProd s p n v := rfl

theorem exec_hifCplCons (n : Fin 62) (v : BitVec 32) :
    exec (.hifCplCons p n v) s = up s fun s => throughPort s p fun s => cplCons s p n v := rfl

theorem exec_hifFaultCons (v : BitVec 32) :
    exec (.hifFaultCons p v) s = up s fun s => throughPort s p fun s => faultConsWrite s p v := rfl

theorem exec_hifEventCons (v : BitVec 32) :
    exec (.hifEventCons p v) s = up s fun s => throughPort s p fun s => eventConsWrite s p v := rfl

theorem exec_attach : exec (.attach p) s = up s fun s => throughPort s p fun s => attachHost s p := rfl

theorem exec_detach : exec (.detach p) s = up s fun s => throughPort s p fun s => detachHost s p := rfl

theorem exec_heartbeat : exec (.heartbeat p) s = up s fun s => throughPort s p fun s => beatHost s p := rfl

end

/-- ATTACH is honoured for a host that is not attached and whose window a decoder claims. -/
theorem attachHost_honoured {s : State} {p : Nat} (hout : hostAttached (s.hp p) = false)
    (hwin : windowClaimed (s.hp p) = true) :
    attachHost s p = becomeLive ((resetRings s p).onHp p fun h => { h with attachErr := false }) p :=
  if_pos ⟨by simp [hout], hwin⟩

theorem detachHost_attached {s : State} {p : Nat} (h : hostAttached (s.hp p) = true) :
    detachHost s p = orphanAll (stopLive s p .detached s.now 1) p := if_pos h

theorem beatHost_attached {s : State} {p : Nat} (h : hostAttached (s.hp p) = true) : beatHost s p = becomeLive s p :=
  if_pos h

/-- Settles O1: each access goes through the open port; ATTACH, DETACH and HEARTBEAT then depend on whether the host is
attached. -/
theorem hostRegisterCommandsAnswer : Obligations.HostRegisterCommandsAnswer := by
  intro s p hopen
  refine ⟨fun n v => (exec_hifCmdProd p s n v).trans (openPort_run hopen),
    fun n v => (exec_hifCplCons p s n v).trans (openPort_run hopen),
    fun v => (exec_hifFaultCons p s v).trans (openPort_run hopen),
    fun v => (exec_hifEventCons p s v).trans (openPort_run hopen), fun hout hwin => ?_, fun hin => ?_, fun hin => ?_⟩
  · rw [exec_attach, openPort_run hopen, attachHost_honoured hout hwin]
  · rw [exec_detach, openPort_run hopen, detachHost_attached hin]
  · rw [exec_heartbeat, openPort_run hopen, beatHost_attached hin]

/-! ### No host LIVE (R527, R532) -/

@[simp] theorem at__hp (s : State) (t : Time) (p : Nat) : (s.at_ t).hp p = s.hp p := rfl

theorem exec_noHostLive (p : Fin 2) (t : Time) (s : State) : exec (.noHostLive p t) s = execNoHostLive p t s := rfl

/-- Every parked request of a port ends with FAULT_OVERFLOW, and its record is lost (R532). -/
def parkedOverflow (s : State) (p : Nat) : State :=
  (parkedOf s p).foldl (fun s q =>
    let s := loseFault (s.onRgn fun g => { g with parked := g.parked.erase q }) p true
    if q.isLine then lineDone s q.lineId stFaultOverflow else refuse s q.arrival stFaultOverflow)
    (s.onHp p fun h => { h with overdue := true })

/-- When no host is LIVE the parked requests end, and then the marker of their losses is written if the ring can take it. -/
theorem noHostLive_overflows {s : State} {p : Fin 2} {t : Time} (hrun : Running s)
    (hdue : due (s.at_ t).now (notLiveSince (s.hp p)) (ms 50) = true) (h0 : hostLive (s.at_ t) 0 = false)
    (h1 : hostLive (s.at_ t) 1 = false) (hover : (s.hp p).overdue = false) :
    exec (.noHostLive p t) s = .next (faultMarker (parkedOverflow (s.at_ t) p) p) := by
  rw [exec_noHostLive, execNoHostLive, up_run hrun]
  exact congrArg _ (if_pos ⟨hdue, by simp [h0], by simp [h1], by simp [hover]⟩)

/-- A switch whose host 0 went SILENT at time 0, with one parked request of a tenant of that host. -/
def silentWithParked : State :=
  { State.reset with
    hif := { (default : Hif) with ports := [(0, { (default : HostPort) with host := .silent, silentAt := some 0 })] }
    rgn := { (default : Rgn) with parked := [{ (default : Parked) with isLine := true }] } }

/-- The parked request's loss is marked in the fault ring at once: the host is ATTACHED and the ring has space. -/
theorem silentWithParked_marked :
    ((parkedOverflow (silentWithParked.at_ (ms 50)) 0).hp 0).faultWritten = 0 ∧
    ((faultMarker (parkedOverflow (silentWithParked.at_ (ms 50)) 0) 0).hp 0).faultWritten = 1 := by
  decide +kernel

/-- Refutes O2: the answer of NO_HOST_LIVE leaves out the overflow marker, which R527 has the switch write as soon as the
ring of an ATTACHED host, and so of a SILENT one, has a free slot. -/
theorem not_hostLivenessTimersAnswer : ¬ Obligations.HostLivenessTimersAnswer := by
  intro h
  have hrun : Running silentWithParked := ⟨rfl, rfl⟩
  have hdue : due (silentWithParked.at_ (ms 50)).now (notLiveSince (silentWithParked.hp 0)) (ms 50) = true := by decide
  obtain ⟨-, -, hanswer, -, -⟩ := h silentWithParked 0 (ms 50) hrun
  have hclaim : exec (.noHostLive 0 (ms 50)) silentWithParked = .next (parkedOverflow (silentWithParked.at_ (ms 50)) 0) :=
    hanswer hdue rfl rfl rfl
  have hmodel : exec (.noHostLive 0 (ms 50)) silentWithParked =
      .next (faultMarker (parkedOverflow (silentWithParked.at_ (ms 50)) 0) 0) :=
    noHostLive_overflows hrun hdue rfl rfl rfl
  have heq := Host.Outcome.next.inj (hmodel.symm.trans hclaim)
  obtain ⟨hunmarked, hmarked⟩ := silentWithParked_marked
  rw [heq, hunmarked] at hmarked
  exact absurd hmarked (by decide)

/-! ### DMA reads (R37, R402, R510) -/

theorem exec_dmaReadCompletion (p : Fin 2) (id : Nat) (ok : Bool) (data : List Byte) (s : State) :
    exec (.dmaReadCompletion p id ok data) s = execDmaReadCompletion p id ok data s := rfl

theorem exec_dmaTimeout (p : Fin 2) (id : Nat) (t : Time) (s : State) :
    exec (.dmaTimeout p id t) s = execDmaTimeout p id t s := rfl

/-- A completion that names an outstanding read takes it off its port's list and ends it with data of its length. -/
theorem dmaReadCompletion_outstanding {s : State} {p : Fin 2} {r : DmaRead} {id : Nat} (ok : Bool) (data : List Byte)
    (hrun : Running s) (hr : ((s.hp p).dma.find? fun r => r.id == id && dmaOut r) = some r)
    (hio : ioFailed (s.hp p) = false) : exec (.dmaReadCompletion p id ok data) s =
      .next (settle (readDone (dropDma s p r) r ok (padTo r.len data))) := by
  rw [exec_dmaReadCompletion, execDmaReadCompletion, up_run hrun]
  simp only [hio, Bool.false_eq_true, if_false, hr]

theorem dmaTimeout_due {s : State} {p : Fin 2} {r : DmaRead} {id : Nat} {t : Time} (hrun : Running s)
    (hr : ((s.hp p).dma.find? fun r => r.id == id && dmaOut r && due (s.at_ t).now r.issued (ms 10)) = some r) :
    exec (.dmaTimeout p id t) s = .next (settle (dmaGot (dropDma (s.at_ t) p r) r false [])) := by
  rw [exec_dmaTimeout, execDmaTimeout, up_run hrun]
  simp only [at__hp, hr]

/-- The data of a staged command's last read stand ready for its activation tick. -/
theorem readDone_early {s : State} {r : DmaRead} (data : List Byte) (hlast : lastRead r = true)
    (hstaged : Desc.staged r.desc = true) (hearly : s.now < Desc.activate r.desc) : readDone s r true data =
      s.onRgn fun g => { g with staged :=
        g.staged ++ [⟨Desc.activate r.desc, orderOf s r.origin, r.origin, r.desc, r.pick, some (r.got, data)⟩] } :=
  if_pos ⟨rfl, hlast, hstaged, hearly⟩

/-- Otherwise they go to the command, once the compartment that takes them runs. -/
theorem readDone_taken {s : State} {r : DmaRead} (ok : Bool) (data : List Byte)
    (hnow : lastRead r = true → Desc.staged r.desc = true → Desc.activate r.desc ≤ s.now)
    (hloader : loaderOn s r.desc = true) : readDone s r ok data = dmaGot s r ok data := by
  rw [readDone, if_neg fun ⟨_, hlast, hstaged, hearly⟩ => Nat.not_lt.2 (hnow hlast hstaged) hearly, landRead,
    if_neg (by simp [hloader])]

/-- Settles O3: a completion ends the read at once or at its command's tick, and the timeout ends it as failed. -/
theorem dmaReadsEnd : Obligations.DmaReadsEnd := by
  intro s p r hrun
  refine ⟨?_, ?_, fun id t hr => dmaTimeout_due hrun hr⟩
  · intro id ok data hr hio u hnow hloader
    rw [dmaReadCompletion_outstanding ok data hrun hr hio, readDone_taken ok _ hnow hloader]
  · intro id data hr hio u hlast hstaged hearly
    rw [dmaReadCompletion_outstanding true data hrun hr hio, readDone_early _ hlast hstaged hearly]

/-! ### The mailbox (R505) -/

section
variable (p : Fin 2) (s : State)

theorem exec_identifyMemoryDevice :
    exec (.identifyMemoryDevice p) s = up s fun s => mailbox s p 0x4000 true (leBytes 8 (2 ^ 40)) := rfl

theorem exec_getSupportedLogs : exec (.getSupportedLogs p) s = up s fun s => mailbox s p 0x0400 true [] := rfl

theorem exec_getLog : exec (.getLog p) s = up s fun s => mailbox s p 0x0401 true [] := rfl

theorem exec_getHealthInfo : exec (.getHealthInfo p) s = up s fun s => mailbox s p 0x4200 true [] := rfl

theorem exec_getEventRecords :
    exec (.getEventRecords p) s = up s fun s => mailbox s p 0x0100 true (s.hp p).mboxEvents.flatten := rfl

theorem exec_clearEventRecords : exec (.clearEventRecords p) s = up s fun s =>
    mailbox (throughPort s p fun s => s.onHp p fun h => { h with mboxEvents := [] }) p 0x0101 true [] := rfl

theorem exec_mailboxUnsupported (op : BitVec 16) :
    exec (.mailboxUnsupported p op) s = up s fun s => mailbox s p op false [] := rfl

end

/-- An open port gives a mailbox command its answer. -/
theorem mailbox_run {s : State} {p : Fin 2} {op : BitVec 16} {ok : Bool} {data : State → List Byte} (h : PortOpen s p) :
    up s (fun s => mailbox s p op ok (data s)) = .next (s.emit (.mailbox p op ok (data s))) := by
  rw [up_run h.1, mailbox, port_run h]

/-- A port stays open when its event log is emptied. -/
theorem portOpen_clearEvents {s : State} {p : Fin 2} (h : PortOpen s p) :
    PortOpen (s.onHp p fun h => { h with mboxEvents := [] }) p := by
  unfold PortOpen
  rw [onHp_hp]
  exact h

/-- Settles O5: each command is answered through the open port, and emptying the event log leaves it open. -/
theorem mailboxCommandsAnswer : Obligations.MailboxCommandsAnswer := by
  intro s p hopen
  refine ⟨(exec_identifyMemoryDevice p s).trans (mailbox_run hopen),
    (exec_getSupportedLogs p s).trans (mailbox_run hopen), (exec_getLog p s).trans (mailbox_run hopen),
    (exec_getHealthInfo p s).trans (mailbox_run hopen), (exec_getEventRecords p s).trans (mailbox_run hopen), ?_,
    fun op => (exec_mailboxUnsupported p s op).trans (mailbox_run hopen)⟩
  rw [exec_clearEventRecords, up_run hopen.1, port_run hopen, mailbox, port_run (portOpen_clearEvents hopen)]

/-! ### Taking a command (R516 to R521, R725) -/

theorem exec_commandTake (p : Fin 2) (s : State) : exec (.commandTake p) s = execCommandTake p s := rfl

/-- A port that is present and whose rings are served takes its next command. -/
theorem commandTake_served {s : State} {p : Fin 2} (hrun : Running s) (hp : hpPresent s p = true)
    (hserved : ringServed s p = true) :
    exec (.commandTake p) s = .next (takeCommand s p fun op => (specOf op).isSome) := by
  rw [exec_commandTake, execCommandTake, up_run hrun, if_pos ⟨hp, hserved⟩]

theorem takeCommand_none {s : State} {p : Fin 2} (defined : Nat → Bool) (h : nextRing s p = none) :
    takeCommand s p defined = s := by
  rw [takeCommand, h]

/-- Settles O44: with no ring to serve the state stays as it is; else, with the line in hand, the command is taken. -/
theorem commandIsTaken : Obligations.CommandIsTaken := by
  intro s p hrun hp hserved
  rw [commandTake_served hrun hp hserved]
  refine ⟨fun hnone => congrArg _ (takeCommand_none _ hnone), fun n h u hnext hhome hprep => ?_⟩
  rw [takeCommand, hnext]
  dsimp only
  rw [hhome]
  dsimp only
  rw [hprep]
  exact congrArg _ (if_neg (not_not.2 rfl))

end Sys2Proof.Machine
end

section
/-! PROOFS. What every command and every step of the machine does: it answers a next state, and
leaves the queue as it is. -/

namespace Sys2Proof.Machine

/-! ### The front of the queue, and words (log entry 1) -/

/-- Settles O37: with a command at the front of the queue, a step is that command on the rest. -/
theorem stepRunsFrontCommand : Obligations.StepRunsFrontCommand := fun _ _ _ h => step_command h

theorem decodeTableWord_eq_none (n w : Nat) : decodeTableWord n w = none := rfl

/-- Settles O43: a word that decodes to no command puts none in the queue. -/
theorem noWordSpellsACommand : Obligations.NoWordSpellsACommand := by
  refine fun n w s => ⟨decodeTableWord_eq_none n w, ?_⟩
  rw [State.withFetchWord, decodeTableWord_eq_none]

/-! ### The queue -/

/-- Settles O40: every command keeps the queue it finds, which in a step is the queue without its front. -/
theorem queueUntouched : Obligations.QueueUntouched := by
  refine ⟨fun c s t h => (exec_keeps c s t h).queue, fun s t h => ?_⟩
  cases hq : s.pending with
  | nil =>
    obtain rfl : idle s = t := Host.Outcome.next.inj ((step_idle hq).symm.trans h)
    exact (idle_keeps s (.refl s)).queue.trans hq
  | cons c rest =>
    rw [step_command hq] at h
    exact (exec_keeps c { s with pending := rest } t h).queue

/-! ### JTAG (R718 to R721) -/

section
variable (s : State)

theorem exec_bypass : exec .bypass s = tap s fun s => (tapQuiet s "BYPASS").onDev fun d => { d with tapDr := 0 } := rfl

theorem exec_idcode : exec .idcode s =
    tap s fun s => ((tapQuiet s "IDCODE").onDev fun d => { d with tapDr := idcodeValue }).emit (.tdo idcodeValue) := rfl

theorem exec_samplePreload : exec .samplePreload s = tap s fun s => tapQuiet s "SAMPLE/PRELOAD" := rfl

theorem exec_extest : exec .extest s = tap s fun s => pinsOut s "EXTEST" := rfl

theorem exec_clamp : exec .clamp s = tap s fun s => pinsOut s "CLAMP" := rfl

theorem exec_highz : exec .highz s = tap s fun s => pinsOut s "HIGHZ" := rfl

theorem exec_trstNAssert : exec .trstNAssert s = tap s fun s => closeSession (tapQuiet s "IDCODE") 0 := rfl

theorem exec_dapAccess (l : Fin 3) : exec (.dapAccess l) s = tap s fun s =>
    if (tapQuiet s "DAP_ACCESS").dev.held then tapQuiet s "DAP_ACCESS"
    else if l.val = 0 then closeSession (tapQuiet s "DAP_ACCESS") 0
    else openSession (tapQuiet s "DAP_ACCESS") 0 l.val none := rfl

end

/-! ### Every outcome is a next state -/

section
variable (a : Arrival) (own : Bool) (zs ze k : State → State) (s : State)

theorem atDest_next : ∃ t, atDest a own zs ze s = .next t := by
  unfold atDest; cases a.part <;> exact ⟨_, rfl⟩

theorem atSource_next : ∃ t, atSource a own s = .next t := by
  unfold atSource; cases a.part <;> exact ⟨_, rfl⟩

theorem atEndPoint_next : ∃ t, atEndPoint a own ze s = .next t := by
  unfold atEndPoint; cases a.part <;> exact ⟨_, rfl⟩

theorem tap_run (h : s.dev.vio = true) : tap s k = .next (k s) := by
  rw [tap, h]; rfl

theorem tap_next : ∃ t, tap s k = .next t := by
  unfold tap; split <;> exact ⟨_, rfl⟩

end

theorem execSnoopResp_next (a : Arrival) (s : State) : ∃ t, execSnoopResp a s = .next t := by
  unfold execSnoopResp; cases a.part <;> exact ⟨_, rfl⟩

theorem execFlitReceive_next (x : LinkEnd) (f : Flit) (s : State) : ∃ t, execFlitReceive x f s = .next t := by
  unfold execFlitReceive; cases x.part <;> exact ⟨_, rfl⟩

theorem execSysResetNAssert_next (ns : Nat) (taken released : Bool) (s : State) :
    ∃ t, execSysResetNAssert ns taken released s = .next t := by
  unfold execSysResetNAssert; split_ifs <;> exact ⟨_, rfl⟩

theorem execRailOutOfRange_next (rail : Rail) (ns : Nat) (back : Bool) (s : State) :
    ∃ t, execRailOutOfRange rail ns back s = .next t := by
  unfold execRailOutOfRange; split_ifs <;> exact ⟨_, rfl⟩

theorem execRefclkFLoss_next (ns : Nat) (back : Bool) (s : State) : ∃ t, execRefclkFLoss ns back s = .next t := by
  unfold execRefclkFLoss; split_ifs <;> exact ⟨_, rfl⟩

/-- Packets have an outcome at either part, so do timers and messages that name a part; a pin has one in each of its
cases; every other command acts through the running switch or at the ZE-208 alone. -/
theorem exec_completes (c : Instr) (s : State) : Completes c s := by
  cases c with
  | read _ _ | readOwn _ _ | counterRead _ | write _ | closingWrite _ | store _ | writeback _ | atomic _ _
  | epcWrite _ | epcRead _ | partnerWrite _ | partnerRead _ _ | capSet _ | carryCmd _ _ | carryCpl _ | grantReq _ _
  | partnerFree _ | tableReq _ => exact atDest_next ..
  | partnerData _ | epcData _ | grant _ | tableData _ | ack _ | nack _ | hold _ | readReply _ | atomicReply _
  | counterReply _ => exact atSource_next ..
  | snoopInv _ | snoopRecall _ | reduceResult _ => exact atEndPoint_next ..
  | snoopResp a => exact execSnoopResp_next a s
  | flitReceive x f => exact execFlitReceive_next x f s
  | closingWriteRelease part | closingWriteDiscard part | holdTimer part | retransmit part | giveUp part
  | rateRaise part | graceClose part | epochWaitExpire part | beacon part | beaconSend part | firstLock part
  | parentLoss part | status part | report part | probe part | verdict part | verdictApply part =>
    cases part <;> exact ⟨_, rfl⟩
  | bypass | idcode | samplePreload | extest | clamp | highz | dapAccess _ | trstNAssert =>
    simp only [Completes, exec_bypass, exec_idcode, exec_samplePreload, exec_extest, exec_clamp, exec_highz,
      exec_dapAccess, exec_trstNAssert, tap_next]
  | sysResetNAssert ns taken released => exact execSysResetNAssert_next ns taken released s
  | railOutOfRange rail ns back => exact execRailOutOfRange_next rail ns back s
  | refclkFLoss ns back => exact execRefclkFLoss_next ns back s
  | _ => exact ⟨_, rfl⟩

/-- Settles O39: a step is an idle tick or a command, and each answers a next state. -/
theorem everyCommandCompletes : Obligations.EveryCommandCompletes := by
  refine ⟨exec_completes, fun s => ?_⟩
  cases hq : s.pending with
  | nil => exact ⟨_, step_idle hq⟩
  | cons c rest => rw [step_command hq]; exact exec_completes c _

/-- DAP_ACCESS of a switch that is not held sets debug session 0. -/
theorem dapAccess_run {s : State} (l : Fin 3) (hvio : s.dev.vio = true) (hheld : s.dev.held = false) :
    exec (.dapAccess l) s = .next (if l.val = 0 then closeSession (tapQuiet s "DAP_ACCESS") 0
      else openSession (tapQuiet s "DAP_ACCESS") 0 l.val none) := by
  have hq : (tapQuiet s "DAP_ACCESS").dev.held = false := hheld
  rw [exec_dapAccess, tap_run _ s hvio]
  simp only [hq, Bool.false_eq_true, if_false]

/-- Settles O29: each instruction acts through the test port, which is open while VIO is present. That TRST_N leaves
IDCODE in force is log entry 10, and what EXTEST, CLAMP and HIGHZ do to the device log entry 123. -/
theorem jtagInstructionsAnswer : Obligations.JtagInstructionsAnswer := by
  intro s hvio
  refine ⟨(exec_bypass s).trans (tap_run _ s hvio), (exec_idcode s).trans (tap_run _ s hvio),
    (exec_samplePreload s).trans (tap_run _ s hvio), (exec_extest s).trans (tap_run _ s hvio),
    (exec_clamp s).trans (tap_run _ s hvio), (exec_highz s).trans (tap_run _ s hvio), fun hheld => ?_,
    fun l hheld hl => ?_, (exec_trstNAssert s).trans (tap_run _ s hvio)⟩
  · exact dapAccess_run 0 hvio hheld
  · rw [dapAccess_run l hvio hheld, if_neg (Fin.val_ne_zero_iff.2 hl)]

end Sys2Proof.Machine
end

section
/-! PROOFS. A switch that is off, and the pins that reset it. -/

namespace Sys2Proof.Machine

/-! ### A switch that is off (R772, R773, R776; log entries 109, 131) -/

theorem exec_drainSecondInstant (n : Node) (t : Time) (s : State) :
    exec (.drainSecondInstant n t) s = execDrainSecondInstant n t s := rfl

theorem drainSecondInstant_off {s : State} (n : Node) (t : Time) (h : s.dev.vio = false ∨ s.dev.held = true) :
    exec (.drainSecondInstant n t) s =
      let u := if s.ep.tn.lock = .unlocked then s else s.epAt t
      .next (if drainDueZe u n = true then atEp u fun s => endDrainZe s n else u) := by
  rw [exec_drainSecondInstant, execDrainSecondInstant, if_neg (not_on_of_off h)]

theorem execSnoopResp_off {s : State} {a : Arrival} (h : s.dev.vio = false ∨ s.dev.held = true)
    (ha : (a.part == Part.ze) = false) : execSnoopResp a s = .next s := by
  unfold execSnoopResp; rw [not_ze ha]; exact up_off h

theorem execFlitReceive_off {s : State} {x : LinkEnd} (f : Flit) (h : s.dev.vio = false ∨ s.dev.held = true)
    (hx : (x.part == Part.ze) = false) : execFlitReceive x f s = .next s := by
  unfold execFlitReceive; rw [not_ze hx]; exact up_off h

/-- A command that concerns neither the pins, nor JTAG, nor the ZE-208 acts through the running switch alone. -/
theorem exec_off {s : State} (c : Instr) (h : s.dev.vio = false ∨ s.dev.held = true) (hpin : pinOrJtag c = false)
    (hep : ofEndPoint c = false) (htime : timeOfEndPoint c = false) : exec c s = .next s := by
  cases c with
  | sysResetNAssert | railOutOfRange | refclkFLoss | bypass | idcode | samplePreload | extest | clamp | highz | dapAccess
  | trstNAssert => cases hpin
  | relay | opRead | opWrite | opAtomic | opFence | opFlush | opInval | opCounterRead | copyOut | copyIn | contrib
  | tileFence | prodDoorbell | abortDoorbell | winRd | winCounterWrite | mrdCpl | mwrCpl | d2dTimeout | avoidanceExpire
  | portEnable | epConfigure | ep0LinkLoss | epConfigLoss | epThermalTrip | d2dLinkDown | contribProbe => cases hep
  | drainSecondInstant => cases htime
  | read | readOwn | counterRead | write | closingWrite | store | writeback | atomic | epcWrite | epcRead | partnerWrite
  | partnerRead | capSet | carryCmd | carryCpl | grantReq | partnerFree | tableReq => exact dest_off h hep
  | partnerData | epcData | grant | tableData | ack | nack | hold | readReply | atomicReply | counterReply =>
    exact src_off h hep
  | snoopInv | snoopRecall | reduceResult => exact ep_off h hep
  | snoopResp => exact execSnoopResp_off h hep
  | flitReceive _ f => exact execFlitReceive_off f h hep
  | closingWriteRelease part | closingWriteDiscard part | holdTimer part | retransmit part | giveUp part
  | rateRaise part | graceClose part | epochWaitExpire part =>
    obtain rfl := not_ze hep
    exact congrArg Host.Outcome.next (if_neg (not_on_of_off h))
  | beacon part | beaconSend part | firstLock part | parentLoss part | status part | report part | probe part
  | verdict part | verdictApply part => exact part_off h htime
  | _ => exact congrArg Host.Outcome.next (if_neg (not_on_of_off h))

/-- Settles O48: a command of the switch alone is not heard, and a drain's second instant reaches the ZE-208 (log
entries 131 and 109 deduce that of the manual). -/
theorem heldSwitchIgnoresCommands : Obligations.HeldSwitchIgnoresCommands := fun c _ h hpin hep htime =>
  ⟨exec_off c h hpin hep htime, fun n t => drainSecondInstant_off n t h⟩

/-! ### Pins, rails and the reference clock (R772 to R776; log entries 10, 27, 129, 131) -/

theorem exec_sysResetNAssert (ns : Nat) (taken released : Bool) (s : State) :
    exec (.sysResetNAssert ns taken released) s = execSysResetNAssert ns taken released s := rfl

theorem exec_railOutOfRange (rail : Rail) (ns : Nat) (back : Bool) (s : State) :
    exec (.railOutOfRange rail ns back) s = execRailOutOfRange rail ns back s := rfl

theorem exec_refclkFLoss (ns : Nat) (back : Bool) (s : State) :
    exec (.refclkFLoss ns back) s = execRefclkFLoss ns back s := rfl

section
variable {s : State} {ns : Nat} {rail : Rail}

/-- A pulse that counts resets the switch. -/
theorem sysResetNAssert_counts {taken : Bool} (released : Bool) (hvio : s.dev.vio = true)
    (hns : 1000 ≤ ns ∨ (100 ≤ ns ∧ taken = true)) : exec (.sysResetNAssert ns taken released) s =
      .next ((resetNow s).onDev fun d => { d with resetLow := !released }) := by
  rw [exec_sysResetNAssert, execSysResetNAssert, if_neg (by simp [hvio]), if_pos hns]

theorem railOutOfRange_vio (ns : Nat) (back : Bool) (s : State) : exec (.railOutOfRange .vio ns back) s =
    .next (if s.dev.vio = true ∧ (!back) = true
      then (resetNow s).onDev fun d => { d with vio := false, thermtrip := false }
      else (resetNow s).onDev fun d =>
        { d with vio := true, thermtrip := false, tapIr := "IDCODE", pinsOff := false }) := by
  rw [exec_railOutOfRange, execRailOutOfRange, if_pos rfl]

theorem railOutOfRange_out (back : Bool) (hvio : s.dev.vio = true) (hrail : rail ≠ .vio)
    (hin : s.dev.railsOut.contains rail = false) (hns : longPulse ns = true) : exec (.railOutOfRange rail ns back) s =
      .next ((resetNow s).onDev fun d => { d with railsOut := if back then d.railsOut else d.railsOut ++ [rail] }) := by
  rw [exec_railOutOfRange, execRailOutOfRange, if_neg hrail, if_neg (by simp [hvio]),
    if_neg (ne_true_of_eq_false hin), if_pos hns]

theorem railOutOfRange_back (ns : Nat) (hvio : s.dev.vio = true) (hrail : rail ≠ .vio)
    (hout : s.dev.railsOut.contains rail = true) : exec (.railOutOfRange rail ns true) s =
      .next ((resetNow s).onDev fun d => { d with railsOut := d.railsOut.erase rail }) := by
  rw [exec_railOutOfRange, execRailOutOfRange, if_neg hrail, if_neg (by simp [hvio]), if_pos hout, if_pos rfl]

theorem refclkFLoss_counts (back : Bool) (hvio : s.dev.vio = true) (h : s.dev.refOut = true ∨ longPulse ns = true) :
    exec (.refclkFLoss ns back) s = .next ((resetNow s).onDev fun d => { d with refOut := !back }) := by
  rw [exec_refclkFLoss, execRefclkFLoss, if_neg (by simp [hvio]), if_pos h]

end

/-- Settles O33: one lemma for each pin and for each way of a rail. -/
theorem resetPinsAnswer : Obligations.ResetPinsAnswer := by
  intro s
  refine ⟨fun ns taken rel hvio hns => sysResetNAssert_counts rel hvio hns,
    fun rail ns back hvio hrail hin hns => railOutOfRange_out back hvio hrail hin hns,
    fun rail ns hvio hrail hout => railOutOfRange_back ns hvio hrail hout, fun ns hvio => ?_, fun ns hvio => ?_,
    fun ns back hvio h => refclkFLoss_counts back hvio h⟩
  · rw [railOutOfRange_vio, if_pos ⟨hvio, rfl⟩]
  · rw [railOutOfRange_vio, if_neg (by simp [hvio])]

end Sys2Proof.Machine
end

section
/-! PROOFS. The time registers: their fields, their values after reset, and writes to them. -/

namespace Sys2Proof.Machine

/-! ### Fields of a register -/

/-- The bits of a field, read back from where it stands. -/
theorem extractLsb'_field {lo n : Nat} (v : Nat) (h : lo + n ≤ 64) :
    (BitVec.ofNat 64 ((v % 2 ^ n) <<< lo)).extractLsb' lo n = BitVec.ofNat n v := by
  refine BitVec.eq_of_getLsbD_eq fun i hi => ?_
  have hi64 : lo + i < 64 := by omega
  simp only [BitVec.getLsbD_extractLsb', BitVec.getLsbD_ofNat, Nat.testBit_shiftLeft, Nat.testBit_mod_two_pow, hi, hi64,
    decide_true, Bool.true_and, Nat.le_add_right, ge_iff_le, Nat.add_sub_cancel_left]

/-- The bits of a field that stands elsewhere are 0. -/
theorem extractLsb'_field_other {lo n lo' n' : Nat} (v : Nat) (h : lo' + n' ≤ lo ∨ lo + n ≤ lo') :
    (BitVec.ofNat 64 ((v % 2 ^ n') <<< lo')).extractLsb' lo n = 0#n := by
  refine BitVec.eq_of_getLsbD_eq fun i hi => ?_
  have hout : ¬ (lo' ≤ lo + i ∧ lo + i - lo' < n') := by omega
  simp only [BitVec.getLsbD_extractLsb', BitVec.getLsbD_ofNat, Nat.testBit_shiftLeft, Nat.testBit_mod_two_pow]
  grind

/-! ### TIM_NOW and TIM_STATUS (R636, R637) -/

theorem regRead_timNow (s : State) (p : Fin 2) : regRead s p 0x5000000 = pack [(0, 64, s.now)] := rfl

/-- STATE of TIM_STATUS. -/
def lockCode : LockSt → Nat
  | .unlocked => 0
  | .locked => 1
  | .holdover => 2

theorem regRead_timStatus (s : State) (p : Fin 2) : regRead s p 0x5000008 =
    pack [(40, 8, s.flt.tn.parent.getD 0xFF), (32, 8, s.flt.tn.depth), (16, 16, (s.flt.tn.offset % 65536).toNat),
      (0, 2, lockCode s.flt.tn.lock)] := by
  change regTim s 8 = _
  rw [regTim, if_neg (by decide), if_pos rfl]
  cases s.flt.tn.lock <;> rfl

/-- A signed offset in 16 bits. -/
theorem ofNat_toNat_emod (x : Int) : BitVec.ofNat 16 (x % 65536).toNat = BitVec.ofInt 16 x := by
  apply BitVec.eq_of_toNat_eq
  rw [BitVec.toNat_ofNat, BitVec.toNat_ofInt]
  omega

/-- No register of the TIM page can be written. -/
theorem writeReg_tim (s : State) (off : Nat) (v : BitVec 64) (lo hi : Bool) (h : 0x5000000 ≤ off) :
    writeReg s off v lo hi = s := by
  unfold writeReg
  rw [if_neg (by omega), if_neg (by omega), if_neg (by omega), if_neg (by omega)]

/-- A well-formed register write of the TIM page is ignored. -/
theorem registerWrite_tim {s : State} {p : Fin 2} {o : BitVec 28} {size8 : Bool} (v : BitVec 64) (h : PortOpen s p)
    (hok : accessOk o.toNat (if size8 then 8 else 4) = true) (ho : 0x5000000 ≤ o.toNat) :
    exec (.registerWrite p o size8 v) s = .next s := by
  rw [exec_registerWrite, execRegisterWrite, up_run h.1, port_run h]
  simp only [hok, Bool.not_true, Bool.false_eq_true, if_false]
  rw [if_neg (by omega), writeReg_tim _ _ _ _ _ (by omega)]

/-- Each field of TIM_STATUS, read back from where it stands. -/
theorem timStatus_fields (s : State) (p : Fin 2) :
    let v := regRead s p 0x5000008
    v.extractLsb' 48 16 = 0#16 ∧ v.extractLsb' 2 14 = 0#14 ∧
    v.extractLsb' 40 8 = BitVec.ofNat 8 (s.flt.tn.parent.getD 0xFF) ∧
    v.extractLsb' 32 8 = BitVec.ofNat 8 s.flt.tn.depth ∧ v.extractLsb' 16 16 = BitVec.ofInt 16 s.flt.tn.offset ∧
    v.extractLsb' 0 2 = BitVec.ofNat 2 (lockCode s.flt.tn.lock) := by
  simp (disch := omega) only [regRead_timStatus, pack, List.foldl_cons, List.foldl_nil, BitVec.ofNat_eq_ofNat,
    BitVec.extractLsb'_or, extractLsb'_field, extractLsb'_field_other, ofNat_toNat_emod, BitVec.zero_or,
    BitVec.or_zero, and_self]

/-- Settles O58: the fields of the packed registers, the registers of the reset state, and a page that ignores writes. -/
theorem timeRegisters : Obligations.TimeRegisters := by
  refine ⟨fun s p => ?_, fun s p => ?_, fun p => ⟨?_, ?_⟩, fun s p v size8 h => ⟨?_, ?_⟩⟩
  · rw [regRead_timNow]; simp [pack]
  · obtain ⟨hhigh, hlow, hparent, hdepth, hoffset, hlock⟩ := timStatus_fields s p
    refine ⟨hhigh, hlow, hparent.trans ?_, hdepth, hoffset, hlock.trans ?_⟩
    · cases s.flt.tn.parent <;> rfl
    · cases s.flt.tn.lock <;> rfl
  · rw [regRead_timNow]; decide
  · rw [regRead_timStatus]; decide
  · exact registerWrite_tim v h (by cases size8 <;> rfl) (by decide)
  · exact registerWrite_tim v h (by cases size8 <;> rfl) (by decide)

end Sys2Proof.Machine
end

section
/-! PROOFS. Signed reports, firmware updates, restarts of cores and compartments, and flash writes. -/

namespace Sys2Proof.Machine

/-! ### Security commands (R698, R711 to R717, R756; log entries 118 to 120) -/

theorem exec_reportSigned (t : Time) (s : State) : exec (.reportSigned t) s = execReportSigned t s := rfl

theorem exec_fwCommit (t : Time) (s : State) : exec (.fwCommit t) s = execFwCommit t s := rfl

theorem exec_fwRollback (cause : Byte) (t : Time) (s : State) :
    exec (.fwRollback cause t) s = execFwRollback cause t s := rfl

theorem exec_compartmentFail (n : Fin 4) (k : Fin 8) (cause : Byte) (t : Time) (s : State) :
    exec (.compartmentFail n k cause t) s = execCompartmentFail n k cause t s := rfl

theorem exec_coreFail (n : Fin 4) (cause : Byte) (t : Time) (s : State) :
    exec (.coreFail n cause t) s = execCoreFail n cause t s := rfl

theorem exec_flashWriteEnd (ok : Bool) (s : State) : exec (.flashWriteEnd ok) s = execFlashWriteEnd ok s := rfl

section
variable {s : State} {t : Time} {cause : Byte}

/-- The oldest report leaves where ATTEST runs and its port takes DMA writes. -/
theorem reportSigned_oldest {q : ReportReq} {rest : List ReportReq} (hrun : Running s) (hq : s.sec.queue = q :: rest)
    (hat : homedOn s compATTEST 1 = true) (hdma : dmaOk s (originPort q.origin) = true) : exec (.reportSigned t) s =
      let u := (s.at_ t).onSec fun c => { c with queue := rest, reportsN := bump c.reportsN }
      .next (complete (dmaWrite u (originPort q.origin) (Desc.fld q.desc 56 8) (wholeReport u q.body)) q.origin q.desc
        stOk (leBytes 4 (wholeReport u q.body).length)) := by
  have hq' : (s.at_ t).sec.queue = q :: rest := hq
  have hat' : homedOn (s.at_ t) compATTEST 1 = true := hat
  have hdma' : dmaOk ((s.at_ t).onSec fun c => { c with queue := rest, reportsN := bump c.reportsN })
    (originPort q.origin) = true := hdma
  rw [exec_reportSigned, execReportSigned, up_run hrun]
  simp only [hq', hat', hdma', Bool.not_true, Bool.false_eq_true, if_false, if_true]

/-- An update that UPDATE confirms within 500 ms is in force. -/
theorem fwCommit_inTime {u : FwUp} (hrun : Running s) (hu : updating s = some u)
    (hat : homedOn s compUPDATE 1 = true) (hin : (s.at_ t).now ≤ u.began + ms 500) : exec (.fwCommit t) s =
      let x := (List.range 4).foldl clearHeld ((s.at_ t).onSec fun c => { c with
        fwDigest := u.digest, fwVersion := u.version, updates := c.updates + 1, update := none })
      .next (complete (fwEvent x.stepFree 0x7B (BitVec.ofNat 8 ((compPlace x 1).getD 0)) 0xFF (x.freeWord.setWidth 8) 0)
        u.origin u.desc stOk []) := by
  have hu' : updating (s.at_ t) = some u := hu
  have hat' : homedOn (s.at_ t) compUPDATE 1 = true := hat
  rw [exec_fwCommit, execFwCommit, up_run hrun]
  simp only [hu', hat', Nat.not_lt.2 hin, Bool.not_true, Bool.false_eq_true, or_self, if_false]

theorem fwRollback_caused {u : FwUp} (hrun : Running s) (hu : updating s = some u)
    (hc : cause = 4 ∨ cause = 7 ∨ (cause = 5 ∧ due (s.at_ t).now u.began (ms 500) = true)) :
    exec (.fwRollback cause t) s = .next (rollBack (s.at_ t) cause) := by
  have hu' : updating (s.at_ t) = some u := hu
  rw [exec_fwRollback, execFwRollback, up_run hrun]
  simp only [hu', if_pos hc]

/-- The failure of compartment 0 is a failure of its core. -/
theorem compartmentFail_zero {n : Fin 4} (hrun : Running s) (hp : compPlaced s 0 n = true)
    (hon : compOn s 0 n = true) (hc : cause ≤ 2) :
    exec (.compartmentFail n 0 cause t) s = .next (coreRestart (s.at_ t) n cause) := by
  rw [exec_compartmentFail, execCompartmentFail, up_run hrun]
  exact congrArg _ ((if_pos ⟨hp, hon, hc⟩).trans (if_pos rfl))

/-- Another compartment restarts alone, and is held after its eighth restart within a second. -/
theorem compartmentFail_ne_zero {n : Fin 4} {k : Fin 8} (hrun : Running s) (hk : k ≠ 0)
    (hp : compPlaced s k n = true) (hon : compOn s k n = true) (hc : cause ≤ 2) :
    exec (.compartmentFail n k cause t) s =
      let ts := (k.val, (s.at_ t).now) :: (coreOf s n).compTimes.filter fun x => within1s (s.at_ t).now x.2
      let cnt := (ts.filter fun x => x.1 == k.val).length
      let u := fwEvent (onCore (s.at_ t) n fun c => { c with compRestarts := bump c.compRestarts, compTimes := ts })
        0x78 (BitVec.ofNat 8 n) (BitVec.ofNat 8 k) cause cnt
      let u := compResumes (updateFails u (k.val == compUPDATE)) k n
      .next (if cnt ≥ 8 then
          fwEvent (onCore u n fun c => { c with heldComps := c.heldComps ||| BitVec.ofNat 8 (2 ^ k.val) })
            0x7A (BitVec.ofNat 8 n) (BitVec.ofNat 8 k) cause cnt
        else u) := by
  rw [exec_compartmentFail, execCompartmentFail, up_run hrun]
  exact congrArg _ ((if_pos ⟨hp, hon, hc⟩).trans (if_neg (Fin.val_ne_zero_iff.2 hk)))

theorem coreFail_running {n : Fin 4} (hrun : Running s) (hr : coreRuns s n = true)
    (hh : (coreOf s n).halted = false) (hc : cause ≤ 3) :
    exec (.coreFail n cause t) s = .next (coreRestart (s.at_ t) n cause) := by
  have hh' : (!(coreOf (s.at_ t) n).halted) = true := by rw [Bool.not_eq_true']; exact hh
  rw [exec_coreFail, execCoreFail, up_run hrun]
  exact congrArg _ (if_pos ⟨hr, hh', hc⟩)

theorem flashWriteEnd_writing {ok : Bool} {j : FlashJob} (hrun : Running s) (hj : s.sec.flash = some j)
    (hw : j.writing = true) : exec (.flashWriteEnd ok) s =
      .next (flashDone (s.onSec fun c => { c with flash := some { j with writing := false, failed := !ok } })) := by
  rw [exec_flashWriteEnd, execFlashWriteEnd, up_run hrun]
  simp only [hj, hw, if_true]

end

/-- Settles O28: one lemma for each command. The event of a commit has a free CAUSE and the held marks are cleared as
log entries 119 and 120 deduce, and a restart is complete at once (log entry 118). -/
theorem securityCommandsAnswer : Obligations.SecurityCommandsAnswer := by
  intro s hrun
  exact ⟨fun t q rest hq hat hdma => reportSigned_oldest hrun hq hat hdma,
    fun t u hu hat hin => fwCommit_inTime hrun hu hat hin, fun cause t u hu hc => fwRollback_caused hrun hu hc,
    fun n cause t hp hon hc => compartmentFail_zero hrun hp hon hc,
    fun n k cause t hk hp hon hc => compartmentFail_ne_zero hrun hk hp hon hc,
    fun n cause t hr hh hc => coreFail_running hrun hr hh hc, fun ok j hj hw => flashWriteEnd_writing hrun hj hw⟩

end Sys2Proof.Machine
end

section
/-! PROOFS. The events of a lost stack leave the security processor alone: what the packets, records and traces that they
send change stands elsewhere in the state. -/

namespace Sys2Proof.Machine

/-! ### Packets that the switch sends (R155, R240) -/

section
variable (s : State)

theorem foldl_sec {α : Type} {F : State → α → State} (hF : ∀ s a, (F s a).sec = s.sec) (l : List α) :
    (l.foldl F s).sec = s.sec := by
  induction l generalizing s with
  | nil => rfl
  | cons a l ih => rw [List.foldl_cons, ih, hF]

@[simp] theorem onFc_sec (p : Nat) (f : PortFc → PortFc) : (onFc s p f).sec = s.sec := rfl

@[simp] theorem refreshXoff_sec (q : Fin 4) : (refreshXoff s q).sec = s.sec := by
  refine foldl_sec s (fun s p => foldl_sec s (fun s v => ?_) vcs) _
  simp only [refreshXoff1]
  split <;> rfl

@[simp] theorem storePacket_sec (pkt : Packet) (q : Fin 4) (a : Option (Fin 64)) (vc : Fin 8) (refs : Nat) :
    (storePacket s pkt q a vc refs).sec = s.sec := by
  simp only [storePacket, refreshXoff_sec, State.onSwc_sec]

@[simp] theorem enqueueNow_sec (id : Nat) (pkt : Packet) (p : Fin 64) (vc : Fin 8) :
    (enqueueNow s id pkt p vc).sec = s.sec := by
  simp only [enqueueNow, State.onSwc_sec]
  split <;> rfl

@[simp] theorem enqueue_sec (id : Nat) (pkt : Packet) (p : Fin 64) (vc : Fin 8) (a : Option (Fin 64)) :
    (enqueue s id pkt p vc a).sec = s.sec := by
  simp only [enqueue]
  split <;> simp

@[simp] theorem routeTaken_sec (r : RouteRes) : (routeTaken s r).sec = s.sec := by
  cases r <;> rfl

@[simp] theorem mcastForward_sec (pkt : Packet) (q : Fin 4) (a : Option (Fin 64)) (vc : Fin 8) :
    (mcastForward s pkt q a vc).sec = s.sec := by
  have hqueue (s : State) (id : Nat) (l : List Nat) :
      (l.foldl (fun s p => enqueue s id pkt (Fin.ofNat 64 p) vc a) s).sec = s.sec :=
    foldl_sec s (fun s p => enqueue_sec s ..) l
  simp only [mcastForward]
  split
  · rfl
  · split
    · rfl
    · split <;> simp only [State.onSwc_sec, hqueue, storePacket_sec]

@[simp] theorem originateNow_sec (w : LocalWait) : (originateNow s w).sec = s.sec := by
  simp only [originateNow]
  repeat' split
  all_goals simp [countNoroute]

@[simp] theorem originate_sec (q : Fin 4) (vc : Fin 8) (port : Option (Fin 64)) (pkt : Packet) :
    (originate s q vc port pkt).sec = s.sec := by
  simp only [originate]
  split <;> simp

/-! ### Lines of a ring (R154, R512) -/

@[simp] theorem countRecall_sec : (countRecall s).sec = s.sec := rfl

@[simp] theorem snoop_sec (h : LineHome) (x : Fin 34) (owned drop : Bool) : (snoop s h x owned drop).sec = s.sec := by
  simp only [snoop]
  repeat' split
  all_goals simp

@[simp] theorem takeBack_sec (h : LineHome) : (takeBack s h).sec = s.sec := by
  unfold takeBack
  split
  · rfl
  · exact foldl_sec s (fun s x => snoop_sec s h x _ _) _

@[simp] theorem setLine_sec (line : Nat) (data : List Byte) (md : LineMeta) : (setLine s line data md).sec = s.sec := rfl

@[simp] theorem storeLine_sec (h : LineHome) (data : List Byte) (poison : Bool) :
    (storeLine s h data poison).sec = s.sec := by
  simp only [storeLine]
  repeat' split
  all_goals rfl

@[simp] theorem putRingLine_sec (p off : Nat) (data : List Byte) : (putRingLine s p off data).sec = s.sec := by
  unfold putRingLine
  repeat' split
  all_goals simp

/-! ### Event records and traces (R531, R605) -/

@[simp] theorem msix_sec (p v : Nat) : (msix s p v).sec = s.sec := by
  simp only [msix]
  repeat' split
  all_goals simp

@[simp] theorem writeEvent_sec (p : Nat) (r : List Byte) : (writeEvent s p r).sec = s.sec := by
  simp only [writeEvent, msix_sec, putRingLine_sec, State.onHp_sec]

@[simp] theorem eventMarker_sec (p : Nat) : (eventMarker s p).sec = s.sec := by
  simp only [eventMarker]
  split <;> simp

@[simp] theorem queueEvent_sec (p : Nat) (tag : Tag) (r : List Byte) : (queueEvent s p tag r).sec = s.sec := by
  unfold queueEvent
  split <;> simp [eventLost, loseEvent]

@[simp] theorem postEvent_sec (p : Nat) (tag : Tag) (r : List Byte) : (postEvent s p tag r).sec = s.sec := by
  simp only [postEvent]
  repeat' split
  all_goals simp [loseEvent]

@[simp] theorem traceAdd_sec (cls : Nat) (tag : Option Tag) (q unit : Nat) (kind : Byte) (data : List Byte) :
    (traceAdd s cls tag q unit kind data).sec = s.sec := by
  simp only [traceAdd]
  repeat' split
  all_goals rfl

@[simp] theorem memPostBoth_sec (r : List Byte) : (memPostBoth s r).sec = s.sec := by
  simp only [memPostBoth, traceMemory, bothEvent, traceAdd_sec, postEvent_sec]

@[simp] theorem memPost_sec (tag : Tag) (r : List Byte) : (memPost s tag r).sec = s.sec := by
  simp only [memPost, traceMemory, ownerEvent, traceAdd_sec]
  repeat' split
  all_goals simp

/-! ### A lost stack (R438) -/

theorem declareStackLost_sec (k : Nat) : (declareStackLost s k).sec = s.sec := by
  simp only [declareStackLost]
  split
  · rfl
  · refine (foldl_sec _ (fun s e => ?_) _).trans (by simp)
    split
    · rfl
    · simp

end
end Sys2Proof.Machine
end

section
/-! PROOFS. The steps of Dawn. -/

namespace Sys2Proof.Machine

/-! ### Dawn (R686, R738, R746 to R753; log entries 22, 125, 127) -/

theorem exec_dawnBootRom (q : BitVec 4) (sfdp : Bool) (t : Nat) (s : State) :
    exec (.dawnBootRom q sfdp t) s = execDawnBootRom q sfdp t s := rfl

theorem exec_dawnPuf (raw helper : List Byte) (t : Nat) (s : State) :
    exec (.dawnPuf raw helper t) s = execDawnPuf raw helper t s := rfl

theorem exec_dawnNvm (image : List Byte) (n t : Nat) (s : State) :
    exec (.dawnNvm image n t) s = execDawnNvm image n t s := rfl

theorem exec_dawnDram (bits : BitVec 16) (t : Nat) (s : State) :
    exec (.dawnDram bits t) s = execDawnDram bits t s := rfl

theorem exec_dawnLinks (t : Nat) (s : State) : exec (.dawnLinks t) s = execDawnLinks t s := rfl

theorem exec_dawnFarEndIdentity (t : Nat) (s : State) :
    exec (.dawnFarEndIdentity t) s = execDawnFarEndIdentity t s := rfl

theorem exec_dawnElectionAndLock (t : Nat) (s : State) :
    exec (.dawnElectionAndLock t) s = execDawnElectionAndLock t s := rfl

theorem exec_dawnModeEntered (t : Nat) (s : State) : exec (.dawnModeEntered t) s = execDawnModeEntered t s := rfl

section
variable {s : State} {t : Nat}

/-- The step in progress is not passed over. -/
theorem step_in_progress {n : Nat} {a b : State} (h : s.dev.step = n) : (if s.dev.step ≠ n then a else b) = b :=
  if_neg (not_not.2 h)

theorem dawnBootRom_run (q : BitVec 4) (sfdp : Bool) (hrun : Running s) (hstep : s.dev.step = 1) :
    exec (.dawnBootRom q sfdp t) s = .next (((stepEnds s t (if q = 0 then 0xE else 2)).onDev fun d =>
        { d with quadUp := q, quadFail := ~~~ q, sfdp := sfdp }).onSec fun c => { c with
      cores := (bitList q.toNat 4).map fun n => (n, { (default : Core) with running := true }) }) := by
  rw [exec_dawnBootRom, execDawnBootRom, up_run hrun, step_in_progress hstep]

/-- Without an answer to SFDP there is no helper record, and no identity. -/
theorem dawnPuf_noSfdp (raw helper : List Byte) (hrun : Running s) (hstep : s.dev.step = 2) (h : s.dev.sfdp = false) :
    exec (.dawnPuf raw helper t) s = .next ((stepEnds s t 4).onSec fun c => { c with cause := 1 }) := by
  rw [exec_dawnPuf, execDawnPuf, up_run hrun, step_in_progress hstep, if_pos (by simp [h])]

/-- The two ways in which the seed is not had are the two in which it is not had together. -/
theorem dawnPuf_sfdp (raw helper : List Byte) (hrun : Running s) (hstep : s.dev.step = 2) (h : s.dev.sfdp = true) :
    exec (.dawnPuf raw helper t) s =
      let x := Config.packageSeed
      .next (if Config.pufReads raw (helper.take 32768) = true ∧ checkOf x = sliceOf helper 32768 64 then
          let pk := padTo 64 (idPublicKey x)
          ((stepEnds s t 3).onSec fun c => { c with
            seed := x, pk := pk, keyReady := true, endorsement := helper.drop 32840 }).onDev fun d =>
              { d with serial := BitVec.ofNat 64 (fieldAt (shake256 pk) 0 8) }
        else (stepEnds s t 4).onSec fun c => { c with cause := 1 }) := by
  rw [exec_dawnPuf, execDawnPuf, up_run hrun, step_in_progress hstep, if_neg (by simp [h])]
  refine congrArg _ (Eq.trans ?_ (ite_not ..))
  refine if_congr ?_ rfl rfl
  rw [Bool.not_eq_true', ← Bool.not_eq_true, not_and_or]

theorem dawnNvm_run (image : List Byte) (n : Nat) (hrun : Running s) (hstep : s.dev.step = 3) :
    exec (.dawnNvm image n t) s = .next
      (match imageCheck (image.take (imageBytesOf image)) s.dev.sfdp n (some s.dev.serial) with
        | .ok l => applyImage (stepEnds s t 4) (image.take (imageBytesOf image)) l
        | .error c => (stepEnds s t 4).onSec fun x => { x with cause := c }) := by
  have hsfdp : (stepEnds s t 4).dev.sfdp = s.dev.sfdp := rfl
  have hserial : (stepEnds s t 4).dev.serial = s.dev.serial := rfl
  rw [exec_dawnNvm, execDawnNvm, up_run hrun, step_in_progress hstep]
  simp only [hsfdp, hserial]
  cases imageCheck (image.take (imageBytesOf image)) s.dev.sfdp n (some s.dev.serial) <;> rfl

/-- In a switch that is owned, Dawn goes on to step 5 with the lost stacks declared. -/
theorem dawnDram_owned (bits : BitVec 16) (hrun : Running s) (hstep : s.dev.step = 4) (hown : s.sec.owned = true) :
    exec (.dawnDram bits t) s =
      let here := (List.range 16).filter fun k => quadUp s (k / 4)
      let bad := here.filter fun k => bits.getLsbD k
      .next (bad.foldl declareStackLost (((stepEnds s t 5).onDev fun d =>
          { d with stackFail := BitVec.ofNat 16 (bad.map (2 ^ ·)).sum }).onPool fun p =>
        { p with trained := BitVec.ofNat 16 ((here.filter fun k => !bits.getLsbD k).map (2 ^ ·)).sum })) := by
  have hsec (l : List Nat) (u : State) (hu : u.sec = s.sec) : (!(l.foldl declareStackLost u).sec.owned) = false := by
    rw [foldl_sec u declareStackLost_sec, hu, hown]; rfl
  rw [exec_dawnDram, execDawnDram, up_run hrun, step_in_progress hstep, if_pos hown]
  refine congrArg _ (if_neg fun h => ?_)
  refine absurd h.1 (ne_true_of_eq_false (hsec _ _ ?_))
  rfl

theorem dawnLinks_run (hrun : Running s) (hstep : s.dev.step = 5) : exec (.dawnLinks t) s =
    let u := ((usedPorts s).filter (portFresh s)).foldl (fun s p => startBringup s p 1) s
    .next (if (usedPorts u).all fun p => decide ((linkOf u p).step = 0 ∨ 6 ≤ (linkOf u p).step)
      then stepEnds u t 6 else u) := by
  rw [exec_dawnLinks, execDawnLinks, up_run hrun, step_in_progress hstep]

theorem dawnFarEndIdentity_done (hrun : Running s) (hstep : s.dev.step = 6)
    (h : ((usedPorts s).all fun p => decide ((linkOf s p).step = 0)) = true) : exec (.dawnFarEndIdentity t) s =
      .next (onTn (stepEnds s t 7) .zs fun n => { n with electing := true }) := by
  rw [exec_dawnFarEndIdentity, execDawnFarEndIdentity, up_run hrun, if_pos ⟨hstep, h⟩]

theorem dawnElectionAndLock_done (hrun : Running s) (hstep : s.dev.step = 7)
    (h : s.flt.tn.lock ≠ .unlocked ∨ 2000 ≤ t) : exec (.dawnElectionAndLock t) s = .next (stepEnds s t 8) := by
  rw [exec_dawnElectionAndLock, execDawnElectionAndLock, up_run hrun, if_pos ⟨hstep, h⟩]

theorem dawnModeEntered_run (hrun : Running s) (hstep : s.dev.step = 8) : exec (.dawnModeEntered t) s =
    let u := if s.flt.tn.lock = .unlocked then s.onFlt fun f => { f with service := false } else s
    .next (flashDone ((stepEnds u t 9).onDev fun d => { d with dawnDone := true })) := by
  rw [exec_dawnModeEntered, execDawnModeEntered, up_run hrun, step_in_progress hstep]

end

/-- Settles O34: one lemma for each step. Without SFDP step 2 goes on to step 4 (log entry 127), DAWN_LINKS may be given
again (log entry 125), and the PUF is that of log entry 22. -/
theorem dawnStepsAnswer : Obligations.DawnStepsAnswer := by
  intro s hrun
  exact ⟨fun q sfdp t hstep => dawnBootRom_run q sfdp hrun hstep,
    fun raw helper t hstep h => dawnPuf_noSfdp raw helper hrun hstep h,
    fun raw helper t hstep h => dawnPuf_sfdp raw helper hrun hstep h,
    fun image n t hstep => dawnNvm_run image n hrun hstep, fun bits t hstep hown => dawnDram_owned bits hrun hstep hown,
    fun t hstep => dawnLinks_run hrun hstep, fun t hstep h => dawnFarEndIdentity_done hrun hstep h,
    fun t hstep h => dawnElectionAndLock_done hrun hstep h, fun t hstep => dawnModeEntered_run hrun hstep⟩

end Sys2Proof.Machine
end

section
/-! PROOFS. Ring commands for the manager, the caps, and the ring commands of a switch that is UNVERIFIED. -/

namespace Sys2Proof.Machine

/-! ### Commands for the manager (R622, R632, R634, R676; log entry 105) -/

/-- The manager commands of a ring are rows of `mgrRow`. -/
theorem exec_mgrCommand {r : CmdRef} {d : Desc} {op : Nat} {c : Instr}
    (h : (op, c) ∈ [(0xA9, .modeSet r d), (0xAA, .spareSet r d), (0xAB, .dusk r d), (0xAC, .rejoin r d)]) (s : State) :
    exec c s = up s (mgrRow op r d) := by
  simp only [List.mem_cons, Prod.mk.injEq, List.not_mem_nil, or_false] at h
  obtain ⟨rfl, rfl⟩ | ⟨rfl, rfl⟩ | ⟨rfl, rfl⟩ | ⟨rfl, rfl⟩ := h <;> rfl

theorem exec_pwrCap (r : CmdRef) (d : Desc) (s : State) : exec (.pwrCap r d) s =
    up s fun s => if forManager d = true then mgrRow 0xB8 r d s else runRow specPwrCap r d default s := rfl

/-- A manager command that may begin, and that no bar holds back, runs for the manager. -/
theorem mgrRow_turn {op : Nat} {r : CmdRef} {d : Desc} {s : State} {f : InFlight} (h : mayBegin s op r d = some f) :
    mgrRow op r d s = runMgr (markBegun s r f) (.ring r) d := by
  unfold mgrRow; rw [h]

theorem runMgr_barred {s : State} (o : Origin) {d : Desc} (h : barred s d = true) :
    runMgr s o d = complete s o d stResourceRefused [] := by
  rw [runMgr, if_pos h]

/-- A manager command that passes its format checks is the manager's, whatever its activation tick. -/
theorem mgrRow_passes {op : Nat} {r : CmdRef} {d : Desc} {s : State} {f : InFlight} (h : RingTurn s op r d f)
    (hchk : firstFail (mgrFormat (markBegun s r f) (.ring r) d) = none) :
    mgrRow op r d s = addMgr (markBegun s r f) (.ring r) d := by
  obtain ⟨-, hturn, hbar⟩ := h
  rw [mgrRow_turn hturn, runMgr, if_neg (by rw [markBegun_barred, hbar]; exact Bool.false_ne_true), hchk]

theorem pwrCap_row {s : State} {r : CmdRef} {d : Desc} {f : InFlight} (h : RingTurn s 0xB8 r d f)
    (hm : forManager d = true) (hchk : firstFail (mgrFormat (markBegun s r f) (.ring r) d) = none) :
    exec (.pwrCap r d) s = .next (addMgr (markBegun s r f) (.ring r) d) := by
  rw [exec_pwrCap, up_run h.1, if_pos hm, mgrRow_passes h hchk]

theorem pwrCap_here {s : State} {r : CmdRef} {d : Desc} {f : InFlight} (h : RingTurn s 0xB8 r d f)
    (hm : forManager d = false) (hdest : targetAt 48 d (markBegun s r f) = none)
    (hchk : specPwrCap.chk (.ring r) d (markBegun s r f) = none)
    (htick : Desc.staged d = false ∨ Desc.activate d ≤ s.now) :
    exec (.pwrCap r d) s = .next (specPwrCap.eff (.ring r) d default (markBegun s r f)) := by
  rw [exec_pwrCap, up_run h.1, if_neg (ne_true_of_eq_false hm), ← up_run h.1]
  exact runRow_eff h hdest hchk (htick.imp_right .inr)

/-- Settles O36: a manager command joins those that the manager decides, a staged one at once as log entry 105 deduces,
and a cap is a row of the table where it is not the row's. -/
theorem managerCommandsAndCapsRun : Obligations.ManagerCommandsAndCapsRun := by
  intro s r d f
  refine ⟨fun op c hc hturn hchk => ?_, pwrCap_row, pwrCap_here⟩
  rw [exec_mgrCommand hc, up_run hturn.1, mgrRow_passes hturn hchk]

/-! ### UNVERIFIED (R725, R727) -/

/-- In UNVERIFIED the bar holds back every command but the listed ones. -/
theorem barred_unowned {s : State} (d : Desc) (h : s.sec.owned = false) :
    barred s d = !openOps.contains (Desc.opcode d) := by
  simp only [barred, h, Bool.not_false, Bool.or_true, Bool.true_and]

theorem ringRows_barLate : (ringRows.filter fun x => x.1.barLate).map Prod.fst = [specRegionMeasure, specFwUpdate] := rfl

/-- REGION_MEASURE and FW_UPDATE are the commands whose own tables hold the bar. -/
theorem barLate_iff : ∀ x ∈ ringRows, x.1.barLate = true ↔ x.1.op = 0xC1 ∨ x.1.op = 0xC2 := by decide

theorem barLate_cases {x : CmdSpec × (CmdRef → Desc → Pick → Instr)} (hx : x ∈ ringRows)
    (h : x.1.barLate = true) :
    x.1 = specRegionMeasure ∨ x.1 = specFwUpdate := by
  have hmem : x.1 ∈ [specRegionMeasure, specFwUpdate] :=
    ringRows_barLate ▸ List.mem_map_of_mem (List.mem_filter.2 ⟨hx, h⟩)
  simpa using hmem

/-- A table of failures with a row that holds ends with one of its statuses. -/
theorem firstFail_of_mem {b : Bool} {st : Status} : ∀ {rows : List (Bool × Status)}, (b, st) ∈ rows → b = true →
    ∃ x ∈ rows, firstFail rows = some x.2
  | (c, st') :: rows, hmem, hb => by
    rw [firstFail]
    cases c with
    | true => exact ⟨_, List.mem_cons_self, if_pos rfl⟩
    | false =>
      obtain heq | htail := List.mem_cons.1 hmem
      · cases heq; cases hb
      · obtain ⟨x, hx, hfail⟩ := firstFail_of_mem htail hb
        exact ⟨x, List.mem_cons_of_mem _ hx, (if_neg Bool.false_ne_true).trans hfail⟩

theorem regionMeasure_barred {s : State} (o : Origin) {d : Desc} (h : barred s d = true) :
    ∃ st, st ≠ stOk ∧ specRegionMeasure.chk o d s = some st := by
  obtain ⟨x, hx, hfail⟩ := firstFail_of_mem
    (b := barred s d || (measureOf? s (descRegion d)).isNone && decide (s.sec.measures.length ≥ measureTable))
    (st := stResourceRefused) (rows := regionRows s o d ++ _) (List.mem_append_right _ (.tail _ (.head _))) (by simp [h])
  refine ⟨x.2, ?_, hfail⟩
  simp only [regionRows, List.mem_append, List.mem_cons, List.not_mem_nil, or_false] at hx
  obtain (rfl | rfl) | rfl | rfl | rfl := hx <;> (dsimp only; decide)

theorem fwUpdate_barred {s : State} (o : Origin) {d : Desc} (h : barred s d = true) :
    ∃ st, st ≠ stOk ∧ specFwUpdate.chk o d s = some st := by
  obtain ⟨x, hx, hfail⟩ := firstFail_of_mem (b := barred s d || s.sec.update.isSome) (st := stResourceRefused)
    (rows := [(!isOperator s o, stTenantDenied), (_, stOutOfRange), _]) (.tail _ (.tail _ (.head _))) (by simp [h])
  refine ⟨x.2, ?_, hfail⟩
  simp only [List.mem_cons, List.not_mem_nil, or_false] at hx
  obtain rfl | rfl | rfl := hx <;> (dsimp only; decide)

/-- A late bar refuses the command with some failure of its own table. -/
theorem barLate_refuses {x : CmdSpec × (CmdRef → Desc → Pick → Instr)} (hx : x ∈ ringRows)
    (hl : x.1.barLate = true) {s : State} (o : Origin) {d : Desc} (h : barred s d = true) : x.1.dest d s = none ∧
      ∃ st, st ≠ stOk ∧ x.1.chk o d s = some st := by
  obtain heq | heq := barLate_cases hx hl
  · rw [heq]; exact ⟨rfl, regionMeasure_barred o h⟩
  · rw [heq]; exact ⟨rfl, fwUpdate_barred o h⟩

section
variable {s : State} {r : CmdRef} {d : Desc} (k : Pick) (order : Nat) {c : CmdSpec}

theorem runCmd_barred (o : Origin) (h : barred s d = true) (hl : c.barLate = false) :
    runCmd s o d k order c = complete s o d stResourceRefused [] := by
  rw [runCmd, if_pos ⟨h, by rw [hl]; rfl⟩]

/-- A ring command that no bar refuses ends with its first failure, waits for its tick, or has its effect. -/
theorem runCmd_ring (h : ¬ (barred s d = true ∧ (!c.barLate) = true)) (hdest : c.dest d s = none) :
    runCmd s (.ring r) d k order c = match c.chk (.ring r) d s with
      | some st => complete s (.ring r) d st (c.info (.ring r) d st s)
      | none =>
        if Desc.staged d ∧ c.early = false ∧ s.now < Desc.activate d then
          s.onRgn fun g => { g with staged := g.staged ++ [⟨Desc.activate d, order, .ring r, d, k, none⟩] }
        else c.eff (.ring r) d k s := by
  rw [runCmd, if_neg h, hdest]
  cases hchk : c.chk (.ring r) d s <;> simp only [failure_ring, hchk, Bool.not_eq_true']

end

/-- Settles O46: the bar is on every command but the listed ones; the two commands with a late bar have it among the
rows of their own tables. -/
theorem unverifiedRefusesOtherCommands : Obligations.UnverifiedRefusesOtherCommands := by
  intro s r d k f hrun hown u
  refine ⟨fun x hx hturn => ?_, fun op c hc hturn => ?_⟩
  · have hbar : barred u d = !openOps.contains x.1.op := by
      rw [markBegun_barred, barred_unowned d hown, opcode_of_mayBegin hturn]
    have hexec : exec (x.2 r d k) s = .next (runCmd u (.ring r) d (pickOf x.1 k) f.order x.1) := by
      rw [exec_ringRow x hx, up_run hrun, runRow_turn hturn]
    refine ⟨fun hop h1 h2 => ?_, fun hop => ?_, fun hop hdest => ⟨pickOf x.1 k, ?_⟩⟩
    · have hlate : x.1.barLate = false := Bool.eq_false_iff.2 fun h => ((barLate_iff x hx).1 h).elim h1 h2
      rw [hexec, runCmd_barred _ _ _ (by simpa [hbar] using hop) hlate]
    · have hlate : x.1.barLate = true := (barLate_iff x hx).2 hop
      have hb : barred u d = true := by rw [hbar]; rcases hop with h | h <;> rw [h] <;> rfl
      obtain ⟨hdest, st, hst, hchk⟩ := barLate_refuses hx hlate (.ring r) hb
      refine ⟨st, x.1.info (.ring r) d st u, hst, ?_⟩
      rw [hexec, runCmd_ring _ _ (by simp [hlate]) hdest, hchk]
    · rw [hexec, runCmd_ring _ _ (by simp [hbar, hop]) hdest]
      rfl
  · have hb : barred u d = true := by
      rw [markBegun_barred, barred_unowned d hown, opcode_of_mayBegin hturn]
      simp only [List.mem_cons, Prod.mk.injEq, List.not_mem_nil, or_false] at hc
      obtain ⟨rfl, -⟩ | ⟨rfl, -⟩ | ⟨rfl, -⟩ | ⟨rfl, -⟩ := hc <;> rfl
    rw [exec_mgrCommand hc, up_run hrun, mgrRow_turn hturn, runMgr_barred _ hb]

end Sys2Proof.Machine
end

section
/-! PROOFS. The operations of the ZE-208: which command takes the next one of a queue, and what becomes of it. -/

namespace Sys2Proof.Machine

/-! ### Operations of the ZE-208 (R552 to R556, R559, R560, R564) -/

/-- Each operation takes the next descriptor of its queue or channel. -/
theorem exec_epOperation {c : Instr} {i op : Nat} (h : EpOperation c i op) (s : State) :
    exec c s = .next (atEp s fun s => epTake s i op) := by
  obtain ⟨q, rfl, h⟩ | ⟨n, rfl, h⟩ := h
  · simp only [List.mem_cons, Prod.mk.injEq, List.not_mem_nil, or_false] at h
    obtain ⟨rfl, rfl⟩ | ⟨rfl, rfl⟩ | ⟨rfl, rfl⟩ | ⟨rfl, rfl⟩ | ⟨rfl, rfl⟩ | ⟨rfl, rfl⟩ | ⟨rfl, rfl⟩ := h <;> rfl
  · simp only [List.mem_cons, Prod.mk.injEq, List.not_mem_nil, or_false] at h
    obtain ⟨rfl, rfl⟩ | ⟨rfl, rfl⟩ | ⟨rfl, rfl⟩ | ⟨rfl, rfl⟩ := h <;> rfl

theorem atEp_eq {s u : State} {k : State → State} (h : k s = u) : atEp s k = atEp u id := by
  rw [atEp, h]; rfl

theorem isContribOp_iff (d : Desc) : isContribOp d = true ↔ EpDesc.op d = 0x12 := by
  rw [isContribOp, beq_iff_eq]

/-- The end point with the next operation of queue or channel `i` taken. -/
def epTaken (s : State) (i : Nat) : State :=
  (onEpQ s i fun q => { q with taken := q.taken + 1 }).onEp fun e =>
    { e with ops := e.ops ++ [EpOp.fresh i (epQ s.ep i).taken (epNext s.ep i)] }

/-- An operation that may be taken starts, or ends with the first check it fails; a CONTRIB goes on at once. -/
theorem epTake_next {s : State} {i op : Nat} (htake : epTakeable s.ep i = true) (hop : EpDesc.op (epNext s.ep i) = op)
    (hfresh : epOp? s.ep i (epQ s.ep i).taken = none)
    (hcontrib : op = 0x12 → contribOp s.ep (contribBinding (epNext s.ep i)) = none) :
    epTake s i op = match epCheck (epTaken s i).ep i (epNext s.ep i) with
      | some st => epStepAll (epDecide (epTaken s i) i (epQ s.ep i).taken st 0)
      | none => epStepAll (if op = 0x12
          then contribGo (epStart (epTaken s i) i (epQ s.ep i).taken (epNext s.ep i)) (contribBinding (epNext s.ep i))
          else epStart (epTaken s i) i (epQ s.ep i).taken (epNext s.ep i)) := by
  have hfree : ¬ (isContribOp (epNext s.ep i) = true ∧
      (contribOp s.ep (contribBinding (epNext s.ep i))).isSome = true) := by
    rintro ⟨hc, hbusy⟩
    rw [hcontrib (hop ▸ (isContribOp_iff _).1 hc)] at hbusy
    exact Bool.false_ne_true hbusy
  rw [epTake, if_neg (by simp [htake]), hfresh, if_neg (by simp), if_neg fun h => h.1 hop, if_neg hfree]
  simp only [isContribOp_iff, hop] <;> rfl

/-- Settles O23: the operation is taken, and its checks decide whether it starts. -/
theorem endPointOperationsStart : Obligations.EndPointOperationsStart := by
  intro s c i op hc htake hop hfresh hcontrib k d s1
  have hnext := epTake_next htake hop hfresh hcontrib
  rw [exec_epOperation hc]
  refine ⟨fun hpass => congrArg _ (atEp_eq (hnext.trans ?_)), fun st hfail => congrArg _ (atEp_eq (hnext.trans ?_))⟩
  · change epCheck (epTaken s i).ep i (epNext s.ep i) = none at hpass
    rw [hpass]; rfl
  · change epCheck (epTaken s i).ep i (epNext s.ep i) = some st at hfail
    rw [hfail]; rfl

end Sys2Proof.Machine
end

section
/-! PROOFS. The time tree: beacons, liveness counts, elections, first locks, lost parents, and STATUS. -/

namespace Sys2Proof.Machine

/-! ### Commands of a part (R772, R773) -/

/-- A part of a running switch acts. -/
theorem onPart_run {s : State} (part : Part) (k : State → State) (h : Running s) : onPart part s k = .next (k s) := by
  cases part with
  | zs => exact up_run h
  | ze => rfl

theorem onPart_ze (s : State) (k : State → State) : onPart .ze s k = .next (k s) := rfl

@[simp] theorem tnOf_atPart (s : State) (part : Part) (t : Time) : tnOf (atPart s part t) part = tnOf s part := by
  cases part <;> rfl

@[simp] theorem nodeLinkUp_atPart (s : State) (part : Part) (t : Time) (p : Nat) :
    nodeLinkUp (atPart s part t) part p = nodeLinkUp s part p := by
  cases part <;> rfl

/-! ### Beacons and STATUS (R608 to R610; log entry 60) -/

theorem exec_beacon (part : Part) (via : Heard) (b : Beacon) (t : Time) (fr : Fin 16) (s : State) :
    exec (.beacon part via b t fr) s = execBeacon part via b t fr s := rfl

theorem exec_beaconSend (part : Part) (port : Fin 64) (t : Time) (s : State) :
    exec (.beaconSend part port t) s = execBeaconSend part port t s := rfl

theorem exec_status (part : Part) (via : Heard) (n : Node) (map : BitVec 256) (t : Time) (s : State) :
    exec (.status part via n map t) s = execStatus part via n map t s := rfl

section
variable {s : State} {t : Time} {port : Fin 64} {dst : Node}

theorem beacon_zs (b : Beacon) (fr : Fin 16) (hrun : Running s) (h : hears s .zs port.val dst = true) :
    exec (.beacon .zs ⟨port, dst⟩ b t fr) s =
      .next (mgrGo (askTables (refreshCand (traceTimefault (beaconIn .zs port b t fr s) port 0x01 false 0 b.term)))) := by
  rw [exec_beacon, execBeacon, onPart_run .zs _ hrun]
  exact congrArg _ (if_neg (by simp [h]))

theorem beacon_ze (b : Beacon) (fr : Fin 16) (h : hears s .ze port.val dst = true) :
    exec (.beacon .ze ⟨port, dst⟩ b t fr) s = .next (beaconIn .ze port b t fr s) := by
  rw [exec_beacon, execBeacon, onPart_ze]
  exact congrArg _ (if_neg (by simp [h]))

/-- A beacon leaves by a link in service when the last one to that neighbor is old enough, or there was none. -/
theorem beaconSend_due (part : Part) (hrun : Running s) (hup : nodeLinkUp s part port = true)
    (hlast : ∀ x, (tnOf s part).nbrs.get? port = some x → x.sentAt = 0 ∨
      due (nowOf (atPart s part t) part) x.sentAt (beaconEvery (atPart s part t) part port) = true) :
    exec (.beaconSend part port t) s =
      let u := atPart s part t
      .next (onTn (sendVc7 u part port (beaconBytes (beaconNow u part port))) part fun n => { n with
        nbrs := n.nbrs.set port { (n.nbrs.getD port default) with sentAt := nowOf u part } }) := by
  rw [exec_beaconSend, execBeaconSend, onPart_run part _ hrun]
  refine congrArg _ (if_pos ⟨by simp [hup], ?_⟩)
  rw [tnOf_atPart]
  cases hx : (tnOf s part).nbrs.get? port with
  | none => rfl
  | some x => simpa using hlast x hx

/-- STATUS of another node is recorded at the port it came by. -/
theorem status_zs {n : Node} (map : BitVec 256) (hrun : Running s) (hn : n ≠ s.dev.nodeId)
    (h : hears s .zs port.val dst = true) : exec (.status .zs ⟨port, dst⟩ n map t) s =
      .next (mgrGo (traceTimefault (onTn (s.at_ t) .zs fun x => { x with
        nbrs := x.nbrs.set port { (x.nbrs.getD port default) with map := map, statusAt := some (s.at_ t).now } })
          port 0x12 false n.toNat s.flt.tn.term)) := by
  have h' : (!hears (s.at_ t) .zs port.val dst) = false := congrArg (!·) h
  rw [exec_status, execStatus, onPart_run .zs _ hrun]
  exact congrArg _ ((if_neg hn).trans (if_neg (ne_true_of_eq_false h')))

end

/-! ### Liveness and the manager (R612, R613; log entries 97, 98) -/

theorem exec_livenessTick (t : Time) (s : State) : exec (.livenessTick t) s = execLivenessTick t s := rfl

theorem exec_livenessAgeout (n : Node) (t : Time) (s : State) :
    exec (.livenessAgeout n t) s = execLivenessAgeout n t s := rfl

theorem exec_takeManagerRole (t : Time) (s : State) : exec (.takeManagerRole t) s = execTakeManagerRole t s := rfl

section
variable {s : State} {t : Time}

theorem livenessTick_due {e : BitVec 32 × Time} (hrun : Running s) (hel : eligible s = true)
    (he : s.flt.tn.live.get? s.dev.nodeId.toNat = some e) (hdue : due (s.at_ t).now e.2 (us 10) = true) :
    exec (.livenessTick t) s = .next (refreshCand ((s.at_ t).onFlt fun c => { c with
      liveCount := s.flt.liveCount + 1
      tn := { c.tn with live := c.tn.live.set s.dev.nodeId.toNat (s.flt.liveCount + 1, (s.at_ t).now) } })) := by
  have he' : (s.at_ t).flt.tn.live.get? (s.at_ t).dev.nodeId.toNat = some e := he
  rw [exec_livenessTick, execLivenessTick, up_run hrun]
  refine congrArg _ (if_pos ⟨hel, ?_⟩)
  rw [he']
  exact hdue

/-- The age-out of the manager begins an election, unless this switch is the manager. -/
theorem livenessAgeout_manager {n : Node} {e : BitVec 32 × Time} (hrun : Running s)
    (he : s.flt.tn.live.get? n.toNat = some e) (hold : isLive (s.at_ t).now e = false) (hn : n = s.flt.tn.manager)
    (hrole : s.flt.role = false) : exec (.livenessAgeout n t) s =
      .next (refreshCand (onTn (s.at_ t) .zs fun n => { n with electing := true })) := by
  have he' : (s.at_ t).flt.tn.live.get? n.toNat = some e := he
  have hlost : n = (s.at_ t).flt.tn.manager ∧ (!(s.at_ t).flt.role) = true := ⟨hn, by simp [hrole]⟩
  rw [exec_livenessAgeout, execLivenessAgeout, up_run hrun]
  simp only [he', hold, Bool.false_eq_true, if_false, if_pos hlost]

/-! Choosing the candidate leaves the time, the role and the lock as they are. -/

theorem refreshCand_now (s : State) : (refreshCand s).now = s.now := by
  unfold refreshCand; split <;> rfl

theorem refreshCand_role (s : State) : (refreshCand s).flt.role = s.flt.role := by
  unfold refreshCand; split <;> rfl

theorem refreshCand_tn (s : State) : (refreshCand s).flt.tn = s.flt.tn := by
  unfold refreshCand; split <;> rfl

/-- A candidate of 300 us takes the role, where it is locked. -/
theorem takeManagerRole_due {c : Time} (hrun : Running s) (hc : (refreshCand (s.at_ t)).flt.candSince = some c)
    (hrole : s.flt.role = false) (hdue : due (s.at_ t).now c (us 300) = true) (hlock : s.flt.tn.lock ≠ .unlocked) :
    exec (.takeManagerRole t) s = .next (takeRole (refreshCand (s.at_ t))) := by
  rw [exec_takeManagerRole, execTakeManagerRole, up_run hrun]
  simp only [hc]
  refine congrArg _ (if_pos ⟨?_, ?_, .inl ?_⟩)
  · rw [refreshCand_role, State.at__flt, hrole]; rfl
  · rwa [refreshCand_now]
  · rwa [refreshCand_tn]

end

/-! ### The lock of a node and its parent (R601 to R603, R611; log entry 96) -/

theorem exec_firstLock (part : Part) (s : State) : exec (.firstLock part) s = execFirstLock part s := rfl

theorem exec_parentLoss (part : Part) (t : Time) (s : State) :
    exec (.parentLoss part t) s = execParentLoss part t s := rfl

section
variable {s : State}

theorem firstLock_zs (hrun : Running s) (h : lockReady s .zs = true) : exec (.firstLock .zs) s =
    let u := onTn (stepZs s (s.flt.tn.offset.tdiv 16)) .zs fun n =>
      { movedBy n (s.flt.tn.offset.tdiv 16) with lock := .locked }
    .next (traceTime (setMode u (u.flt.rowMode.getD false))) := by
  rw [exec_firstLock, execFirstLock, onPart_run .zs _ hrun]
  exact congrArg _ (if_neg (by simp [h]))

theorem firstLock_ze (h : lockReady s .ze = true) : exec (.firstLock .ze) s =
    .next ((onTn (stepZe s (s.ep.tn.offset.tdiv 16)) .ze
      fun n => { movedBy n (s.ep.tn.offset.tdiv 16) with lock := .locked }).onEp fun e => { e with
        configured := decide (e.nodeId ≠ 0) && !e.trip }) := by
  rw [exec_firstLock, execFirstLock, onPart_ze]
  exact congrArg _ (if_neg (by simp [h]))

/-- A node whose link to its parent is out of service chooses another. -/
theorem parentLoss_linkDown (part : Part) (t : Time) {p : Nat} (hrun : Running s) (hp : (tnOf s part).parent = some p)
    (hdown : nodeLinkUp s part p = false) : exec (.parentLoss part t) s = .next (reparent (atPart s part t) part) := by
  rw [exec_parentLoss, execParentLoss, onPart_run part _ hrun]
  refine congrArg _ (if_pos ?_)
  simp only [tnOf_atPart, hp, nodeLinkUp_atPart, hdown, Bool.not_false, Bool.true_or]

end

/-- Settles O30: one lemma for each message and timer. ELECTING at the manager's age-out and the step of the stored
instants at the first lock are log entries 98 and 96. -/
theorem timeAndElectionMessagesAct : Obligations.TimeAndElectionMessagesAct := by
  intro s t hrun
  exact ⟨fun port dst b fr h => beacon_zs b fr hrun h, fun port dst b fr h => beacon_ze b fr h,
    fun part port hup hlast => beaconSend_due part hrun hup hlast,
    fun e hel he hdue => livenessTick_due hrun hel he hdue,
    fun n e he hold hn hrole => livenessAgeout_manager hrun he hold hn hrole,
    fun c hc hrole hdue hlock => takeManagerRole_due hrun hc hrole hdue hlock, fun h => firstLock_zs hrun h,
    fun h => firstLock_ze h, fun part p hp hdown => parentLoss_linkDown part t hrun hp hdown,
    fun port dst n map hn h => status_zs map hrun hn h⟩

end Sys2Proof.Machine
end

section
/-! PROOFS. Faults: reports, probes, decisions, verdicts, drains, and manager commands that wait. -/

namespace Sys2Proof.Machine

/-! ### Reports and probes (R614 to R617; log entry 100) -/

theorem exec_report (part : Part) (via : Heard) (m : Report) (s : State) :
    exec (.report part via m) s = execReport part via m s := rfl

theorem exec_probe (part : Part) (via : Heard) (s : State) : exec (.probe part via) s = execProbe part via s := rfl

theorem exec_probeReply (via : Heard) (st : Byte) (s : State) :
    exec (.probeReply via st) s = execProbeReply via st s := rfl

theorem exec_probeTimeout (port : Fin 64) (t : Time) (s : State) :
    exec (.probeTimeout port t) s = execProbeTimeout port t s := rfl

section
variable {s : State} {t : Time} {port : Fin 64} {dst : Node}

/-- A new report that a node hears is not passed over. -/
theorem report_heard {part : Part} {m : Report} (h : hears s part port.val dst = true)
    (hnew : seenKey s part (reportKey m) = false) :
    ¬ ((!hears s part port.val dst) = true ∨ seenKey s part (reportKey m) = true) := by
  simp [h, hnew]

theorem report_zs {m : Report} (hrun : Running s) (h : hears s .zs port.val dst = true)
    (hnew : seenKey s .zs (reportKey m) = false) : exec (.report .zs ⟨port, dst⟩ m) s =
      let u := flood (markSeen s .zs (reportKey m)) .zs (some port.val) (reportBytes m)
      .next (holdReport (traceTimefault u port 0x08 false m.subject.toNat u.flt.tn.term) m) := by
  rw [exec_report, execReport, onPart_run .zs _ hrun]
  exact congrArg _ (if_neg (report_heard h hnew))

theorem report_ze {m : Report} (h : hears s .ze port.val dst = true) (hnew : seenKey s .ze (reportKey m) = false) :
    exec (.report .ze ⟨port, dst⟩ m) s =
      .next (flood (markSeen s .ze (reportKey m)) .ze (some port.val) (reportBytes m)) := by
  rw [exec_report, execReport, onPart_ze]
  exact congrArg _ (if_neg (report_heard h hnew))

theorem probe_ze (h : hears s .ze port.val dst = true) : exec (.probe .ze ⟨port, dst⟩) s = .next (sendVc7 s .ze port
    [0x0A, BitVec.ofNat 8 (b2n s.ep.configured + 2 * b2n (s.ep.m0 || s.ep.m1) + 4 * b2n s.ep.trip)]) := by
  rw [exec_probe, execProbe, onPart_ze]
  exact congrArg _ (if_neg (by simp [h]))

theorem probe_zs (hrun : Running s) (h : hears s .zs port.val dst = true) : exec (.probe .zs ⟨port, dst⟩) s =
    .next (sendVc7 (traceTimefault s.stepFree port 0x09 false 0 s.flt.tn.term) .zs port
      [0x0A, s.freeWord.setWidth 8]) := by
  rw [exec_probe, execProbe, onPart_run .zs _ hrun]
  exact congrArg _ (if_neg (by simp [h]))

/-- The reply to a probe ends it: any reply of a switch tells that the node is alive. -/
theorem probeReply_heard (st : Byte) (hrun : Running s) (hp : s.flt.probes.has port = true)
    (h : hears s .zs port.val dst = true) : exec (.probeReply ⟨port, dst⟩ st) s =
      .next (probeEnd s port (isSwitch (nodeAt s port) || decide (st &&& 3 = 3))) := by
  rw [exec_probeReply, execProbeReply, up_run hrun]
  exact congrArg _ (if_pos ⟨hp, h⟩)

theorem probeTimeout_due {x : Time} (hrun : Running s) (hx : s.flt.probes.get? port = some x)
    (hdue : due (s.at_ t).now x (us 100) = true) :
    exec (.probeTimeout port t) s = .next (probeEnd (s.at_ t) port false) := by
  rw [exec_probeTimeout, execProbeTimeout, up_run hrun]
  simp only [State.at__flt, hx, hdue, if_true]

end

/-! ### Decisions and verdicts (R611, R613, R618 to R620) -/

theorem exec_decisionWindow (t : Time) (s : State) : exec (.decisionWindow t) s = execDecisionWindow t s := rfl

theorem exec_verdict (part : Part) (via : Heard) (v : Verdict) (s : State) :
    exec (.verdict part via v) s = execVerdict part via v s := rfl

theorem exec_verdictApply (part : Part) (t : Time) (s : State) :
    exec (.verdictApply part t) s = execVerdictApply part t s := rfl

section
variable {s : State} {t : Time} {port : Fin 64} {dst : Node} {v : Verdict}

/-- The manager with quorum decides when its window has been open for 1 ms. -/
theorem decisionWindow_due {w : Time} (hrun : Running s) (hw : s.flt.window = some w) (hrole : s.flt.role = true)
    (hdue : due (s.at_ t).now w (ms 1) = true) (hq : quorum (s.at_ t) = true) : exec (.decisionWindow t) s =
      .next (decideLosses (windowSubjects (s.at_ t)) s.flt.spares ((s.at_ t).onFlt fun c => { c with window := none })) := by
  rw [exec_decisionWindow, execDecisionWindow, up_run hrun]
  simp only [State.at__flt, hw]
  exact congrArg _ (if_pos ⟨hrole, hdue, hq⟩)

theorem verdict_ze (h : hears s .ze port.val dst = true) (hterm : s.ep.tn.term ≤ v.term)
    (hnew : seenKey (adoptTerm s .ze v.term v.manager) .ze (verdictKey v) = false) :
    exec (.verdict .ze ⟨port, dst⟩ v) s =
      .next (atEp (flood (markSeen (adoptTerm s .ze v.term v.manager) .ze (verdictKey v)) .ze (some port.val)
        (verdictBytes v)) fun s => acceptVerdict s .ze v) := by
  rw [exec_verdict, execVerdict, onPart_ze]
  refine congrArg _ ((if_neg (by simp [h])).trans ?_)
  exact (if_neg (Nat.not_lt.2 hterm)).trans (if_neg (ne_true_of_eq_false hnew))

theorem verdict_zs (hrun : Running s) (h : hears s .zs port.val dst = true) :
    let u := traceTimefault s port 0x10 false v.subject.toNat v.term
    u.flt.tn.term ≤ v.term → seenKey (adoptTerm u .zs v.term v.manager) .zs (verdictKey v) = false →
    exec (.verdict .zs ⟨port, dst⟩ v) s = .next (acceptVerdict (flood (markSeen (adoptTerm u .zs v.term v.manager) .zs
      (verdictKey v)) .zs (some port.val) (verdictBytes v)) .zs v) := by
  intro u hterm hnew
  rw [exec_verdict, execVerdict, onPart_run .zs _ hrun]
  refine congrArg _ ((if_neg (by simp [h])).trans ?_)
  exact (if_neg (Nat.not_lt.2 hterm)).trans (if_neg (ne_true_of_eq_false hnew))

theorem verdictApply_zs (hrun : Running s) : exec (.verdictApply .zs t) s =
    .next (commandsGo ((dueVerdicts s.flt.tn (s.reachTick t).now).foldl (fun s v => applyVerdict s .zs v)
      (s.reachTick t))) := by
  rw [exec_verdictApply, execVerdictApply, onPart_run .zs _ hrun]
  rfl

theorem verdictApply_ze : exec (.verdictApply .ze t) s =
    .next (atEp ((dueVerdicts s.ep.tn (s.epReachTick t).ep.now).foldl (fun s v => applyVerdict s .ze v)
      (s.epReachTick t)) id) := by
  rw [exec_verdictApply, execVerdictApply, onPart_ze]
  exact congrArg _ (atEp_eq rfl)

end

/-! ### Drains, and commands that wait for quorum or for the row (R621, R632, R635, R676; log entry 109) -/

theorem exec_managerQuorumTimeout (id : Nat) (t : Time) (s : State) :
    exec (.managerQuorumTimeout id t) s = execManagerQuorumTimeout id t s := rfl

theorem exec_rowCapTimeout (t : Time) (s : State) : exec (.rowCapTimeout t) s =
    up s fun s => ((s.at_ t).pwr.rowSent.filter fun c => due (s.at_ t).now c.sent (ms 10)).foldl endRowCap (s.at_ t) := rfl

section
variable {s : State} {t : Time}

/-- A drain of the switch whose second instant has come ends, and at the ZE-208 too when it is due there. -/
theorem drainSecondInstant_due {n : Node} {d : Drain} (hrun : Running s)
    (hd : (s.flt.drains.find? fun d => decide (d.subject = n ∧ d.second ≤ (s.reachTick t).now)) = some d) :
    exec (.drainSecondInstant n t) s =
      let u := endDrain (s.reachTick t) d
      let u := if u.ep.tn.lock = .unlocked then u else u.epAt t
      .next (if drainDueZe u n = true then atEp u fun s => endDrainZe s n else u) := by
  rw [exec_drainSecondInstant, execDrainSecondInstant]
  simp only [if_pos (on_of_running hrun), State.reachTick_flt, hd]

theorem managerQuorumTimeout_due {id : Nat} {m : MgrCmd} (hrun : Running s)
    (hm : (s.flt.mgr.find? fun m => m.id == id && !m.decided) = some m)
    (hdue : due (s.at_ t).now m.began (ms 10) = true) : exec (.managerQuorumTimeout id t) s =
      .next (complete (dropMgr (s.at_ t) id) m.origin m.desc stDestLost []) := by
  rw [exec_managerQuorumTimeout, execManagerQuorumTimeout, up_run hrun]
  simp only [State.at__flt, hm, hdue, if_true]

end

/-- Settles O31: one lemma for each message and timer. What a switch answers to a probe, and that any answer of it
counts, is log entry 100. -/
theorem faultMessagesAct : Obligations.FaultMessagesAct := by
  intro s t hrun
  exact ⟨fun port dst m h hnew => report_zs hrun h hnew, fun port dst m h hnew => report_ze h hnew,
    fun port dst h => probe_ze h, fun port dst h => probe_zs hrun h,
    fun port dst st hp h => probeReply_heard st hrun hp h, fun port x hx hdue => probeTimeout_due hrun hx hdue,
    fun w hw hrole hdue hq => decisionWindow_due hrun hw hrole hdue hq,
    fun port dst v h hterm hnew => verdict_ze h hterm hnew,
    fun port dst v h hterm hnew => verdict_zs hrun h hterm hnew, verdictApply_zs hrun, verdictApply_ze,
    fun n d hd => drainSecondInstant_due hrun hd, fun id m hm hdue => managerQuorumTimeout_due hrun hm hdue,
    (exec_rowCapTimeout t s).trans (up_run hrun)⟩

end Sys2Proof.Machine
end
